-- ==== Sys2Proof/Word.lean ====
section
/-! DEFINITION. Words and bytes (00_scope.md, Conventions: a word is 8 bytes, little-endian). -/

namespace Sys2Proof

/-- A byte of memory. -/
abbrev Byte := BitVec 8

/-- A word is 8 bytes; byte 0 is its least significant byte. -/
abbrev Word := BitVec 64

end Sys2Proof
end

