-- ==== Sys2Proof/Syntax.lean ====
section
/-! DEFINITION. The commands: one constructor for each row of spec/opcode_table.json. The part is no processor; a command is
one of its indivisible steps (95_what_each_step_holds.md). Requests and messages carry no operand: their fields lie in the
fetched record or in the message at the head of the intake queue. -/

namespace Sys2Proof

/-- One word of a write: its data and the enables of its 8 bytes, bit i for byte i (00_scope.md, Addresses and transactions). -/
structure WriteWord where
  data    : Word
  enables : BitVec 8
  deriving DecidableEq, Repr

/-- A write transaction: initiator, start address and 1 to 16 words (R1). -/
structure WriteTxn where
  initiator : BitVec 4
  addr      : BitVec 32
  words     : List WriteWord
  deriving DecidableEq, Repr

/-- A read transaction: initiator, start address and length of 1 to 16 words (R1). -/
structure ReadTxn where
  initiator : BitVec 4
  addr      : BitVec 32
  len       : Nat
  deriving DecidableEq, Repr

/-- A P-side transaction in either direction. -/
inductive Txn where
  | write (w : WriteTxn)
  | read (r : ReadTxn)
  deriving DecidableEq, Repr

/-- How the start-up scan ends (R144): the store cannot be read, or every place is read and `failed` marks the places whose
check fails (bit 0 IDENTITY, 1 BINDING, 2 ROOM, 3 POLICY, 4 SERIALS, 5 TITLES, 6 + i COMMIT place i). -/
inductive ScanEnd where
  | unreadable
  | read (failed : BitVec 54)
  deriving DecidableEq, Repr

/-- How a store write ends (R134): verified, or failed with the place holding its former content or a content that fails
its check. -/
inductive Verify where
  | verified
  | failedFormer
  | failedDamaged
  deriving DecidableEq, Repr

/-- The commands, in the order of spec/opcode_table.json. -/
inductive Instr where
  /-- RESET (R176): the strap pins, and which bytes of the write under way memory had performed (bit 8 i + j: byte j of word i). -/
  | reset (straps : BitVec 4) (performed : BitVec 128)
  /-- START_UP_SCAN_COMPLETE (R144). -/
  | startUpScanComplete (scan : ScanEnd)
  /-- STREAM_SLOT_WRITE (R24). -/
  | streamSlotWrite (w : WriteTxn)
  /-- STREAM_SLOT_READ (R60). -/
  | streamSlotRead (r : ReadTxn)
  /-- READ_WORDS_RETURN (R66). -/
  | readWordsReturn
  /-- CONTROL_SLOT_WRITE (R147). -/
  | controlSlotWrite (w : WriteTxn)
  /-- REQUEST_PRODUCE_WRITE (R10). -/
  | requestProduceWrite (w : WriteTxn)
  /-- CONSUME_INDEX_WRITE (R11). -/
  | consumeIndexWrite (w : WriteTxn)
  /-- INDEX_WORD_WRITE_IGNORED (R9). -/
  | indexWordWriteIgnored (w : WriteTxn)
  /-- MSIDE_GRANT (R18). -/
  | msideGrant
  /-- REQUEST_TAKE (R169). -/
  | requestTake
  /-- UNKNOWN_REQUEST (R170). -/
  | unknownRequest
  /-- ATTACH_RING (R14). -/
  | attachRing
  /-- DETACH_RING (R16). -/
  | detachRing
  /-- SERVICE_INFO (R38). -/
  | serviceInfo
  /-- KEY_INFO (R57). -/
  | keyInfo
  /-- SLATE_INFO (R74). -/
  | slateInfo
  /-- SET_PIN (R84). -/
  | setPin
  /-- SET_GUEST_CEILING (R85). -/
  | setGuestCeiling
  /-- UNLOCK (R86). -/
  | unlock
  /-- LOCK_NOW (R88). -/
  | lockNow
  /-- LOCK_INFO (R89). -/
  | lockInfo
  /-- READ_EVENT (R107). -/
  | readEvent
  /-- QUOTE (R115). -/
  | quote
  /-- PURCHASE (R116). -/
  | purchase
  /-- CANCEL (R124). -/
  | cancel
  /-- LIST_PURCHASES (R128). -/
  | listPurchases
  /-- BILL_INFO (R146). -/
  | billInfo
  /-- STATUS (R175). -/
  | status
  /-- ANSWER_RECORD_WRITE (R171). -/
  | answerRecordWrite
  /-- NOTICE_WRITE (R174). -/
  | noticeWrite
  /-- BILL_NOTICE_WRITE (R139). -/
  | billNoticeWrite
  /-- MESSAGE_AT_HEAD (R148). -/
  | messageAtHead
  /-- BIND (R155). -/
  | bind
  /-- UNBIND (R156). -/
  | unbind
  /-- CHECK_IN (R157). -/
  | checkIn
  /-- CHECK_OUT (R158). -/
  | checkOut
  /-- SET_CAP (R162). -/
  | setCap
  /-- ENTITLE (R163). -/
  | entitle
  /-- POLICY (R166). -/
  | policy
  /-- BILL_ACK (R142). -/
  | billAck
  /-- SUSPEND (R161). -/
  | suspend
  /-- RESUME (R161). -/
  | resume
  /-- HOTEL_KEY (R164). -/
  | hotelKey
  /-- CLEAR_PIN (R90). -/
  | clearPin
  /-- KEY (R43). -/
  | key
  /-- SERVICE_MAP (R33). -/
  | serviceMap
  /-- EVENT (R100). -/
  | event
  /-- TIME (R95). -/
  | time
  /-- SLATE (R72). -/
  | slate
  /-- TICK (R93). -/
  | tick
  /-- EVENT_END (R99). -/
  | eventEnd
  /-- GRANT_EXPIRY (R78). -/
  | grantExpiry
  /-- LOCKOUT_EXPIRY (R80). -/
  | lockoutExpiry
  /-- RESEND_DUE (R141). -/
  | resendDue
  /-- REBUILT_ENTRY_LIMIT (R130). -/
  | rebuiltEntryLimit
  /-- CHECKOUT_EXPIRY (R159). -/
  | checkoutExpiry
  /-- STORE_WRITE_COMPLETE (R134). -/
  | storeWriteComplete (v : Verify)
  /-- COMMIT_PAIR_OFFER (R135). -/
  | commitPairOffer
  /-- STORE_WAITING_LINE_ADVANCE (R133). -/
  | storeWaitingLineAdvance
  /-- PASSED_TRANSACTION_ARRIVAL (R3). -/
  | passedTransactionArrival (t : Txn)
  deriving DecidableEq, Repr

end Sys2Proof
end

