-- ==== Sys2Proof/WellFormed.lean ====
section
/-! DEFINITION. Which commands are well formed: a transaction is a burst of 1 to 16 words that starts on a word boundary and
does not wrap (00_scope.md, Addresses and transactions). The widths of all other operands are in their types. -/

namespace Sys2Proof

/-- A burst of `len` words at `addr` is one a transaction can be: 1 to 16 words, on a word boundary, not wrapping. -/
def burstOk (addr : BitVec 32) (len : Nat) : Bool :=
  decide (1 ≤ len) && decide (len ≤ 16) && decide (addr.toNat % 8 = 0) && decide (addr.toNat + 8 * len ≤ 4294967296)

/-- A write is well formed. -/
def WriteTxn.ok (w : WriteTxn) : Bool := burstOk w.addr w.words.length

/-- A read is well formed. -/
def ReadTxn.ok (r : ReadTxn) : Bool := burstOk r.addr r.len

/-- A transaction is well formed. -/
def Txn.ok : Txn → Bool
  | .write w => w.ok
  | .read r => r.ok

/-- A command is well formed. -/
def Instr.wellFormed : Instr → Bool
  | .streamSlotWrite w => w.ok
  | .streamSlotRead r => r.ok
  | .controlSlotWrite w => w.ok
  | .requestProduceWrite w => w.ok
  | .consumeIndexWrite w => w.ok
  | .indexWordWriteIgnored w => w.ok
  | .passedTransactionArrival t => t.ok
  | .reset _ _ => true
  | .startUpScanComplete _ => true
  | .readWordsReturn => true
  | .msideGrant => true
  | .requestTake => true
  | .unknownRequest => true
  | .attachRing => true
  | .detachRing => true
  | .serviceInfo => true
  | .keyInfo => true
  | .slateInfo => true
  | .setPin => true
  | .setGuestCeiling => true
  | .unlock => true
  | .lockNow => true
  | .lockInfo => true
  | .readEvent => true
  | .quote => true
  | .purchase => true
  | .cancel => true
  | .listPurchases => true
  | .billInfo => true
  | .status => true
  | .answerRecordWrite => true
  | .noticeWrite => true
  | .billNoticeWrite => true
  | .messageAtHead => true
  | .bind => true
  | .unbind => true
  | .checkIn => true
  | .checkOut => true
  | .setCap => true
  | .entitle => true
  | .policy => true
  | .billAck => true
  | .suspend => true
  | .resume => true
  | .hotelKey => true
  | .clearPin => true
  | .key => true
  | .serviceMap => true
  | .event => true
  | .time => true
  | .slate => true
  | .tick => true
  | .eventEnd => true
  | .grantExpiry => true
  | .lockoutExpiry => true
  | .resendDue => true
  | .rebuiltEntryLimit => true
  | .checkoutExpiry => true
  | .storeWriteComplete _ => true
  | .commitPairOffer => true
  | .storeWaitingLineAdvance => true

end Sys2Proof
end

