-- ==== Sys2Proof/Decode.lean ====
section
/-! DEFINITION. The opcode table gives no row any bits: the part takes commands, it decodes no instruction words. -/

namespace Sys2Proof

/-- The command a word spells by the table's bits: none, because no row of spec/opcode_table.json gives bits. -/
def decodeTableWord (_nbits _w : Nat) : Option Instr := none

end Sys2Proof
end

