-- ==== Sys2Proof/Config.lean ====
section
/-! DEFINITION. The numbers the spec fixes for the part, and the values it leaves open (no body: a claim about them holds
whatever they are). -/

namespace Sys2Proof.Config

/-- The factory's device serial in the IDENTITY place (R131); the spec gives no value (log 4). -/
opaque deviceSerial : BitVec 48

/-- First half of the factory's device key (R131, R151); the spec gives no value (log 4). -/
opaque deviceKey1 : Word

/-- Second half of the factory's device key (R131, R151); the spec gives no value (log 4). -/
opaque deviceKey2 : Word

/-- What READ_EVENT's 32-bit field for the seconds left holds when the seconds left do not fit it (R107, R181).
DESIGN CHOICE (log 19): a free value, applied to the seconds left. -/
opaque secondsLeftBeyond32 : Nat → BitVec 32

/-- Uptime and hotel time stay at this value once there (R93, R94). -/
def lastSecond : Nat := 4294967295

/-- Slots of all attached stream rings together (R14, R23). -/
def maxStreamSlots : Nat := 2048

/-- Arrived transactions the P-side holds (R2). -/
def pSideCapacity : Nat := 8

/-- Places of the own-traffic queue (R17). -/
def ownCapacity : Nat := 16

/-- P-side grants made while an own transaction waits, before the own transaction is granted (R18). -/
def maxOwnWait : Nat := 4

/-- Records of each ring of the anchor page (R7). -/
def ringRecords : Nat := 16

/-- Entries of the service table (R31). -/
def maxServices : Nat := 128

/-- Entries of the event table (R96). -/
def maxEvents : Nat := 48

/-- Shortest and longest duration of an event in seconds (R96, R100). -/
def minDuration : Nat := 60
/-- See `minDuration`. -/
def maxDuration : Nat := 28800

/-- Highest list price in cents (R96, R100). -/
def maxPrice : Nat := 50000

/-- Grants of the grant list (R77). -/
def maxGrants : Nat := 4

/-- Clamp of an UNLOCK span in seconds (R86). -/
def minSpan : Nat := 60
/-- See `minSpan`. -/
def maxSpan : Nat := 14400

/-- A lockout span never exceeds this many seconds (R81). -/
def maxLockout : Nat := 3840

/-- Entries of the purchase list (R108). -/
def maxPurchases : Nat := 8

/-- Titles of the titles list (R110). -/
def maxTitles : Nat := 16

/-- Seconds after the taken hotel time at which a rebuilt entry without an event leaves (R130). -/
def rebuiltLimit : Nat := 28800

/-- Records in the bill log together with nonzero commits to come (R116 check 10, R138). -/
def maxBills : Nat := 32

/-- COMMIT places of the retained store (R131). -/
def commitPlaces : Nat := 48

/-- Writes in the store queue (R132). -/
def storeCapacity : Nat := 8

/-- Messages in the intake queue (R148). -/
def intakeCapacity : Nat := 8

/-- The value at which the next-sequence counter is exhausted (R137). -/
def lastCounter : Nat := 4294967280

/-- The sequence reserve stands this far above the counter (R137). -/
def reserveMargin : Nat := 8

/-- Highest stay cap in cents (R154, R157, R162). -/
def maxCap : Nat := 10000000

end Sys2Proof.Config
end

