-- ==== Sys2Proof/Machine/State.lean ====
section
/-! DEFINITION. The state of the part, block by block, as plain data, and the state after reset. -/

namespace Sys2Proof.Machine

/-! ### Path unit (01) -/

/-- The memory behind the M-side: cells in strictly rising address order, none holding the byte an unlisted address reads as. -/
abbrev Memory := List Host.Cell

/-- An attached entry of the window list (R4). The control ring has no reader mask; its `readers` stands empty. -/
structure Window where
  base    : Nat
  slots   : Nat
  writer  : BitVec 4
  readers : BitVec 16
  deriving DecidableEq, Repr

/-- A verdict with what it needs to be carried out (R59, R60). -/
inductive Verdict where
  /-- The words are returned as stored. -/
  | pass
  /-- Payload words are descrambled with this key value, service number and cell count (R55, R56). -/
  | descramble (key : Word) (service : BitVec 12) (cellCount : BitVec 16)
  /-- Words are replaced: word 0 by the synthesised header, payload words by the 120 slate bytes (R68, R69). -/
  | slate (header : Word) (bytes : BitVec 960)
  deriving DecidableEq, Repr

/-- A judged portion of a read (R59): it covers `count` words of the transaction from its word `start` on, which are the words
from `first` on of their slot. -/
structure HeldPortion where
  start   : Nat
  first   : Nat
  count   : Nat
  verdict : Verdict
  deriving DecidableEq, Repr

/-- An arrived P-side transaction (R2), a read with the verdicts reached at its arrival. -/
inductive Carried where
  | write (w : WriteTxn)
  | read (r : ReadTxn) (held : List HeldPortion)
  deriving DecidableEq, Repr

/-- The index words the part writes: 3, 4 and 5 (R8). -/
inductive OwnIndex where
  | requestConsume
  | answerProduce
  | billProduce
  deriving DecidableEq, Repr

/-- The part's own transactions (01, 1.5): the read of request record n, an eight-word write at an offset of the anchor
page, and the write of an index word. -/
inductive OwnTxn where
  | fetch (record : Nat)
  | record (offset : Nat) (words : List Word)
  | index (word : OwnIndex) (value : BitVec 16)
  deriving DecidableEq, Repr

/-- The transaction the M-side was granted and is performing (R18, R20). -/
inductive Granted where
  | pSide (c : Carried)
  | own (o : OwnTxn)
  deriving DecidableEq, Repr

/-- The words last returned to an initiator (R1, R66); the model's view of the read data output (log 24). -/
structure ReadReturn where
  initiator : BitVec 4
  addr      : BitVec 32
  words     : List Word
  deriving DecidableEq, Repr

/-- The path unit. -/
structure PathUnit where
  straps     : BitVec 4
  streams    : Vector (Option Window) 4
  control    : Option Window
  pSide      : List Carried
  own        : List OwnTxn
  toIssue    : List OwnTxn
  ownWait    : Nat
  underWay   : Option Granted
  readReturn : Option ReadReturn
  deriving DecidableEq, Repr

/-! ### Slot table and service table (02) -/

/-- What a cell's payload carries (R21, R179). -/
inductive CellKind where
  | picture
  | sound
  | data
  | guide
  | control
  | stuffing
  | slate
  | other
  deriving DecidableEq, Repr

/-- The phase mark of a header (R21); `invalid` is code 3. -/
inductive PhaseMark where
  | clear
  | phase0
  | phase1
  | invalid
  deriving DecidableEq, Repr

/-- A key reference: a pool entry and its stamp when the reference was taken (R23). -/
structure KeyRef where
  entry : Fin 192
  stamp : BitVec 16
  deriving DecidableEq, Repr

/-- A valid slot tag (R23). -/
structure SlotTag where
  service   : BitVec 12
  kind      : CellKind
  phase     : PhaseMark
  cellCount : BitVec 16
  eventTag  : BitVec 8
  damaged   : Bool
  keyRef    : Option KeyRef
  deriving DecidableEq, Repr

/-- How a service is sold (R31). -/
inductive ServiceClass where
  | free
  | tier
  | pay
  deriving DecidableEq, Repr

/-- A service entry (R31). -/
structure ServiceEntry where
  service         : BitVec 12
  cls             : ServiceClass
  tier            : Nat
  keySet          : Fin 64
  rating          : Nat
  expected        : Option (BitVec 16)
  discontinuities : Nat
  deriving DecidableEq, Repr

/-- The slot table, for each stream ring the tags of its slots (`none`: invalid; no list entries: not attached), and the
service table. -/
structure SlotTable where
  tags     : Vector (List (Option SlotTag)) 4
  services : List ServiceEntry
  deriving DecidableEq, Repr

/-! ### Key pool (03) -/

/-- A phase of a key set. -/
inductive Phase where
  | p0
  | p1
  deriving DecidableEq, Repr

/-- What a key set holds for one phase (R40). -/
structure KeySlot where
  current : Option (Fin 192)
  staged  : Option Word
  deriving DecidableEq, Repr

/-- A key set (R40). -/
structure KeySet where
  phase0 : KeySlot
  phase1 : KeySlot
  deriving DecidableEq, Repr

/-- State of a pool entry (R46). -/
inductive PoolState where
  | free
  | current
  | retired
  deriving DecidableEq, Repr

/-- A pool entry (R46). -/
structure PoolEntry where
  key   : Word
  state : PoolState
  stamp : BitVec 16
  refs  : Nat
  deriving DecidableEq, Repr

/-- The key pool (R40, R46, R47, R51). -/
structure KeyPool where
  sets        : Vector KeySet 64
  pool        : Vector PoolEntry 192
  retireOrder : List (Fin 192)
  reclaims    : Nat
  deriving DecidableEq, Repr

/-! ### Verdict unit: the slate table (04) -/

/-- A loaded slate: its load number and its 120 bytes, byte n at bits 8 n (R70). -/
structure LoadedSlate where
  load  : BitVec 8
  bytes : BitVec 960
  deriving DecidableEq, Repr

/-- A staging that is not empty: its load number and its halves of 60 bytes (R70). -/
structure Staging where
  load  : BitVec 8
  half0 : Option (BitVec 480)
  half1 : Option (BitVec 480)
  deriving DecidableEq, Repr

/-- One of slates 1 to 7 (R70). -/
structure Slate where
  inUse   : Option LoadedSlate
  staging : Option Staging
  deriving DecidableEq, Repr

/-- The slate table; index i is slate i + 1. Slate 0 is built in (R70). -/
structure SlateTable where
  slates : Vector Slate 7
  deriving DecidableEq, Repr

/-! ### Lock unit (05) -/

/-- A PIN: its digits in order (R79). -/
abbrev Pin := List (BitVec 4)

/-- What a grant lifts the limit for (R77). -/
inductive Scope where
  | all
  | service (s : BitVec 12)
  deriving DecidableEq, Repr

/-- A grant (R77). -/
structure Grant where
  scope  : Scope
  expiry : Nat
  deriving DecidableEq, Repr

/-- The lock unit (R75). -/
structure LockUnit where
  guestCeiling : Nat
  pin          : Option Pin
  failures     : Nat
  lockout      : Option Nat
  grants       : List Grant
  deriving DecidableEq, Repr

/-! ### Event table and meter (06) -/

/-- An event entry (R96). -/
structure EventEntry where
  id          : BitVec 32
  title       : BitVec 32
  service     : BitVec 12
  tag         : BitVec 8
  start       : Nat
  duration    : Nat
  price       : Nat
  rating      : Nat
  purchasable : Bool
  freeLook    : Bool
  used        : Nat
  seen        : Bool
  deriving DecidableEq, Repr

/-- The event table with uptime, the one-second timer and hotel time, `none` while unknown (R93, R94, R96). -/
structure EventUnit where
  uptime       : Nat
  timerRunning : Bool
  hotelTime    : Option Nat
  entries      : List EventEntry
  deriving DecidableEq, Repr

/-! ### Purchase unit (07) and commit records (08) -/

/-- State of a purchase entry (R108). -/
inductive PurchaseState where
  | held
  | committing
  | committed
  deriving DecidableEq, Repr

/-- Origin of a purchase entry (R108). -/
inductive Origin where
  | taken
  | rebuilt
  deriving DecidableEq, Repr

/-- A purchase entry (R108). -/
structure PurchaseEntry where
  handle   : Nat
  event    : BitVec 32
  title    : BitVec 32
  state    : PurchaseState
  charge   : Nat
  watched  : Nat
  seq      : Option Nat
  taken    : Nat
  origin   : Origin
  endNoted : Bool
  deriving DecidableEq, Repr

/-- A commit record (R135). -/
structure CommitRecord where
  seq    : Nat
  stay   : Nat
  event  : BitVec 32
  title  : BitVec 32
  charge : Nat
  hotel  : Nat
  acked  : Bool
  deriving DecidableEq, Repr

/-- The purchase unit: the list, the next-handle value, the titles list, and the commit pairs held for want of a COMMIT place
(R108, R109, R110, R135). -/
structure PurchaseUnit where
  entries    : List PurchaseEntry
  nextHandle : Nat
  titles     : List (BitVec 32)
  heldPairs  : List CommitRecord
  deriving DecidableEq, Repr

/-! ### Bill log and retained store (08) -/

/-- Offer state of a record of the log (R138). -/
inductive OfferState where
  | due
  | offered (uptime : Nat)
  deriving DecidableEq, Repr

/-- A record of the bill log (R138). -/
structure LogRecord where
  record        : CommitRecord
  offer         : OfferState
  offeredBefore : Bool
  deriving DecidableEq, Repr

/-- The bill log (R137, R138, R139). -/
structure BillLog where
  counter        : Option Nat
  log            : List LogRecord
  highestOffered : Option Nat
  deriving DecidableEq, Repr

/-- A 128-bit key as two halves (R151). -/
structure Key128 where
  k1 : Word
  k2 : Word
  deriving DecidableEq, Repr

/-- The IDENTITY record (R131). -/
structure Identity where
  serial : BitVec 48
  key    : Key128
  deriving DecidableEq, Repr

/-- The BINDING record (R131, R154). -/
structure Binding where
  room     : BitVec 16
  groups   : BitVec 16
  roomKey  : Key128
  hotelKey : Key128
  deriving DecidableEq, Repr

/-- Room state (R154). -/
inductive RoomState where
  | unbound
  | vacant
  | occupied
  | checkout
  deriving DecidableEq, Repr

/-- The ROOM record (R131). -/
structure RoomRecord where
  state        : RoomState
  suspended    : Bool
  stay         : Nat
  cap          : Nat
  spent        : Nat
  guestCeiling : Nat
  pin          : Option Pin
  failures     : Nat
  reserve      : Nat
  deriving DecidableEq, Repr

/-- The policy record (R165). -/
structure Policy where
  hotelCeiling    : Nat
  threshold       : Nat
  allowance       : Nat
  grace           : Nat
  floor           : Nat
  factor          : Nat
  step            : Nat
  maximum         : Nat
  resendInterval  : Nat
  checkoutTimeout : Nat
  vacantTiers     : BitVec 32
  readers         : BitVec 16
  lockoutBase     : Nat
  deriving DecidableEq, Repr

/-- The defaults of R165. -/
def Policy.defaults : Policy :=
  { hotelCeiling := 7, threshold := 300, allowance := 120, grace := 600, floor := 50, factor := 100, step := 5,
    maximum := 5000, resendInterval := 120, checkoutTimeout := 900, vacantTiers := 0x00000001#32, readers := 0x00F0#16,
    lockoutBase := 60 }

/-- The SERIALS record (R153). -/
structure Serials where
  device : Nat
  room   : Nat
  deriving DecidableEq, Repr

/-- A place of the retained store: empty, holding a record whose check passes, or failing its check (R131). -/
inductive Place (α : Type) where
  | empty
  | holds (r : α)
  | damaged
  deriving DecidableEq, Repr

/-- The 54 places (R131). -/
structure Places where
  identity : Place Identity
  binding  : Place Binding
  room     : Place RoomRecord
  policy   : Place Policy
  serials  : Place Serials
  titles   : Place (List (BitVec 32))
  commits  : Vector (Place CommitRecord) 48
  deriving DecidableEq, Repr

/-- A write to a place with the whole content it is to hold, `none` for empty (R131). The part does not write IDENTITY. -/
inductive StoreWrite where
  | binding (c : Option Binding)
  | room (c : Option RoomRecord)
  | policy (c : Option Policy)
  | serials (c : Option Serials)
  | titles (c : Option (List (BitVec 32)))
  | commit (i : Fin 48) (c : Option CommitRecord)
  deriving DecidableEq, Repr

/-- A write in the store queue or the waiting line, with who waits for it (R133): `answers` a SET_PIN or SET_GUEST_CEILING
waits for its completion; `admits` an UNLOCK, `heads` the head message, waits for it to leave the waiting line. -/
structure QueuedWrite where
  write   : StoreWrite
  answers : Bool
  admits  : Bool
  heads   : Bool
  deriving DecidableEq, Repr

/-- An item of the waiting line: one write, or the two writes of a commit's start, which move together (R133). -/
inductive LineItem where
  | one (w : QueuedWrite)
  | pair (room commit : QueuedWrite)
  deriving DecidableEq, Repr

/-- Store state (R131). -/
inductive StoreState where
  | good
  | faulted
  deriving DecidableEq, Repr

/-- The retained store; the oldest write of a queue that is not empty is the started one (R132). -/
structure Store where
  places : Places
  state  : StoreState
  queue  : List QueuedWrite
  line   : List LineItem
  deriving DecidableEq, Repr

/-! ### Message unit and room record (09) -/

/-- A message: envelope words 0 to 14 (R149). -/
structure Message where
  words : List Word
  deriving DecidableEq, Repr

/-- The checkout expiry with its expired flag (R154). -/
structure CheckoutTimer where
  expiry  : Nat
  expired : Bool
  deriving DecidableEq, Repr

/-- The room record (R154). -/
structure Room where
  binding   : Option Binding
  state     : RoomState
  suspended : Bool
  stay      : Nat
  cap       : Nat
  spent     : Nat
  tiers     : BitVec 32
  checkout  : Option CheckoutTimer
  deriving DecidableEq, Repr

/-- The message unit: control intake (R147, R148), the device identity taken at start-up, the room record, the policy record
and the last serials. `headApplied` is set while the head message has been applied and waits for its writes. -/
structure MessageUnit where
  watching    : Bool
  intake      : List Message
  headApplied : Bool
  dropped     : Nat
  identity    : Option Identity
  room        : Room
  policy      : Policy
  serials     : Serials
  deriving DecidableEq, Repr

/-! ### Request unit (10) -/

/-- Outcomes an answer may carry, in the order of their codes (10.3, R181). -/
inductive AnswerCode where
  | ok
  | unknownRequest
  | badArgument
  | wrongState
  | suspended
  | ringBusy
  | ringNotAttached
  | overlap
  | noSlots
  | noTime
  | noEvent
  | eventOver
  | notForSale
  | locked
  | alreadyBought
  | listFull
  | billingUnavailable
  | overCap
  | notFound
  | tooLate
  | noPin
  | wrongPin
  | pinLockout
  deriving DecidableEq, Repr

/-- The content of an answer record (R171). -/
structure Answer where
  kind    : BitVec 16
  tag     : BitVec 16
  outcome : AnswerCode
  results : List Word
  deriving DecidableEq, Repr

/-- Service state (R168): IDLE; the own read of the record issued; served and waiting for its store write, to complete
(`completes`) or to join the store queue (R82, R133, R171); answer ready to be issued, with the handle of the entry whose
commit begins once the answer has been issued (R117). -/
inductive Service where
  | idle
  | fetching
  | waiting (ans : Answer) (completes : Bool)
  | answering (ans : Answer) (commitAfter : Option Nat)
  deriving DecidableEq, Repr

/-- Bring-up code (R168, R178). -/
inductive BringUp where
  | good
  | storeRecovered
  | storeFault
  | identityFault
  deriving DecidableEq, Repr

/-- State a purchase notice reports (R127). -/
inductive NoticeState where
  | committing
  | committed
  | gone
  deriving DecidableEq, Repr

/-- Reason of a purchase notice (R127). -/
inductive Reason where
  | commitBegun
  | committed
  | cancelled
  | eventEnded
  | storeFault
  | checkout
  deriving DecidableEq, Repr

/-- A flag of the pending-notice set with the content fixed when it was raised (R173). -/
inductive Notice where
  | start (code : BringUp) (serial : BitVec 48) (room : RoomState) (store : StoreState)
  | room
  | purchase (handle : Nat) (event : BitVec 32) (state : NoticeState) (reason : Reason) (charge : Nat) (seq : Option Nat)
  deriving DecidableEq, Repr

/-- Start-up state (R168, R176): STARTING while the scan runs and while its ROOM write is awaited, then RUNNING. -/
inductive StartUp where
  | scanning
  | awaitingRoom
  | running
  deriving DecidableEq, Repr

/-- What the scan recovered, a failed place handed over as empty; held until the end of start-up (R144, R177). -/
structure Scanned where
  identity : Option Identity
  binding  : Option Binding
  room     : Option RoomRecord
  policy   : Option Policy
  serials  : Option Serials
  titles   : Option (List (BitVec 32))
  commits  : List CommitRecord
  deriving DecidableEq, Repr

/-- The request unit (R8, R19, R168). `startGranted`: the index write behind the START notice has been granted, before which the attention
line is not asserted (R19, R177). -/
structure RequestUnit where
  startUp        : StartUp
  scanned        : Option Scanned
  bringUp        : Option BringUp
  requestProduce : BitVec 16
  answerConsume  : BitVec 16
  billConsume    : BitVec 16
  requestConsume : BitVec 16
  answerProduce  : BitVec 16
  billProduce    : BitVec 16
  writtenAnswer  : BitVec 16
  writtenBill    : BitVec 16
  startGranted   : Bool
  service        : Service
  notices        : List Notice
  deriving DecidableEq, Repr

/-! ### The part -/

/-- What is owed at once after a step and has a row of its own: the parts of the tick just taken (R78, R80, R99, R130, R141,
R159) and the offer of a held commit pair whose place has just been freed (R135). `eventEnd id next` ends the entry `id`, whose
mark the meter has folded, and the meter goes on with the entries `next` (R93, R99). See log 10 and log 27. -/
inductive Owed where
  | eventEnd (id : BitVec 32) (next : List (BitVec 32))
  | grantExpiry
  | lockoutExpiry
  | resendDue
  | rebuiltEntryLimit
  | checkoutExpiry
  | commitPairOffer
  deriving DecidableEq, Repr

/-- The state of the part: the queue of waiting commands, what is owed, the memory behind the M-side, and the blocks. -/
structure State where
  pending   : List Instr
  owed      : List Owed
  mem       : Memory
  path      : PathUnit
  slots     : SlotTable
  keys      : KeyPool
  slates    : SlateTable
  lock      : LockUnit
  events    : EventUnit
  purchases : PurchaseUnit
  bills     : BillLog
  store     : Store
  msgs      : MessageUnit
  req       : RequestUnit
  deriving DecidableEq, Repr

/-- Why the part stops with a fault. -/
inductive Fault where
  /-- Raised by the seven arrival commands when what arrives is not a transaction: no words or more than 16, a start off a word
  boundary, or an end past the address space (00_scope.md). Safe: no initiator can issue it (log 13). -/
  | notATransaction
  deriving DecidableEq, Repr

/-- Why a command is refused. -/
inductive Refusal where
  /-- Raised by `exec` for a command that has no meaning yet. Safe. No arm raises it now. -/
  | notModelled (mnemonic : String)
  deriving DecidableEq, Repr

/-! ### After reset -/

/-- The path unit after reset (R4, R17, R18, R20), with the zero index writes of R176 issued. -/
def PathUnit.reset : PathUnit :=
  { straps := 0#4, streams := Vector.replicate 4 none, control := none, pSide := [],
    own := [.index .requestConsume 0#16, .index .answerProduce 0#16, .index .billProduce 0#16], toIssue := [],
    ownWait := 0, underWay := none, readReturn := none }

/-- The key pool after reset (R53). -/
def KeyPool.reset : KeyPool :=
  { sets := Vector.replicate 64 ⟨⟨none, none⟩, ⟨none, none⟩⟩
    pool := Vector.replicate 192 { key := 0#64, state := .free, stamp := 0#16, refs := 0 }
    retireOrder := [], reclaims := 0 }

/-- The lock unit's values while no ROOM record has been taken (R75, R91; log 5). -/
def LockUnit.cleared : LockUnit := { guestCeiling := 7, pin := none, failures := 0, lockout := none, grants := [] }

/-- The room record while none has been taken (R154, R167; log 5). -/
def Room.reset : Room :=
  { binding := none, state := .unbound, suspended := false, stay := 0, cap := 0, spent := 0, tiers := 0#32, checkout := none }

/-- The places as they leave the factory: IDENTITY written, all others empty (R131; log 4). -/
def Places.factory : Places :=
  { identity := .holds { serial := Config.deviceSerial, key := ⟨Config.deviceKey1, Config.deviceKey2⟩ }
    binding := .empty, room := .empty, policy := .empty, serials := .empty, titles := .empty,
    commits := Vector.replicate 48 .empty }

/-- The request unit after reset (R13, R19, R168). -/
def RequestUnit.reset : RequestUnit :=
  { startUp := .scanning, scanned := none, bringUp := none, requestProduce := 0#16, answerConsume := 0#16,
    billConsume := 0#16, requestConsume := 0#16, answerProduce := 0#16, billProduce := 0#16, writtenAnswer := 0#16,
    writtenBill := 0#16, startGranted := false, service := .idle, notices := [] }

/-- The part right after reset: STARTING, the zero index writes issued, the scan begun (R176). -/
def State.reset : State :=
  { pending := [], owed := [], mem := [], path := PathUnit.reset
    slots := { tags := Vector.replicate 4 [], services := [] }
    keys := KeyPool.reset
    slates := { slates := Vector.replicate 7 ⟨none, none⟩ }
    lock := LockUnit.cleared
    events := { uptime := 0, timerRunning := false, hotelTime := none, entries := [] }
    purchases := { entries := [], nextHandle := 1, titles := [], heldPairs := [] }
    bills := { counter := none, log := [], highestOffered := none }
    store := { places := Places.factory, state := .good, queue := [], line := [] }
    msgs := { watching := false, intake := [], headApplied := false, dropped := 0, identity := none, room := Room.reset
              policy := Policy.defaults, serials := ⟨0, 0⟩ }
    req := RequestUnit.reset }

end Sys2Proof.Machine
end

