-- ==== Sys2Proof/Machine/Mixing.lean ====
section
/-! DEFINITION. The mixing function and what is computed with it: key decryption, message and bill tags, the keystream. -/

namespace Sys2Proof.Machine

/-- The mixing function F (R54). -/
def mix (x : Word) : Word :=
  let x1 := x + 0x71D3A5C9E2B4F60D#64
  let x2 := x1 ^^^ (x1 >>> 31)
  let x3 := x2 * 0x9B5E3C7A1F2D4E65#64
  let x4 := x3 ^^^ (x3 >>> 27)
  let x5 := x4 * 0xC4A1E97B3D58F2A3#64
  x5 ^^^ (x5 >>> 33)

/-- A key part decrypted under the half `k1`, with its index value and word 1 of its message's envelope (R42). -/
def decryptPart (k1 : Word) (index : Nat) (w1 enc : Word) : Word :=
  enc ^^^ mix (k1 ^^^ BitVec.ofNat 64 index ^^^ w1)

/-- The tag over a list of words under a key (R140, R151). -/
def tagOver (k : Key128) (words : List Word) : Word :=
  words.foldl (fun t w => mix (t ^^^ w ^^^ k.k2)) k.k1

/-- The seed of payload word k (R55): S from bit 32 upward, N in bits 8 to 23, k in bits 0 to 3. -/
def keystreamSeed (key : Word) (service : BitVec 12) (cellCount : BitVec 16) (k : Nat) : Word :=
  key ^^^ BitVec.ofNat 64 (service.toNat * 4294967296 + cellCount.toNat * 256 + k)

/-- Payload word k descrambled (R55). -/
def descrambleWord (key : Word) (service : BitVec 12) (cellCount : BitVec 16) (k : Nat) (stored : Word) : Word :=
  stored ^^^ mix (keystreamSeed key service cellCount k)

end Sys2Proof.Machine
end

