-- ==== Sys2Proof/Machine/Operands.lean ====
section
/-! DEFINITION. The formats at the memory boundary (11): the fields the part reads from cell headers, control messages and
request records, and the words of the records it writes. -/

namespace Sys2Proof.Machine

/-! ### Fields of a word -/

/-- The unsigned number in bytes lo to lo + n - 1 of a word, least significant byte first (11). -/
def bytesAt (w : Word) (lo n : Nat) : Nat := w.toNat / 2 ^ (8 * lo) % 2 ^ (8 * n)

/-- A word holding the number v in bytes lo to lo + n - 1 and zero elsewhere (R181). -/
def put (lo n v : Nat) : Word := BitVec.ofNat 64 (v % 2 ^ (8 * n) * 2 ^ (8 * lo))

/-- A result word that holds one value from byte 0 (R181). -/
def single (v : Nat) : Word := BitVec.ofNat 64 v

/-- A flag is 1 when set and 0 when clear (R181). -/
def flag (b : Bool) : Nat := if b then 1 else 0

/-- A wide value as the number of its words, the first word lowest. -/
def joinWords : List Word → Nat
  | [] => 0
  | w :: ws => w.toNat + 18446744073709551616 * joinWords ws

/-! ### Cell headers (R21, R22, R179) -/

/-- Byte i of a word. -/
def byteOf (w : Word) (i : Nat) : Byte := w.extractLsb' (8 * i) 8

/-- The sum of bytes 0 to 6, mod 256 (R22). -/
def headerSum (w : Word) : Byte :=
  byteOf w 0 + byteOf w 1 + byteOf w 2 + byteOf w 3 + byteOf w 4 + byteOf w 5 + byteOf w 6

/-- Service number, bits 0 to 11. -/
def headerService (w : Word) : BitVec 12 := w.extractLsb' 0 12

/-- Kind, code in bits 12 to 15. -/
def headerKind (w : Word) : CellKind :=
  match (w.extractLsb' 12 4).toNat with
  | 1 => .picture
  | 2 => .sound
  | 3 => .data
  | 4 => .guide
  | 5 => .control
  | 6 => .stuffing
  | 7 => .slate
  | _ => .other

/-- Phase mark, bits 16 to 17. -/
def headerPhase (w : Word) : PhaseMark :=
  match (w.extractLsb' 16 2).toNat with
  | 0 => .clear
  | 1 => .phase0
  | 2 => .phase1
  | _ => .invalid

/-- Spare bits, bits 18 to 23. -/
def headerSpare (w : Word) : BitVec 6 := w.extractLsb' 18 6

/-- Cell count, bits 24 to 39. -/
def headerCount (w : Word) : BitVec 16 := w.extractLsb' 24 16

/-- Event tag, bits 40 to 47. -/
def headerTag (w : Word) : BitVec 8 := w.extractLsb' 40 8

/-- Check byte, bits 56 to 63. -/
def headerCheck (w : Word) : Byte := byteOf w 7

/-- A header is damaged when its check byte is wrong, its phase mark has code 3, or a spare bit is one (R22). -/
def headerDamaged (w : Word) : Bool :=
  headerCheck w != headerSum w || headerPhase w == .invalid || headerSpare w != 0#6

/-- The content kinds (R21). -/
def CellKind.isContent : CellKind → Bool
  | .picture => true
  | .sound => true
  | .data => true
  | .guide => true
  | .slate => true
  | .control => false
  | .stuffing => false
  | .other => false

/-- The synthesised header's bytes 0 to 6: kind code 7, phase mark CLEAR, spare bits zero, payload length 120 (R68, R179). -/
def synthesisedFields (service : BitVec 12) (cellCount : BitVec 16) (eventTag : BitVec 8) : Word :=
  BitVec.ofNat 64 (service.toNat + 7 * 2 ^ 12 + cellCount.toNat * 2 ^ 24 + eventTag.toNat * 2 ^ 40 + 120 * 2 ^ 48)

/-- The synthesised header with its check byte (R68). -/
def synthesisedHeader (service : BitVec 12) (cellCount : BitVec 16) (eventTag : BitVec 8) : Word :=
  let w := synthesisedFields service cellCount eventTag
  w ||| put 7 1 (headerSum w).toNat

/-! ### Control messages (R149, R180) -/

/-- Message kinds (R152). -/
inductive MsgKind where
  | bind
  | checkIn
  | checkOut
  | setCap
  | entitle
  | policy
  | billAck
  | suspend
  | resume
  | hotelKey
  | unbind
  | clearPin
  | key
  | serviceMap
  | event
  | time
  | slate
  deriving DecidableEq, Repr

/-- The message kind codes (R180). -/
def msgKindOf : Nat → Option MsgKind
  | 0x01 => some .bind
  | 0x10 => some .checkIn
  | 0x11 => some .checkOut
  | 0x12 => some .setCap
  | 0x13 => some .entitle
  | 0x14 => some .policy
  | 0x15 => some .billAck
  | 0x16 => some .suspend
  | 0x17 => some .resume
  | 0x18 => some .hotelKey
  | 0x19 => some .unbind
  | 0x1A => some .clearPin
  | 0x20 => some .key
  | 0x21 => some .serviceMap
  | 0x22 => some .event
  | 0x23 => some .time
  | 0x24 => some .slate
  | _ => none

/-- The scope a kind belongs to (R152). -/
inductive MsgScope where
  | device
  | room
  | broadcast
  deriving DecidableEq, Repr

/-- Scopes of the kinds (R152). -/
def MsgKind.scope : MsgKind → MsgScope
  | .bind => .device
  | .checkIn => .room
  | .checkOut => .room
  | .setCap => .room
  | .entitle => .room
  | .policy => .room
  | .billAck => .room
  | .suspend => .room
  | .resume => .room
  | .hotelKey => .room
  | .unbind => .room
  | .clearPin => .room
  | .key => .broadcast
  | .serviceMap => .broadcast
  | .event => .broadcast
  | .time => .broadcast
  | .slate => .broadcast

/-- Address kinds (R149, R180). -/
inductive AddressKind where
  | device
  | room
  | group
  | all
  deriving DecidableEq, Repr

/-- The address kind codes (R180). -/
def addressKindOf : Nat → Option AddressKind
  | 1 => some .device
  | 2 => some .room
  | 3 => some .group
  | 4 => some .all
  | _ => none

/-- The address kinds allowed to carry a scope's kinds (R152). -/
def AddressKind.carries : AddressKind → MsgScope → Bool
  | .device, .device => true
  | .room, .room => true
  | .group, .broadcast => true
  | .all, .broadcast => true
  | _, _ => false

/-- Envelope word i. -/
def Message.word (m : Message) (i : Nat) : Word := m.words.getD i 0#64

/-- Address kind of a message. -/
def Message.addressKind (m : Message) : Option AddressKind := addressKindOf (bytesAt (m.word 0) 0 1)

/-- Device serial of a DEVICE address. -/
def Message.deviceSerial (m : Message) : BitVec 48 := (m.word 0).extractLsb' 16 48

/-- Room address of a ROOM address, or group mask of a GROUP address. -/
def Message.address16 (m : Message) : BitVec 16 := (m.word 0).extractLsb' 16 16

/-- Message kind. -/
def Message.kind (m : Message) : Option MsgKind := msgKindOf (bytesAt (m.word 1) 0 1)

/-- Body length in words. -/
def Message.bodyLength (m : Message) : Nat := bytesAt (m.word 1) 1 1

/-- Serial. -/
def Message.serial (m : Message) : Nat := bytesAt (m.word 1) 4 4

/-- Tag. -/
def Message.tag (m : Message) : Word := m.word 14

/-- Body word i; words at and beyond the body length are read as zero (R149). -/
def Message.body (m : Message) (i : Nat) : Word := if i < m.bodyLength then m.word (2 + i) else 0#64

/-- The words the tag covers (R151). -/
def Message.taggedWords (m : Message) : List Word := (List.range 14).map m.word

/-- The 60 slate bytes of a SLATE message (R180). -/
def Message.slateBytes (m : Message) : BitVec 480 :=
  BitVec.ofNat 480 (joinWords ((List.range 8).map fun i => m.body (1 + i)))

/-! ### Request records (R170, R180) -/

/-- A fetched request record. -/
structure Request where
  kind : BitVec 16
  tag  : BitVec 16
  args : List Word
  deriving DecidableEq, Repr

/-- The record held by eight words. -/
def Request.ofWords (ws : List Word) : Request :=
  { kind := (ws.getD 0 0#64).extractLsb' 0 16, tag := (ws.getD 0 0#64).extractLsb' 16 16, args := ws.drop 1 }

/-- Argument word i, from 1, as a word. -/
def Request.word (r : Request) (i : Nat) : Word := r.args.getD (i - 1) 0#64

/-- Argument word i, from 1, as a whole unsigned number. -/
def Request.arg (r : Request) (i : Nat) : Nat := (r.word i).toNat

/-- A PIN argument, `none` when malformed: digit count in byte 0, digits in 4-bit places from bit 8 up (R79, R180). -/
def parsePin (w : Word) : Option Pin :=
  let n := bytesAt w 0 1
  let digits := (List.range n).map fun i => w.extractLsb' (8 + 4 * i) 4
  if 4 ≤ n ∧ n ≤ 8 ∧ digits.all (fun d => decide (d.toNat ≤ 9)) then some digits else none

/-- The flag of SET_PIN's old-PIN argument saying that an old PIN is given: bit 0 of byte 7 (R180). -/
def oldPinGiven (w : Word) : Bool := w.getLsbD 56

/-! ### Codes of named values (R181) -/

/-- Outcome codes. -/
def AnswerCode.code : AnswerCode → Nat
  | .ok => 0
  | .unknownRequest => 1
  | .badArgument => 2
  | .wrongState => 3
  | .suspended => 4
  | .ringBusy => 5
  | .ringNotAttached => 6
  | .overlap => 7
  | .noSlots => 8
  | .noTime => 9
  | .noEvent => 10
  | .eventOver => 11
  | .notForSale => 12
  | .locked => 13
  | .alreadyBought => 14
  | .listFull => 15
  | .billingUnavailable => 16
  | .overCap => 17
  | .notFound => 18
  | .tooLate => 19
  | .noPin => 20
  | .wrongPin => 21
  | .pinLockout => 22

/-- Room state codes. -/
def RoomState.code : RoomState → Nat
  | .unbound => 0
  | .vacant => 1
  | .occupied => 2
  | .checkout => 3

/-- Store state codes. -/
def StoreState.code : StoreState → Nat
  | .good => 0
  | .faulted => 1

/-- Bring-up codes. -/
def BringUp.code : BringUp → Nat
  | .good => 0
  | .storeRecovered => 1
  | .storeFault => 2
  | .identityFault => 3

/-- Service class codes. -/
def ServiceClass.code : ServiceClass → Nat
  | .free => 0
  | .tier => 1
  | .pay => 2

/-- Purchase state codes of list entries. -/
def PurchaseState.code : PurchaseState → Nat
  | .held => 1
  | .committing => 2
  | .committed => 3

/-- Purchase state codes of notices. -/
def NoticeState.code : NoticeState → Nat
  | .committing => 2
  | .committed => 3
  | .gone => 4

/-- Origin codes. -/
def Origin.code : Origin → Nat
  | .taken => 0
  | .rebuilt => 1

/-- Reason codes. -/
def Reason.code : Reason → Nat
  | .commitBegun => 1
  | .committed => 2
  | .cancelled => 3
  | .eventEnded => 4
  | .storeFault => 5
  | .checkout => 6

/-- A grant's scope as a number: the service, or 65535 for ALL (R89). -/
def Scope.code : Scope → Nat
  | .all => 65535
  | .service s => s.toNat

/-! ### Records the part writes (R181) -/

/-- Exactly six result words, zero after the last result (R171). -/
def sixResults (rs : List Word) : List Word := (List.range 6).map fun i => rs.getD i 0#64

/-- An answer record's eight words. -/
def Answer.words (a : Answer) : List Word :=
  (put 0 2 a.kind.toNat ||| put 2 2 a.tag.toNat ||| put 4 2 a.outcome.code) :: (sixResults a.results ++ [0#64])

/-- The NOTICE kind code. -/
def noticeKind : BitVec 16 := 0x00FF#16

/-- A notice's eight words; the ROOM notice's content is taken from the room now (R173, R174). -/
def Notice.words (room : Room) (n : Notice) : List Word :=
  match n with
  | .start code serial state store =>
    Answer.words ⟨noticeKind, 0#16, .ok,
      [put 0 1 1, put 0 1 code.code ||| put 1 1 state.code ||| put 2 1 store.code, put 0 6 serial.toNat]⟩
  | .room =>
    Answer.words ⟨noticeKind, 0#16, .ok,
      [put 0 1 2, put 0 1 room.state.code ||| put 1 1 (flag room.suspended), put 0 4 room.stay]⟩
  | .purchase handle event state reason charge seq =>
    Answer.words ⟨noticeKind, 0#16, .ok,
      [put 0 1 3, put 0 1 handle ||| put 1 1 state.code ||| put 2 1 reason.code ||| put 3 1 (flag seq.isSome) ||| put 4 2 charge,
       put 0 4 event.toNat ||| put 4 4 (seq.getD 0)]⟩

/-- The first seven words of a bill notice: kind 2 for RESEND, 1 for FIRST (R140, R181). -/
def billNoticeFields (resend : Bool) (room : BitVec 16) (r : CommitRecord) : List Word :=
  [put 0 1 (if resend then 2 else 1) ||| put 2 2 room.toNat, put 0 4 r.seq, put 0 4 r.stay, put 0 4 r.event.toNat,
   put 0 4 r.title.toNat, put 0 2 r.charge, put 0 4 r.hotel]

/-- A bill notice's eight words, the tag under the room key last (R140). -/
def billNoticeWords (resend : Bool) (b : Binding) (r : CommitRecord) : List Word :=
  let fields := billNoticeFields resend b.room r
  fields ++ [tagOver b.roomKey fields]

end Sys2Proof.Machine
end

