-- ==== Sys2Proof/Machine/Memory.lean ====
section
/-! DEFINITION. The memory behind the M-side: reading and writing bytes and words, and carrying out a granted transaction on
it (R1, R18). The memory is a list of cells in canonical form: addresses strictly rising, no cell holding the byte an unlisted
address reads as. -/

namespace Sys2Proof.Machine

/-- What an unlisted address reads as. DESIGN CHOICE, unsafe (log 1). -/
def Memory.unlisted : Byte := 0#8

/-- The byte at an address. -/
def Memory.get : Memory → Nat → Byte
  | [], _ => Memory.unlisted
  | (k, b) :: m, a => if k = a then b else Memory.get m a

/-- The memory with a byte stored; storing what an unlisted address reads as removes the cell. -/
def Memory.set : Memory → Nat → Byte → Memory
  | [], a, b => if b = Memory.unlisted then [] else [(a, b)]
  | (k, c) :: m, a, b =>
    if a < k then (if b = Memory.unlisted then (k, c) :: m else (a, b) :: (k, c) :: m)
    else if a = k then (if b = Memory.unlisted then m else (a, b) :: m)
    else (k, c) :: Memory.set m a b

/-- The canonical form, from a lower bound on the addresses. -/
def Memory.wfFrom : Nat → Memory → Bool
  | _, [] => true
  | lo, (k, b) :: m => decide (lo ≤ k) && (b != Memory.unlisted) && Memory.wfFrom (k + 1) m

/-- The canonical form: addresses strictly rising, no cell equal to what an unlisted address reads as. -/
def Memory.wf (m : Memory) : Bool := Memory.wfFrom 0 m

/-- The word at an address, little-endian. -/
def Memory.word (m : Memory) (a : Nat) : Word :=
  Memory.get m (a + 7) ++ Memory.get m (a + 6) ++ Memory.get m (a + 5) ++ Memory.get m (a + 4) ++ Memory.get m (a + 3) ++
    Memory.get m (a + 2) ++ Memory.get m (a + 1) ++ Memory.get m a

/-- The `n` words from an address on. -/
def Memory.words (m : Memory) (a n : Nat) : List Word := (List.range n).map fun j => m.word (a + 8 * j)

/-- Stores those of bytes 0 to 7 of a word that `enables` selects. -/
def Memory.setWord (m : Memory) (a : Nat) (w : WriteWord) : Memory :=
  (List.range 8).foldl (fun m i => if w.enables.getLsbD i then Memory.set m (a + i) (byteOf w.data i) else m) m

/-- Stores the words of a write from an address on, each with its enables (R1). -/
def Memory.setWords (m : Memory) (a : Nat) : List WriteWord → Memory
  | [] => m
  | w :: ws => Memory.setWords (m.setWord a w) (a + 8) ws

/-- A word with all byte enables on. -/
def fullWord (w : Word) : WriteWord := { data := w, enables := 0xFF#8 }

/-- Words with only the bytes that `performed` marks left enabled, bit 8 i + j for byte j of word i (R20). -/
def partWords (performed : BitVec 128) : Nat → List WriteWord → List WriteWord
  | _, [] => []
  | i, w :: ws => { w with enables := w.enables &&& performed.extractLsb' (8 * i) 8 } :: partWords performed (i + 1) ws

/-- The anchor base (R7). -/
def PathUnit.anchorBase (p : PathUnit) : Nat := p.straps.toNat * 0x1000000

/-- Offset of an index word the part writes (R8). -/
def OwnIndex.offset : OwnIndex → Nat
  | .requestConsume => 0xC18
  | .answerProduce => 0xC20
  | .billProduce => 0xC28

/-- The address and the words that a granted transaction writes; `none` for a read. An index write carries the value in bytes
0 and 1 and zero in bytes 2 to 7 (R12). -/
def Granted.writes (base : Nat) : Granted → Option (Nat × List WriteWord)
  | .pSide (.write w) => some (w.addr.toNat, w.words)
  | .pSide (.read _ _) => none
  | .own (.fetch _) => none
  | .own (.record offset ws) => some (base + offset, ws.map fullWord)
  | .own (.index i v) => some (base + i.offset, [fullWord (put 0 2 v.toNat)])

/-- The memory after the M-side has performed a granted write in full; a read changes nothing. -/
def Memory.perform (m : Memory) (base : Nat) (g : Granted) : Memory :=
  match g.writes base with
  | some (a, ws) => m.setWords a ws
  | none => m

/-- The memory after a reset found a granted write performed in part (R20). -/
def Memory.performPart (m : Memory) (base : Nat) (performed : BitVec 128) (g : Granted) : Memory :=
  match g.writes base with
  | some (a, ws) => m.setWords a (partWords performed 0 ws)
  | none => m

end Sys2Proof.Machine
end

