-- ==== Sys2Proof/Machine/Flags.lean ====
section
/-! DEFINITION. The pending-notice set, the attention line, the index counts, and the issue of own transactions. -/

namespace Sys2Proof.Machine

/-! ### Pending notices (R173) -/

/-- Two notices are of one flag: the START flag, the ROOM flag, or the flag of one handle. -/
def Notice.sameFlag : Notice → Notice → Bool
  | .start _ _ _ _, .start _ _ _ _ => true
  | .room, .room => true
  | .purchase h _ _ _ _ _, .purchase h' _ _ _ _ _ => h == h'
  | _, _ => false

/-- A notice is of the START flag, which joins the front of the set and goes ahead of the bill notices (R19, R173, R177). -/
def Notice.isStart : Notice → Bool
  | .start _ _ _ _ => true
  | .room => false
  | .purchase _ _ _ _ _ _ => false

/-- A flag raised: present, it keeps its place and takes the new content; absent, it joins the end, START the front (R173). -/
def raiseIn (n : Notice) (set : List Notice) : List Notice :=
  if set.any n.sameFlag then set.map fun m => if n.sameFlag m then n else m
  else if n.isStart then n :: set
  else set ++ [n]

/-- Raises a flag of the pending-notice set. -/
def State.raise (n : Notice) (s : State) : State :=
  { s with req := { s.req with notices := raiseIn n s.req.notices } }

/-- A purchase notice for a handle is pending (R109). -/
def noticeHandle : Notice → Option Nat
  | .purchase h _ _ _ _ _ => some h
  | .start _ _ _ _ => none
  | .room => none

/-! ### Index counts (R8) -/

/-- The number of requests waiting. -/
def RequestUnit.waitingRequests (q : RequestUnit) : Nat := (q.requestProduce - q.requestConsume).toNat

/-- The number of answer records not yet consumed. -/
def RequestUnit.unconsumedAnswers (q : RequestUnit) : Nat := (q.answerProduce - q.answerConsume).toNat

/-- The number of bill notices not yet consumed. -/
def RequestUnit.unconsumedBills (q : RequestUnit) : Nat := (q.billProduce - q.billConsume).toNat

/-- The answer ring has a free record. -/
def RequestUnit.answerFree (q : RequestUnit) : Bool := decide (q.unconsumedAnswers < Config.ringRecords)

/-- The bill ring has a free record. -/
def RequestUnit.billFree (q : RequestUnit) : Bool := decide (q.unconsumedBills < Config.ringRecords)

/-- A request is being served (R10). -/
def RequestUnit.serving (q : RequestUnit) : Bool :=
  match q.service with
  | .idle => false
  | .fetching => true
  | .waiting _ _ => true
  | .answering _ _ => true

/-- The attention line: a written produce value differs from the last taken consume value of its ring, once the index write behind the
START notice has been granted; it stays deasserted until then, whatever consume values are taken (R19, R177). -/
def State.attention (s : State) : Bool :=
  s.req.startGranted && (s.req.writtenAnswer != s.req.answerConsume || s.req.writtenBill != s.req.billConsume)

/-! ### Own traffic (R17) -/

/-- The own transactions waiting to be issued join the queue, in order, as far as it has places. -/
def PathUnit.fill (p : PathUnit) : PathUnit :=
  { p with own := p.own ++ p.toIssue.take (Config.ownCapacity - p.own.length)
           toIssue := p.toIssue.drop (Config.ownCapacity - p.own.length) }

/-- The request unit can issue the first own transaction of a further step: the queue has a free place and no earlier step
still waits for one. -/
def PathUnit.canIssue (p : PathUnit) : Bool := p.toIssue.isEmpty && decide (p.own.length < Config.ownCapacity)

/-- Own transactions issued in order; those the queue has no place for wait (R17, R171). -/
def PathUnit.issue (p : PathUnit) (txns : List OwnTxn) : PathUnit := { p with toIssue := p.toIssue ++ txns }.fill

end Sys2Proof.Machine
end

