-- ==== Sys2Proof/Machine/Ops.lean ====
section
/-! DEFINITION. Shared operations on one block each: the windows and portions of the path unit, the key pool, the service
table, the lock unit's questions, the store's offers, and the answering of a request. -/

namespace Sys2Proof.Machine

/-! ### Windows and portions (R3, R4, R7) -/

/-- One byte beyond the end of a window (R4). -/
def Window.last (w : Window) : Nat := w.base + 128 * w.slots

/-- An address lies in a window. -/
def Window.covers (w : Window) (a : Nat) : Bool := decide (w.base ≤ a) && decide (a < w.last)

/-- Where a word of a transaction lies (R3). -/
inductive Region where
  | streamSlot (ring : Fin 4) (slot : Nat)
  | controlSlot (slot : Nat)
  | indexBlock
  | anchorRest
  | outside
  deriving DecidableEq, Repr

/-- The stream ring whose window covers an address. -/
def PathUnit.streamAt (p : PathUnit) (a : Nat) : Option (Fin 4 × Window) :=
  (List.finRange 4).findSome? fun r =>
    match p.streams[r] with
    | some w => if w.covers a then some (r, w) else none
    | none => none

/-- Where an address lies, and the word of the slot or index block it is in (R3, R4, R7). -/
def PathUnit.locate (p : PathUnit) (a : Nat) : Region × Nat :=
  if p.anchorBase ≤ a ∧ a < p.anchorBase + 4096 then
    if p.anchorBase + 0xC00 ≤ a ∧ a < p.anchorBase + 0xC40 then (.indexBlock, (a - (p.anchorBase + 0xC00)) / 8)
    else (.anchorRest, 0)
  else
    match p.streamAt a with
    | some (r, w) => (.streamSlot r ((a - w.base) / 128), (a - w.base) % 128 / 8)
    | none =>
      match p.control with
      | some w => if w.covers a then (.controlSlot ((a - w.base) / 128), (a - w.base) % 128 / 8) else (.outside, 0)
      | none => (.outside, 0)

/-- A portion of a transaction: where it lies, its first word there, its first word in the transaction, its words (R3). -/
structure Portion where
  region : Region
  first  : Nat
  start  : Nat
  count  : Nat
  deriving DecidableEq, Repr

/-- Neighbouring words of one region make one portion; `j` is the place of the list's first word in the transaction. -/
def groupPortions : Nat → List (Region × Nat) → List Portion
  | _, [] => []
  | j, (g, k) :: rest =>
    match groupPortions (j + 1) rest with
    | [] => [⟨g, k, j, 1⟩]
    | q :: qs => if q.region = g then { q with first := k, start := j, count := q.count + 1 } :: qs else ⟨g, k, j, 1⟩ :: q :: qs

/-- The portions of a burst, in ascending address order (R3). -/
def PathUnit.portions (p : PathUnit) (addr : BitVec 32) (len : Nat) : List Portion :=
  groupPortions 0 ((List.range len).map fun j => p.locate (addr.toNat + 8 * j))

/-- The total slot count of the attached stream rings (R14). -/
def PathUnit.streamSlots (p : PathUnit) : Nat :=
  ((List.finRange 4).map fun r => match p.streams[r] with | some w => w.slots | none => 0).sum

/-- Two address ranges share an address. -/
def rangesMeet (a aEnd b bEnd : Nat) : Bool := decide (a < bEnd) && decide (b < aEnd)

/-- A new window would share an address with the anchor page or an attached window (R14, check 3). -/
def PathUnit.overlaps (p : PathUnit) (w : Window) : Bool :=
  rangesMeet w.base w.last p.anchorBase (p.anchorBase + 4096)
    || (List.finRange 4).any (fun r => match p.streams[r] with | some v => rangesMeet w.base w.last v.base v.last | none => false)
    || (match p.control with | some v => rangesMeet w.base w.last v.base v.last | none => false)

/-! ### Service table (R32) -/

/-- The entry of a service number. -/
def SlotTable.service (t : SlotTable) (n : BitVec 12) : Option ServiceEntry := t.services.find? (·.service == n)

/-- The entry of a service number changed; no other. -/
def SlotTable.mapService (t : SlotTable) (n : BitVec 12) (f : ServiceEntry → ServiceEntry) : SlotTable :=
  { t with services := t.services.map fun e => if e.service == n then f e else e }

/-- The tag of a slot; `none` for an invalid tag and for a slot that has no tag. -/
def SlotTable.tag (t : SlotTable) (ring : Fin 4) (slot : Nat) : Option SlotTag := (t.tags[ring].getD slot none)

/-- The tag of a slot replaced. -/
def SlotTable.setTag (t : SlotTable) (ring : Fin 4) (slot : Nat) (tag : Option SlotTag) : SlotTable :=
  { t with tags := t.tags.set ring (t.tags[ring].set slot tag) }

/-- The count of valid tags of a stream ring (R23). -/
def SlotTable.validTags (t : SlotTable) (ring : Fin 4) : Nat := t.tags[ring].countP Option.isSome

/-- The number of valid tags over all stream rings (R39, R175). -/
def SlotTable.allValidTags (t : SlotTable) : Nat := ((List.finRange 4).map t.validTags).sum

/-- Continuity of a sound cell with count c (R30). -/
def ServiceEntry.continuity (e : ServiceEntry) (c : BitVec 16) : ServiceEntry :=
  { e with
    expected := some (c + 1)
    discontinuities :=
      match e.expected with
      | none => e.discontinuities
      | some x => if x = c then e.discontinuities else if e.discontinuities < 255 then e.discontinuities + 1 else e.discontinuities }

/-! ### Key pool (R40 to R53) -/

/-- The phase of a phase mark. -/
def PhaseMark.phase? : PhaseMark → Option Phase
  | .clear => none
  | .phase0 => some .p0
  | .phase1 => some .p1
  | .invalid => none

/-- The other phase. -/
def Phase.other : Phase → Phase
  | .p0 => .p1
  | .p1 => .p0

/-- What a key set holds for a phase. -/
def KeySet.slot (k : KeySet) : Phase → KeySlot
  | .p0 => k.phase0
  | .p1 => k.phase1

/-- A key set with one phase's slot replaced. -/
def KeySet.setSlot (k : KeySet) (p : Phase) (v : KeySlot) : KeySet :=
  match p with
  | .p0 => { k with phase0 := v }
  | .p1 => { k with phase1 := v }

/-- The slot of a key set and phase. -/
def KeyPool.slot (k : KeyPool) (s : Fin 64) (p : Phase) : KeySlot := k.sets[s].slot p

/-- The slot of a key set and phase replaced. -/
def KeyPool.setSlot (k : KeyPool) (s : Fin 64) (p : Phase) (v : KeySlot) : KeyPool :=
  { k with sets := k.sets.set s (k.sets[s].setSlot p v) }

/-- A pool entry replaced. -/
def KeyPool.setEntry (k : KeyPool) (i : Fin 192) (e : PoolEntry) : KeyPool := { k with pool := k.pool.set i e }

/-- A reference is dropped: with a matching stamp the count falls by one, and a RETIRED entry whose count reaches 0 becomes
FREE and leaves the retire order (R49, R50). -/
def KeyPool.drop (k : KeyPool) (r : KeyRef) : KeyPool :=
  let e := k.pool[r.entry]
  if e.stamp = r.stamp then
    if e.state = .retired ∧ e.refs ≤ 1 then
      { k.setEntry r.entry { e with refs := 0, state := .free } with retireOrder := k.retireOrder.filter (· != r.entry) }
    else k.setEntry r.entry { e with refs := e.refs - 1 }
  else k

/-- An optional reference is dropped. -/
def KeyPool.dropOption (k : KeyPool) : Option KeyRef → KeyPool
  | none => k
  | some r => k.drop r

/-- The FREE entry with the lowest index (R48, step 1). -/
def KeyPool.lowestFree (k : KeyPool) : Option (Fin 192) := (List.finRange 192).find? fun i => k.pool[i].state == .free

/-- Entry `i`, found for a new key, made the current entry of (s, p) with key `w`; the entry it replaces leaves CURRENT
(R48, steps 2 to 4). -/
def KeyPool.place (k : KeyPool) (s : Fin 64) (p : Phase) (w : Word) (i : Fin 192) : KeyPool :=
  let k1 := k.setEntry i { k.pool[i] with key := w, state := .current, refs := 0 }
  let k2 :=
    match (k.slot s p).current with
    | none => k1
    | some c =>
      let e := k1.pool[c]
      if e.refs = 0 then k1.setEntry c { e with state := .free }
      else { k1.setEntry c { e with state := .retired } with retireOrder := k1.retireOrder ++ [c] }
  k2.setSlot s p { k2.slot s p with current := some i }

/-- The entry at the front of the retire order reclaimed: its stamp rises by one, its count becomes 0, it leaves the order,
and the reclaim count rises, staying at 65535 (R51). -/
def KeyPool.reclaim (k : KeyPool) (i : Fin 192) : KeyPool :=
  { k.setEntry i { k.pool[i] with stamp := k.pool[i].stamp + 1, refs := 0 } with
    retireOrder := k.retireOrder.filter (· != i)
    reclaims := if k.reclaims < 65535 then k.reclaims + 1 else k.reclaims }

/-- Installs key `w` as the current key of (s, p) (R48). The second part names the entry whose stamp a reclaim wrapped to 0
(R52). An entry is always found where at most 128 are CURRENT (R48); with none, nothing happens (log 29). -/
def KeyPool.install (k : KeyPool) (s : Fin 64) (p : Phase) (w : Word) : KeyPool × Option (Fin 192) :=
  match k.lowestFree with
  | some i => (k.place s p w i, none)
  | none =>
    match k.retireOrder with
    | [] => (k, none)
    | i :: _ => ((k.reclaim i).place s p w i, if k.pool[i].stamp = 0xFFFF#16 then some i else none)

/-- A tag whose reference names entry `i` loses it (R52). -/
def SlotTag.clearRef (i : Fin 192) (t : SlotTag) : SlotTag :=
  match t.keyRef with
  | some r => if r.entry = i then { t with keyRef := none } else t
  | none => t

/-- All references to an entry made absent (R52). -/
def SlotTable.clearRefs (t : SlotTable) : Option (Fin 192) → SlotTable
  | none => t
  | some i => { t with tags := t.tags.map fun l => l.map fun o => o.map (SlotTag.clearRef i) }

/-- Installs a key in the part: the key pool's installation, and the clearing of references after a stamp wrap (R48, R52). -/
def State.installKey (ks : Fin 64) (p : Phase) (w : Word) (s : State) : State :=
  let (k, wrapped) := s.keys.install ks p w
  { s with keys := k, slots := s.slots.clearRefs wrapped }

/-- The first step of a phase report for phase q: the key staged for the other phase, if any, is installed (R44). -/
def State.installStaged (ks : Fin 64) (q : Phase) (s : State) : State :=
  match (s.keys.slot ks q.other).staged with
  | none => s
  | some w =>
    let s1 := s.installKey ks q.other w
    { s1 with keys := s1.keys.setSlot ks q.other { s1.keys.slot ks q.other with staged := none } }

/-- The second step: the current entry of phase q is referenced, its count rising by one (R44). -/
def KeyPool.takeRef (k : KeyPool) (ks : Fin 64) (q : Phase) : KeyPool × Option KeyRef :=
  match (k.slot ks q).current with
  | none => (k, none)
  | some i => (k.setEntry i { k.pool[i] with refs := k.pool[i].refs + 1 }, some ⟨i, k.pool[i].stamp⟩)

/-- A key entry that is not dropped, with its decrypted key (R43). -/
def State.announceKey (ks : Fin 64) (p : Phase) (w : Word) (s : State) : State :=
  match (s.keys.slot ks p).current with
  | none => s.installKey ks p w
  | some i =>
    if s.keys.pool[i].key = w then s
    else { s with keys := s.keys.setSlot ks p { s.keys.slot ks p with staged := some w } }

/-! ### Lock unit (R76, R77, R80, R81) -/

/-- The effective ceiling (R76). -/
def State.effectiveCeiling (s : State) : Nat := min s.msgs.policy.hotelCeiling s.lock.guestCeiling

/-- A grant covers a service (R77). -/
def Grant.coversService (g : Grant) (n : BitVec 12) : Bool :=
  match g.scope with
  | .all => true
  | .service m => m == n

/-- The limit in force for a service (R76). -/
def State.limit (s : State) (n : BitVec 12) : Nat :=
  if s.lock.grants.any (·.coversService n) then s.msgs.policy.hotelCeiling else s.effectiveCeiling

/-- The lockout span for failure count f, 3 or more (R81). -/
def lockoutSpan (base f : Nat) : Nat := min Config.maxLockout (base * 2 ^ (f - 3))

/-- The failure count after a wrong PIN (R81). -/
def riseFailures (f : Nat) : Nat := if f < 255 then f + 1 else f

/-- The span of the lockout a failure begins, 0 when it begins none (R81). -/
def failureSpan (base f : Nat) : Nat := if 3 ≤ f then lockoutSpan base f else 0

/-- A wrong PIN: the count rises, and from 3 on a lockout begins (R81). -/
def State.pinFailure (s : State) : State :=
  let f := riseFailures s.lock.failures
  { s with lock := { s.lock with
      failures := f
      lockout := if 3 ≤ f then some (s.events.uptime + lockoutSpan s.msgs.policy.lockoutBase f) else s.lock.lockout } }

/-- The seconds a lockout still runs, 0 without one (R80, R89). -/
def State.lockoutRemaining (s : State) : Nat :=
  match s.lock.lockout with
  | none => 0
  | some e => e - s.events.uptime

/-- Index of the first grant with the earliest expiry, the list not being empty (R87). -/
def earliestGrant : List Grant → Nat
  | [] => 0
  | [_] => 0
  | g :: rest => if (rest.getD (earliestGrant rest) g).expiry < g.expiry then earliestGrant rest + 1 else 0

/-- A grant added (R87). -/
def addGrant (g : Grant) (l : List Grant) : List Grant :=
  if l.any (·.scope == g.scope) then l.filter (·.scope != g.scope) ++ [g]
  else if l.length < Config.maxGrants then l ++ [g]
  else l.eraseIdx (earliestGrant l) ++ [g]

/-! ### Events and purchases: looking up (R96, R108, R111) -/

/-- The entry of an event ID. -/
def EventUnit.byId (u : EventUnit) (id : BitVec 32) : Option EventEntry := u.entries.find? (·.id == id)

/-- The entry of a service number and event tag. -/
def EventUnit.byTag (u : EventUnit) (svc : BitVec 12) (tag : BitVec 8) : Option EventEntry :=
  u.entries.find? fun e => e.service == svc && e.tag == tag

/-- The entries changed by `f` where their ID is `id`. -/
def EventUnit.mapId (u : EventUnit) (id : BitVec 32) (f : EventEntry → EventEntry) : EventUnit :=
  { u with entries := u.entries.map fun e => if e.id == id then f e else e }

/-- The entry of an event ID removed. -/
def EventUnit.remove (u : EventUnit) (id : BitVec 32) : EventUnit := { u with entries := u.entries.filter (·.id != id) }

/-- An entry's end (R96). -/
def EventEntry.endTime (e : EventEntry) : Nat := e.start + e.duration

/-- A hotel time is known and at or above `t`. -/
def EventUnit.reached (u : EventUnit) (t : Nat) : Bool :=
  match u.hotelTime with
  | none => false
  | some h => decide (t ≤ h)

/-- An entry has ended (R96). -/
def EventUnit.hasEnded (u : EventUnit) (e : EventEntry) : Bool := u.reached e.endTime

/-- The purchase entry for an event; of two rebuilt for one event ID, the oldest (log 33). -/
def PurchaseUnit.byEvent (p : PurchaseUnit) (id : BitVec 32) : Option PurchaseEntry := p.entries.find? (·.event == id)

/-- The purchase entry of a handle. -/
def PurchaseUnit.byHandle (p : PurchaseUnit) (h : Nat) : Option PurchaseEntry := p.entries.find? (·.handle == h)

/-- The purchase entry of a handle changed. -/
def PurchaseUnit.mapHandle (p : PurchaseUnit) (h : Nat) (f : PurchaseEntry → PurchaseEntry) : PurchaseUnit :=
  { p with entries := p.entries.map fun e => if e.handle == h then f e else e }

/-- The purchase entry of a handle leaves the list; those behind it close up (R108). -/
def PurchaseUnit.remove (p : PurchaseUnit) (h : Nat) : PurchaseUnit :=
  { p with entries := p.entries.filter (·.handle != h) }

/-- A purchase entry of a handle changed in the part. -/
def State.mapPurchase (h : Nat) (f : PurchaseEntry → PurchaseEntry) (s : State) : State :=
  { s with purchases := s.purchases.mapHandle h f }

/-- A purchase entry of a handle leaves the list of the part. -/
def State.removePurchase (h : Nat) (s : State) : State := { s with purchases := s.purchases.remove h }

/-- What an entry adds to the held total (R111). -/
def PurchaseEntry.heldCharge (e : PurchaseEntry) : Nat :=
  match e.state with
  | .held => e.charge
  | .committing => e.charge
  | .committed => 0

/-- The held total (R111). -/
def PurchaseUnit.held (p : PurchaseUnit) : Nat := (p.entries.map PurchaseEntry.heldCharge).sum

/-- An entry is COMMITTING. -/
def PurchaseUnit.anyCommitting (p : PurchaseUnit) : Bool := p.entries.any (·.state == .committing)

/-- The headroom below the stay cap (R115). -/
def State.headroom (s : State) : Nat := s.msgs.room.cap - (s.msgs.room.spent + s.purchases.held)

/-- An event entry is protected (R96). -/
def State.isProtected (s : State) (e : EventEntry) : Bool := (s.purchases.byEvent e.id).isSome || decide (0 < e.used)

/-- The notice for a change of an entry (R127). -/
def PurchaseEntry.notice (e : PurchaseEntry) (st : NoticeState) (r : Reason) : Notice :=
  .purchase e.handle e.event st r e.charge e.seq

/-! ### The retained store: offers (R131 to R133, R135) -/

/-- Two writes name one place. -/
def StoreWrite.samePlace : StoreWrite → StoreWrite → Bool
  | .binding _, .binding _ => true
  | .room _, .room _ => true
  | .policy _, .policy _ => true
  | .serials _, .serials _ => true
  | .titles _, .titles _ => true
  | .commit i _, .commit j _ => i == j
  | _, _ => false

/-- On whose behalf a write is offered: the part itself, the head message's application, a served UNLOCK, or a served SET_PIN
or SET_GUEST_CEILING. It says who waits (R82, R133, R148). -/
inductive Caller where
  | part
  | head
  | unlock
  | setting
  deriving DecidableEq, Repr

/-- A queued write takes the content of an offered write for its place (R132). -/
def QueuedWrite.coalesce (c : Caller) (w : StoreWrite) (q : QueuedWrite) : QueuedWrite :=
  if q.write.samePlace w then { q with write := w, answers := q.answers || c == .setting } else q

/-- A write of the waiting line takes the content of an offered write for its place; its offerer waits on it too (R132, R133). -/
def QueuedWrite.coalesceWaiting (c : Caller) (w : StoreWrite) (q : QueuedWrite) : QueuedWrite :=
  if q.write.samePlace w then
    { q with write := w, answers := q.answers || c == .setting, admits := q.admits || c == .unlock, heads := q.heads || c == .head }
  else q

/-- A line item's writes, each changed. -/
def LineItem.map (f : QueuedWrite → QueuedWrite) : LineItem → LineItem
  | .one q => .one (f q)
  | .pair r c => .pair (f r) (f c)

/-- Some write of a line item satisfies a test. -/
def LineItem.any (f : QueuedWrite → Bool) : LineItem → Bool
  | .one q => f q
  | .pair r c => f r || f c

/-- The number of writes of a line item. -/
def LineItem.size : LineItem → Nat
  | .one _ => 1
  | .pair _ _ => 2

/-- A write of the queue that has not been started names the place of `w`. The oldest write is started (R132). -/
def Store.queuedUnstarted (st : Store) (w : StoreWrite) : Bool := (st.queue.drop 1).any fun q => q.write.samePlace w

/-- A write of the waiting line names the place of `w`. -/
def Store.inLine (st : Store) (w : StoreWrite) : Bool := st.line.any (·.any fun q => q.write.samePlace w)

/-- A write as it joins the queue. -/
def QueuedWrite.fresh (c : Caller) (w : StoreWrite) : QueuedWrite :=
  { write := w, answers := c == .setting, admits := false, heads := false }

/-- A write as it joins the waiting line. -/
def QueuedWrite.freshWaiting (c : Caller) (w : StoreWrite) : QueuedWrite :=
  { write := w, answers := c == .setting, admits := c == .unlock, heads := c == .head }

/-- The content of an offered write replaces that of the write for its place that has not been started (R132). -/
def Store.coalesce (st : Store) (c : Caller) (w : StoreWrite) : Store :=
  if st.queuedUnstarted w then { st with queue := st.queue.take 1 ++ (st.queue.drop 1).map (QueuedWrite.coalesce c w) }
  else { st with line := st.line.map (·.map (QueuedWrite.coalesceWaiting c w)) }

/-- A write is offered (R132, R133). A FAULTED store refuses it (R134). -/
def Store.offer (st : Store) (c : Caller) (w : StoreWrite) : Store :=
  match st.state with
  | .faulted => st
  | .good =>
    if st.queuedUnstarted w || st.inLine w then st.coalesce c w
    else if st.line.isEmpty && decide (st.queue.length < Config.storeCapacity) then
      { st with queue := st.queue ++ [QueuedWrite.fresh c w] }
    else { st with line := st.line ++ [.one (QueuedWrite.freshWaiting c w)] }

/-- The two writes of a commit's start are offered together (R119, R133). A ROOM write that coalesces leaves the COMMIT write to
be offered alone. -/
def Store.offerPair (st : Store) (c : Caller) (room commit : StoreWrite) : Store :=
  match st.state with
  | .faulted => st
  | .good =>
    if st.queuedUnstarted room || st.inLine room then (st.coalesce c room).offer c commit
    else if st.line.isEmpty && decide (st.queue.length + 2 ≤ Config.storeCapacity) then
      { st with queue := st.queue ++ [QueuedWrite.fresh c room, QueuedWrite.fresh c commit] }
    else { st with line := st.line ++ [.pair (QueuedWrite.freshWaiting c room) (QueuedWrite.freshWaiting c commit)] }

/-- A write of the queue or the waiting line names COMMIT place i. -/
def Store.names (st : Store) (i : Fin 48) : Bool :=
  st.queue.any (fun q => q.write.samePlace (.commit i none)) || st.inLine (.commit i none)

/-- The free COMMIT place with the lowest number (R135). -/
def Store.freePlace (st : Store) : Option (Fin 48) :=
  (List.finRange 48).find? fun i => decide (st.places.commits[i] = .empty) && !st.names i

/-- The COMMIT place that holds the record of a sequence number (log 31). -/
def Store.placeOf (st : Store) (seq : Nat) : Option (Fin 48) :=
  (List.finRange 48).find? fun i => match st.places.commits[i] with
    | .holds r => r.seq == seq
    | .empty => false
    | .damaged => false

/-- The number of COMMIT places holding records (R146). A place that a failed write has left with a content that fails its check is not
counted, which is log 39's choice. -/
def Store.commitPlacesInUse (st : Store) : Nat :=
  st.places.commits.toList.countP fun p => match p with
    | .holds _ => true
    | .empty => false
    | .damaged => false

/-- The number of COMMIT places holding records as the part takes them: every place is treated as empty when the scan found the store
unreadable, although the store keeps its contents for the next start (R144, R146). -/
def State.commitPlaces (s : State) : Nat :=
  match s.req.bringUp with
  | some .storeFault => 0
  | _ => s.store.commitPlacesInUse

/-- The number of writes in the waiting line (R146). -/
def Store.lineLength (st : Store) : Nat := (st.line.map LineItem.size).sum

/-- The place a write names after the write has completed and verified (R131, R134). -/
def Places.write (p : Places) : StoreWrite → Places
  | .binding c => { p with binding := match c with | some r => .holds r | none => .empty }
  | .room c => { p with room := match c with | some r => .holds r | none => .empty }
  | .policy c => { p with policy := match c with | some r => .holds r | none => .empty }
  | .serials c => { p with serials := match c with | some r => .holds r | none => .empty }
  | .titles c => { p with titles := match c with | some r => .holds r | none => .empty }
  | .commit i c => { p with commits := p.commits.set i (match c with | some r => .holds r | none => .empty) }

/-- The place a write names left with a content that fails its check (R134). -/
def Places.damage (p : Places) : StoreWrite → Places
  | .binding _ => { p with binding := .damaged }
  | .room _ => { p with room := .damaged }
  | .policy _ => { p with policy := .damaged }
  | .serials _ => { p with serials := .damaged }
  | .titles _ => { p with titles := .damaged }
  | .commit i _ => { p with commits := p.commits.set i .damaged }

/-- The ROOM record as it now stands, with the sequence reserve (R131, R137). -/
def State.roomRecord (s : State) : RoomRecord :=
  { state := s.msgs.room.state, suspended := s.msgs.room.suspended, stay := s.msgs.room.stay, cap := s.msgs.room.cap
    spent := s.msgs.room.spent, guestCeiling := s.lock.guestCeiling, pin := s.lock.pin, failures := s.lock.failures
    reserve := s.bills.counter.getD 0 + Config.reserveMargin }

/-- A write is offered by the part. -/
def State.offer (c : Caller) (w : StoreWrite) (s : State) : State := { s with store := s.store.offer c w }

/-- A write of the ROOM place carrying the ROOM record as it then stands is offered. -/
def State.offerRoom (c : Caller) (s : State) : State := s.offer c (.room (some s.roomRecord))

/-! ### Answering (R170, R171) -/

/-- The served request has its answer ready. -/
def State.answer (r : Request) (code : AnswerCode) (results : List Word) (s : State) : State :=
  { s with req := { s.req with service := .answering ⟨r.kind, r.tag, code, results⟩ none } }

/-- An answer at the end of the write it waited for: an OK answer carries the word kept (R82). -/
def Answer.withKept (a : Answer) (kept : Bool) : Answer :=
  match a.outcome with
  | .ok => { a with results := a.results ++ [single (flag kept)] }
  | _ => a

/-- The answer of SET_PIN or SET_GUEST_CEILING that has offered its ROOM write: it waits for the write's completion; when the
store is FAULTED it is answered at once with kept 0 (R82). -/
def State.answerAtWrite (r : Request) (code : AnswerCode) (results : List Word) (s : State) : State :=
  let a : Answer := ⟨r.kind, r.tag, code, results⟩
  match s.store.state with
  | .good => { s with req := { s.req with service := .waiting a true } }
  | .faulted => { s with req := { s.req with service := .answering (a.withKept false) none } }

/-- The answer of UNLOCK that has offered its ROOM write: at once, or once the write has joined the store queue (R82, R133). -/
def State.answerOnceQueued (r : Request) (code : AnswerCode) (results : List Word) (s : State) : State :=
  let a : Answer := ⟨r.kind, r.tag, code, results⟩
  if s.store.line.any (·.any (·.admits)) then { s with req := { s.req with service := .waiting a false } }
  else { s with req := { s.req with service := .answering a none } }

/-- A request waiting for its write to end is answered (R82, R134). -/
def RequestUnit.writeEnded (q : RequestUnit) (kept : Bool) : RequestUnit :=
  match q.service with
  | .waiting a true => { q with service := .answering (a.withKept kept) none }
  | .waiting _ false => q
  | .idle => q
  | .fetching => q
  | .answering _ _ => q

/-- A request waiting for its write to join the store queue is answered (R82, R133, R134). -/
def RequestUnit.writeJoined (q : RequestUnit) : RequestUnit :=
  match q.service with
  | .waiting a false => { q with service := .answering a none }
  | .waiting _ true => q
  | .idle => q
  | .fetching => q
  | .answering _ _ => q

/-- The head message leaves the intake queue (R148). -/
def MessageUnit.dropHead (m : MessageUnit) : MessageUnit := { m with intake := m.intake.drop 1, headApplied := false }

end Sys2Proof.Machine
end

