-- ==== Sys2Proof/Machine/Rooms.lean ====
section
/-! DEFINITION. Purchase entries leaving the list, the entry to VACANT and the checkout drain (07, 08, 09). -/

namespace Sys2Proof.Machine

/-- The record of a sequence number is acknowledged: a place holds it and it has left the log (R138). -/
def State.isAcked (s : State) (seq : Nat) : Bool := s.bills.log.all fun l => l.record.seq != seq

/-- The bill log is told that a COMMITTED entry carrying `seq` leaves the list: the place of an acknowledged record is freed by
a freeing write; an unacknowledged record stays in the log and nothing is written (R136). -/
def State.freeIfAcked (c : Caller) (seq : Option Nat) (s : State) : State :=
  match seq with
  | none => s
  | some n =>
    if s.isAcked n then
      match s.store.placeOf n with
      | some i => s.offer c (.commit i none)
      | none => s
    else s

/-- A HELD entry leaves the list with its notice (R124, R125, R126). -/
def State.releaseHeld (reason : Reason) (e : PurchaseEntry) (s : State) : State :=
  (s.removePurchase e.handle).raise (e.notice .gone reason)

/-- A COMMITTED entry leaves the list with its notice, and the bill log is told (R125, R126, R136). -/
def State.retireCommitted (c : Caller) (reason : Reason) (e : PurchaseEntry) (s : State) : State :=
  ((s.removePurchase e.handle).raise (e.notice .gone reason)).freeIfAcked c e.seq

/-- The lock unit cleared on entry to VACANT (R91). -/
def State.clearLock (s : State) : State := { s with lock := LockUnit.cleared }

/-- The free-look seconds used of every event entry set to 0 (R98). -/
def EventUnit.clearUsed (u : EventUnit) : EventUnit := { u with entries := u.entries.map fun e => { e with used := 0 } }

/-- The room record on entry to VACANT (R160). -/
def Room.vacated (r : Room) : Room :=
  { r with state := .vacant, cap := 0, spent := 0, tiers := 0#32, checkout := none }

/-- The titles list is emptied and a TITLES write carrying it is offered (R110, R126). -/
def State.emptyTitles (c : Caller) (s : State) : State :=
  { s with purchases := { s.purchases with titles := [] } }.offer c (.titles (some []))

/-- The remaining purchase entries leave the list in list order with reason CHECKOUT (R126). -/
def State.retireAll (c : Caller) (s : State) : State :=
  s.purchases.entries.foldl (fun s e => s.retireCommitted c .checkout e) s

/-- The room enters VACANT from CHECKOUT (R160): the purchase unit's and the bill log's writes first, then the ROOM write, and
the ROOM flag. -/
def State.enterVacant (c : Caller) (s : State) : State :=
  let s1 := (s.retireAll c).emptyTitles c
  let s2 := { s1.clearLock with
    events := s1.events.clearUsed
    msgs := { s1.msgs with room := s1.msgs.room.vacated } }
  (s2.offerRoom c).raise .room

/-- The drain: no purchase entry is COMMITTING and the bill log holds no record of the current stay (R159). -/
def State.drained (s : State) : Bool :=
  !s.purchases.anyCommitting && s.bills.log.all fun l => l.record.stay != s.msgs.room.stay

/-- The checkout expiry's expired flag is set. -/
def Room.expired (r : Room) : Bool :=
  match r.checkout with
  | some t => t.expired
  | none => false

/-- In CHECKOUT the drain is tested and the room enters VACANT when it holds (R159). -/
def State.testDrain (c : Caller) (s : State) : State :=
  if s.msgs.room.state = .checkout ∧ s.drained = true then s.enterVacant c else s

/-- A commit has ended: in CHECKOUT the drain is tested, or, once the checkout expiry has been reached, COMMITTING entries
alone (R159). -/
def State.commitEnded (c : Caller) (s : State) : State :=
  if s.msgs.room.state = .checkout ∧ s.msgs.room.expired = true ∧ s.purchases.anyCommitting = false then s.enterVacant c
  else s.testDrain c

end Sys2Proof.Machine
end

