-- ==== Sys2Proof/Machine/Commits.lean ====
section
/-! DEFINITION. The commit of a purchase: its beginning, completion and failure, charges cleared by a title, store faults, and
the end of an event for the purchase unit (07, 08). -/

namespace Sys2Proof.Machine

/-- A title joins the titles list; the oldest of 16 leaves (R110). -/
def joinTitle (t : BitVec 32) (l : List (BitVec 32)) : List (BitVec 32) :=
  if l.contains t then l
  else if l.length < Config.maxTitles then l ++ [t]
  else l.drop 1 ++ [t]

/-- An entry is HELD and carries a title. -/
def PurchaseEntry.heldTitle (t : BitVec 32) (e : PurchaseEntry) : Bool := e.state == .held && e.title == t

/-- The charge of a HELD entry is cleared and its commit made at no charge; its title is in the list already (R120, R123). -/
def State.clearCharge (e : PurchaseEntry) (s : State) : State :=
  let e' := { e with charge := 0, state := .committed }
  (s.mapPurchase e.handle fun _ => e').raise (e'.notice .committed .committed)

/-- A title that is not in the list joins it, and the charges of the HELD entries that carry it are cleared in list order
(R110, R123); a title in the list already changes nothing (log 20). -/
def State.addTitle (t : BitVec 32) (s : State) : State :=
  if s.purchases.titles.contains t then s
  else
    let s1 := { s with purchases := { s.purchases with titles := joinTitle t s.purchases.titles } }
    (s1.purchases.entries.filter (·.heldTitle t)).foldl (fun s e => s.clearCharge e) s1

/-- A TITLES write carrying the list as it stands is offered when a title's joining changed the list (R110, R120, R121). -/
def State.offerTitlesIf (c : Caller) (changed : Bool) (s : State) : State :=
  if changed then s.offer c (.titles (some s.purchases.titles)) else s

/-- The commit of an entry with charge 0 (R120). -/
def State.commitFree (c : Caller) (e : PurchaseEntry) (s : State) : State :=
  let e' := { e with state := .committed }
  let s1 := s.mapPurchase e.handle fun _ => e'
  let s2 := (s1.addTitle e.title).offerTitlesIf c (!s.purchases.titles.contains e.title)
  s2.raise (e'.notice .committed .committed)

/-- The commit of an entry fails: it leaves the list with reason STORE_FAULT (R122). -/
def State.failCommit (e : PurchaseEntry) (s : State) : State :=
  (s.removePurchase e.handle).raise (e.notice .gone .storeFault)

/-- The COMMITTING entries fail in list order (R122). -/
def State.failCommitting (s : State) : State :=
  (s.purchases.entries.filter (·.state == .committing)).foldl (fun s e => s.failCommit e) s

/-- A store fault, but for the failure of the COMMITTING entries: the queue, the waiting line and the held pairs are discarded; a
request and a head message that wait for a discarded write go on (R134). -/
def State.faultStore (s : State) : State :=
  { s with
    store := { s.store with state := .faulted, queue := [], line := [] }
    purchases := { s.purchases with heldPairs := [] }
    req := (s.req.writeEnded false).writeJoined
    msgs := if s.msgs.headApplied then s.msgs.dropHead else s.msgs }

/-- The store becomes FAULTED, and every COMMITTING entry fails (R122, R134, R137). -/
def State.storeFault (s : State) : State := s.faultStore.failCommitting

/-- The commit record of an entry, as its commit begins (R119, R135). -/
def State.commitRecord (s : State) (e : PurchaseEntry) (seq : Nat) : CommitRecord :=
  { seq := seq, stay := s.msgs.room.stay, event := e.event, title := e.title, charge := e.charge
    hotel := s.events.hotelTime.getD 0, acked := false }

/-- The two writes of a commit's start: offered with the free COMMIT place of lowest number, or held for want of one, behind the pairs
that are held already, so that pairs are offered in sequence order (R119, R135). -/
def State.offerCommit (c : Caller) (r : CommitRecord) (s : State) : State :=
  match (if s.purchases.heldPairs.isEmpty then s.store.freePlace else none) with
  | some i => { s with store := s.store.offerPair c (.room (some s.roomRecord)) (.commit i (some r)) }
  | none => { s with purchases := { s.purchases with heldPairs := s.purchases.heldPairs ++ [r] } }

/-- The commit of an entry with a nonzero charge begins in a GOOD store that has number `n` to give (R119). -/
def State.commitNumbered (c : Caller) (e : PurchaseEntry) (n : Nat) (s : State) : State :=
  let e' := { e with state := .committing, seq := some n }
  let s1 := { s.mapPurchase e.handle fun _ => e' with bills := { s.bills with counter := some (n + 1) } }
  (s1.offerCommit c (s1.commitRecord e' n)).raise (e'.notice .committing .commitBegun)

/-- The commit of an entry with a nonzero charge begins (R119): it fails when the store is FAULTED (R122), and when the counter
is exhausted, which makes the store FAULTED (R137). -/
def State.commitCharged (c : Caller) (e : PurchaseEntry) (s : State) : State :=
  match s.store.state, s.bills.counter with
  | .faulted, _ => (s.failCommit e).commitEnded c
  | .good, none => (s.storeFault.failCommit e).commitEnded c
  | .good, some n =>
    if n < Config.lastCounter then s.commitNumbered c e n else (s.storeFault.failCommit e).commitEnded c

/-- The commit of the HELD entry of a handle begins (R118). An entry that is no longer HELD begins none. -/
def State.beginCommit (c : Caller) (h : Nat) (s : State) : State :=
  match s.purchases.byHandle h with
  | none => s
  | some e =>
    match e.state with
    | .held => if e.charge = 0 then s.commitFree c e else s.commitCharged c e
    | .committing => s
    | .committed => s

/-- The COMMITTING entry that carries a sequence number. -/
def PurchaseUnit.committing (p : PurchaseUnit) (seq : Nat) : Option PurchaseEntry :=
  p.entries.find? fun e => e.state == .committing && e.seq == some seq

/-- The commit record joins the bill log as a record to offer (R121, R138). -/
def State.logRecord (r : CommitRecord) (s : State) : State :=
  { s with bills := { s.bills with log := s.bills.log ++ [{ record := r, offer := .due, offeredBefore := false }] } }

/-- The spent total rises by a charge (R121). -/
def State.spend (c : Nat) (s : State) : State :=
  { s with msgs := { s.msgs with room := { s.msgs.room with spent := s.msgs.room.spent + c } } }

/-- The COMMIT place write of a record has completed and verified (R121). -/
def State.completeCommit (r : CommitRecord) (s : State) : State :=
  let s1 := s.logRecord r
  match s.purchases.committing r.seq with
  | none => s1
  | some e =>
    let e' := { e with state := .committed }
    let s2 := (s1.mapPurchase e.handle fun _ => e').spend e.charge
    let s3 := (((s2.addTitle e.title).offerRoom .part).offerTitlesIf .part (!s.purchases.titles.contains e.title)).raise
      (e'.notice .committed .committed)
    let s4 := if e.endNoted then s3.retireCommitted .part .eventEnded e' else s3
    s4.commitEnded .part

/-- The purchase unit is told of an event's end (R125). -/
def State.endPurchase (c : Caller) (id : BitVec 32) (s : State) : State :=
  match s.purchases.byEvent id with
  | none => s
  | some e =>
    match e.state with
    | .held => s.releaseHeld .eventEnded e
    | .committing => s.mapPurchase e.handle fun e => { e with endNoted := true }
    | .committed => s.retireCommitted c .eventEnded e

/-- An event is ended: its ID handed to the purchase unit, its entry removed (R99). -/
def State.endEvent (c : Caller) (id : BitVec 32) (s : State) : State :=
  let s1 := s.endPurchase c id
  { s1 with events := s1.events.remove id }

/-- The held commit pair with the lowest sequence number is offered with the place just freed (R135). -/
def State.offerHeldPair (s : State) : State :=
  match s.purchases.heldPairs, s.store.freePlace with
  | r :: rest, some i =>
    { s with
      purchases := { s.purchases with heldPairs := rest }
      store := s.store.offerPair .part (.room (some s.roomRecord)) (.commit i (some r)) }
  | _, _ => s

end Sys2Proof.Machine
end

