-- ==== Sys2Proof/Machine/Ticks.lean ====
section
/-! DEFINITION. The tick: uptime, hotel time and the meter's fold, and the parts of a tick that have rows of their own. What is
owed after a step is done before any other command (log 10, log 27). -/

namespace Sys2Proof.Machine

/-- A count of seconds one higher, staying at 4294967295 (R93, R94). -/
def nextSecond (t : Nat) : Nat := if t < Config.lastSecond then t + 1 else t

/-- Uptime rises, then hotel time if it is known (R93, R94). -/
def EventUnit.advance (u : EventUnit) : EventUnit :=
  { u with uptime := nextSecond u.uptime, hotelTime := u.hotelTime.map nextSecond }

/-- A watched second, saturating at 65535 (R108). -/
def riseWatched (w : Nat) : Nat := if w < 65535 then w + 1 else w

/-- A watched second of a HELD or COMMITTED entry; the rise that brings a HELD entry to the threshold begins its commit (R97,
R118). -/
def State.watch (e : PurchaseEntry) (s : State) : State :=
  let w := riseWatched e.watched
  let s1 := s.mapPurchase e.handle fun e => { e with watched := w }
  if e.state = .held ∧ s.msgs.policy.threshold ≤ w then s1.beginCommit .part e.handle else s1

/-- A second of free look of an event, when free look allows one (R97, R98). -/
def State.freeLookSecond (v : EventEntry) (s : State) : State :=
  if s.msgs.room.state = .occupied ∧ v.freeLook = true ∧ v.used < s.msgs.policy.allowance then
    { s with events := s.events.mapId v.id fun v => { v with used := v.used + 1 } }
  else s

/-- The fold of one event entry's seen mark (R97). -/
def State.foldMark (id : BitVec 32) (s : State) : State :=
  match s.events.byId id with
  | none => s
  | some v =>
    let s1 := { s with events := s.events.mapId id fun v => { v with seen := false } }
    if v.seen then
      match s.purchases.byEvent id with
      | none => s1.freeLookSecond v
      | some e =>
        match e.state with
        | .held => s1.watch e
        | .committing => s1
        | .committed => s1.watch e
    else s1

/-- The meter folds the seen marks of entries, in turn (R97). -/
def State.foldMarks (ids : List (BitVec 32)) (s : State) : State := ids.foldl (fun s id => s.foldMark id) s

/-- The meter's walk over the entries, each with its ID and whether it has ended: the entries folded up to the first one that has
ended, and then, for each entry that has ended, the entries folded behind it (R93, R99). -/
def meterPlan : List (BitVec 32 × Bool) → List (BitVec 32) × List (BitVec 32 × List (BitVec 32))
  | [] => ([], [])
  | (id, ended) :: rest =>
    let p := meterPlan rest
    if ended then ([id], (id, p.1) :: p.2) else (id :: p.1, p.2)

/-- The walk of this tick, against the hotel time the tick has just set (R99). -/
def EventUnit.plan (u : EventUnit) : List (BitVec 32) × List (BitVec 32 × List (BitVec 32)) :=
  meterPlan (u.entries.map fun e => (e.id, u.hasEnded e))

/-- The parts of a tick behind the meter's, in their order (R78, R80, R130, R141, R159). -/
def tickParts : List Owed := [.grantExpiry, .lockoutExpiry, .resendDue, .rebuiltEntryLimit, .checkoutExpiry]

/-- A tick taken in the event table (R93): uptime, hotel time, the folds up to the first entry that has ended; the rest of the
meter's walk and the other parts are owed. The timer does not run before the end of start-up. -/
def State.takeTick (s : State) : State :=
  if s.events.timerRunning then
    let s1 := { s with events := s.events.advance }
    { s1.foldMarks s1.events.plan.1 with owed := (s1.events.plan.2.map fun p => Owed.eventEnd p.1 p.2) ++ tickParts }
  else s

/-- An event entry that has ended is ended, and the meter goes on with the entries behind it (R93, R99). -/
def State.endAndFold (id : BitVec 32) (next : List (BitVec 32)) (s : State) : State := (s.endEvent .part id).foldMarks next

/-- Every grant whose expiry is at or below uptime is removed (R78). -/
def State.expireGrants (s : State) : State :=
  { s with lock := { s.lock with grants := s.lock.grants.filter fun g => decide (s.events.uptime < g.expiry) } }

/-- A lockout whose expiry is at or below uptime ends (R80). -/
def State.expireLockout (s : State) : State :=
  { s with lock := { s.lock with lockout := s.lock.lockout.filter fun e => decide (s.events.uptime < e) } }

/-- A record OFFERED at least the resend interval ago is DUE again (R141). -/
def LogRecord.resend (uptime interval : Nat) (l : LogRecord) : LogRecord :=
  match l.offer with
  | .due => l
  | .offered u => if u + interval ≤ uptime then { l with offer := .due } else l

/-- OFFERED records older than the resend interval become DUE again (R141). -/
def State.resendDue (s : State) : State :=
  { s with bills := { s.bills with
      log := s.bills.log.map (LogRecord.resend s.events.uptime s.msgs.policy.resendInterval) } }

/-- A rebuilt entry is at its limit: hotel time is known and at or above its taken hotel time + 28800, and the event table
holds no entry with its event ID (R130). -/
def State.atRebuiltLimit (s : State) (e : PurchaseEntry) : Bool :=
  e.origin == .rebuilt && s.events.reached (e.taken + Config.rebuiltLimit) && (s.events.byId e.event).isNone

/-- Rebuilt entries at their limit leave with reason EVENT_ENDED (R130). The spec does not order several of them that leave at one
tick: the model takes list order, its own choice (log 37). -/
def State.limitRebuilt (s : State) : State :=
  (s.purchases.entries.filter s.atRebuiltLimit).foldl (fun s e => s.retireCommitted .part .eventEnded e) s

/-- The checkout expiry: at or below uptime, its expired flag is set, and the room enters VACANT when no entry is COMMITTING
(R159). -/
def State.expireCheckout (s : State) : State :=
  match s.msgs.room.state, s.msgs.room.checkout with
  | .checkout, some t =>
    if t.expiry ≤ s.events.uptime then
      let s1 := { s with msgs := { s.msgs with room := { s.msgs.room with checkout := some { t with expired := true } } } }
      if s1.purchases.anyCommitting then s1 else s1.enterVacant .part
    else s
  | _, _ => s

/-- What an owed part does. -/
def State.runOwed (o : Owed) (s : State) : State :=
  match o with
  | .eventEnd id next => s.endAndFold id next
  | .grantExpiry => s.expireGrants
  | .lockoutExpiry => s.expireLockout
  | .resendDue => s.resendDue
  | .rebuiltEntryLimit => s.limitRebuilt
  | .checkoutExpiry => s.expireCheckout
  | .commitPairOffer => s.offerHeldPair

/-- The first owed part is done, and those behind it stay owed. -/
def State.doOwed (o : Owed) (os : List Owed) (s : State) : State := { s.runOwed o with owed := os }

/-- Owed parts run in order, up to and including the first that satisfies `p`; those behind it stay owed. -/
def State.runThrough (p : Owed → Bool) : List Owed → State → State
  | [], s => { s with owed := [] }
  | o :: os, s => if p o then s.doOwed o os else State.runThrough p os (s.doOwed o os)

/-- Everything owed is done, in order. -/
def State.settleList : List Owed → State → State
  | [], s => { s with owed := [] }
  | o :: os, s => State.settleList os (s.doOwed o os)

/-- Everything owed is done. -/
def State.settle (s : State) : State := State.settleList s.owed s

/-- A command's effect, after what is owed. -/
def act (f : State → State) (s : State) : Host.Outcome State Fault Refusal := .next (f s.settle)

/-- The owed part is an event's end. -/
def Owed.isEventEnd : Owed → Bool
  | .eventEnd _ _ => true
  | .grantExpiry => false
  | .lockoutExpiry => false
  | .resendDue => false
  | .rebuiltEntryLimit => false
  | .checkoutExpiry => false
  | .commitPairOffer => false

/-- The first owed part that satisfies `p` taken: it is done when there is one, after the parts before it. -/
def State.takeOwed (p : Owed → Bool) (s : State) : State := if s.owed.any p then State.runThrough p s.owed s else s

/-! ### Meanings -/

/-- TICK (R93, R97). -/
def execTick (s : State) : Host.Outcome State Fault Refusal := act State.takeTick s

/-- EVENT_END (R99): one entry that has ended. -/
def execEventEnd (s : State) : Host.Outcome State Fault Refusal := .next (s.takeOwed Owed.isEventEnd)

/-- GRANT_EXPIRY (R78). -/
def execGrantExpiry (s : State) : Host.Outcome State Fault Refusal := .next (s.takeOwed (· == .grantExpiry))

/-- LOCKOUT_EXPIRY (R80). -/
def execLockoutExpiry (s : State) : Host.Outcome State Fault Refusal := .next (s.takeOwed (· == .lockoutExpiry))

/-- RESEND_DUE (R141). -/
def execResendDue (s : State) : Host.Outcome State Fault Refusal := .next (s.takeOwed (· == .resendDue))

/-- REBUILT_ENTRY_LIMIT (R130). -/
def execRebuiltEntryLimit (s : State) : Host.Outcome State Fault Refusal := .next (s.takeOwed (· == .rebuiltEntryLimit))

/-- CHECKOUT_EXPIRY (R159). -/
def execCheckoutExpiry (s : State) : Host.Outcome State Fault Refusal := .next (s.takeOwed (· == .checkoutExpiry))

/-- COMMIT_PAIR_OFFER (R135). -/
def execCommitPairOffer (s : State) : Host.Outcome State Fault Refusal := .next (s.takeOwed (· == .commitPairOffer))

end Sys2Proof.Machine
end

