-- ==== Sys2Proof/Machine/Arrivals.lean ====
section
/-! DEFINITION. Transactions arriving on the P-side: their portions handed to the slot table, the message unit, the request
unit and the verdict unit, and the transaction accepted into the P-side line (R1 to R3, R9 to R11, R24 to R30, R59 to R73,
R147, R148). -/

namespace Sys2Proof.Machine

/-! ### Stream slot writes (R24 to R30) -/

/-- The tag a header word sets, without a key reference (R25, step 2). -/
def SlotTag.ofHeader (w : Word) : SlotTag :=
  { service := headerService w, kind := headerKind w, phase := headerPhase w, cellCount := headerCount w
    eventTag := headerTag w, damaged := headerDamaged w, keyRef := none }

/-- A slot's tag is replaced after its key reference is dropped (R25 steps 1 and 2, R27). -/
def State.replaceTag (ring : Fin 4) (slot : Nat) (tag : Option SlotTag) (s : State) : State :=
  { s with
    keys := s.keys.dropOption ((s.slots.tag ring slot).bind SlotTag.keyRef)
    slots := s.slots.setTag ring slot tag }

/-- The phase report of a tag (R25 step 4, R44): the staged key of the other phase is installed, and the tag takes a reference
to the current entry of its own phase. -/
def State.phaseReport (ring : Fin 4) (slot : Nat) (ks : Fin 64) (q : Phase) (s : State) : State :=
  let s1 := s.installStaged ks q
  let (k, ref) := s1.keys.takeRef ks q
  match ref with
  | none => { s1 with keys := k }
  | some r =>
    { s1 with
      keys := k
      slots := s1.slots.setTag ring slot ((s1.slots.tag ring slot).map fun t => { t with keyRef := some r }) }

/-- A write that sets a tag (R25). -/
def State.setSlotTag (ring : Fin 4) (slot : Nat) (w : Word) (s : State) : State :=
  let tag := SlotTag.ofHeader w
  let s1 := s.replaceTag ring slot (some tag)
  if tag.damaged then s1
  else
    match s1.slots.service tag.service with
    | none => s1
    | some e =>
      let s2 := { s1 with slots := s1.slots.mapService tag.service fun e => e.continuity tag.cellCount }
      match tag.kind.isContent, tag.phase.phase? with
      | true, some q => s2.phaseReport ring slot e.keySet q
      | _, _ => s2

/-- A write portion in a stream ring slot (R24). -/
def State.streamWrite (w : WriteTxn) (ring : Fin 4) (slot : Nat) (q : Portion) (s : State) : State :=
  match s.path.streams[ring] with
  | none => s
  | some win =>
    if w.initiator = win.writer then
      if q.first = 0 then
        match w.words[q.start]? with
        | some x => if x.enables = 0xFF#8 then s.setSlotTag ring slot x.data else s.replaceTag ring slot none
        | none => s
      else s
    else s.replaceTag ring slot none

/-! ### Control slot writes (R147, R148) -/

/-- A message joins the intake queue, or is dropped and counted when the queue holds 8 (R148). -/
def MessageUnit.take (m : MessageUnit) (msg : Message) : MessageUnit :=
  if m.intake.length < Config.intakeCapacity then { m with intake := m.intake ++ [msg] }
  else { m with dropped := if m.dropped < 65535 then m.dropped + 1 else m.dropped }

/-- The words of a write portion. -/
def portionWords (w : WriteTxn) (q : Portion) : List WriteWord := (w.words.drop q.start).take q.count

/-- A write portion in a control ring slot is a control cell (R147). -/
def isControlCell (writer : BitVec 4) (w : WriteTxn) (q : Portion) : Bool :=
  decide (w.initiator = writer) && decide (q.first = 0) && decide (q.count = 16)
    && (portionWords w q).all (fun x => decide (x.enables = 0xFF#8))
    && (match (portionWords w q).head? with
        | some x => !headerDamaged x.data && decide (headerKind x.data = .control)
        | none => false)

/-- A write portion in a control ring slot (R6, R147). -/
def State.controlWrite (w : WriteTxn) (q : Portion) (s : State) : State :=
  match s.path.control with
  | none => s
  | some win =>
    if s.msgs.watching && isControlCell win.writer w q then
      { s with msgs := s.msgs.take ⟨((portionWords w q).drop 1).map (·.data)⟩ }
    else s

/-! ### Index words (R9 to R11) -/

/-- A written request-produce value P is taken (R10). -/
def RequestUnit.takesProduce (q : RequestUnit) (p : BitVec 16) : Bool :=
  decide ((p - q.requestConsume).toNat ≤ 16) && !(q.serving && p == q.requestConsume)

/-- A written consume value lies between the last one and the part's produce value (R11). -/
def takesConsume (c last produce : BitVec 16) : Bool := decide ((c - last).toNat ≤ (produce - last).toNat)

/-- An index word written with all byte enables on; the value is the low 16 bits (R9). -/
def RequestUnit.writeIndex (q : RequestUnit) (n : Nat) (v : BitVec 16) : RequestUnit :=
  match n with
  | 0 => if q.takesProduce v then { q with requestProduce := v } else q
  | 1 => if takesConsume v q.answerConsume q.answerProduce then { q with answerConsume := v } else q
  | 2 => if takesConsume v q.billConsume q.billProduce then { q with billConsume := v } else q
  | _ => q

/-- One word of a write portion in the index block; a word with any byte enable off is ignored (R9). -/
def RequestUnit.indexWord (q : RequestUnit) (n : Nat) (x : WriteWord) : RequestUnit :=
  if x.enables = 0xFF#8 then q.writeIndex n (x.data.extractLsb' 0 16) else q

/-- The words of a write portion in the index block, in ascending order from index word n (R9). -/
def RequestUnit.indexWords (q : RequestUnit) : Nat → List WriteWord → RequestUnit
  | _, [] => q
  | n, x :: xs => RequestUnit.indexWords (q.indexWord n x) (n + 1) xs

/-- A write portion handed on (R3). -/
def State.writePortion (w : WriteTxn) (s : State) (q : Portion) : State :=
  match q.region with
  | .streamSlot ring slot => s.streamWrite w ring slot q
  | .controlSlot _ => s.controlWrite w q
  | .indexBlock => { s with req := s.req.indexWords q.first (portionWords w q) }
  | .anchorRest => s
  | .outside => s

/-! ### Stream slot reads (R5, R59 to R73) -/

/-- The 120 bytes of a slate: the in-use copy of slates 1 to 7 when loaded, otherwise zero (R69). -/
def SlateTable.bytes (t : SlateTable) (i : Fin 8) : BitVec 960 :=
  if h : i.val = 0 then 0#960
  else
    match (t.slates[i.val - 1]'(by omega)).inUse with
    | some l => l.bytes
    | none => 0#960

/-- The verdict of a slate for a tag (R68, R69). -/
def State.slateVerdict (s : State) (t : SlotTag) (i : Fin 8) : Verdict :=
  .slate (synthesisedHeader t.service t.cellCount t.eventTag) (s.slates.bytes i)

/-- A purchase entry entitles the room to an event: any of the three states (R64). -/
def State.bought (s : State) (id : BitVec 32) : Bool := (s.purchases.byEvent id).isSome

/-- Free look entitles the room to an event (R64). -/
def State.freeLookOpen (s : State) (v : EventEntry) : Bool :=
  decide (s.msgs.room.state = .occupied) && v.freeLook && decide (v.used < s.msgs.policy.allowance)

/-- The free look of an event has reached its allowance (R64). -/
def State.previewEnded (s : State) (v : EventEntry) : Bool :=
  v.freeLook && decide (0 < s.msgs.policy.allowance) && decide (s.msgs.policy.allowance ≤ v.used)

/-- The active tier mask (R63); an UNBOUND room has none. -/
def State.activeTiers (s : State) : BitVec 32 :=
  match s.msgs.room.state with
  | .occupied => s.msgs.room.tiers
  | .checkout => s.msgs.room.tiers
  | .vacant => s.msgs.policy.vacantTiers
  | .unbound => 0#32

/-- Step 7: the slate of a cell the room is not entitled to, `none` when it is entitled (R63, R64). -/
def State.entitlementSlate (s : State) (e : ServiceEntry) (v : Option EventEntry) : Option (Fin 8) :=
  match e.cls with
  | .free => none
  | .tier => if s.activeTiers.getLsbD e.tier then none else some 2
  | .pay =>
    match v with
    | none => some 2
    | some v => if s.bought v.id || s.freeLookOpen v then none else if s.previewEnded v then some 3 else some 2

/-- The pool entry a reference names, absent when the reference is absent or stale (R26, R65). -/
def KeyPool.goodEntry (k : KeyPool) : Option KeyRef → Option PoolEntry
  | none => none
  | some r => if k.pool[r.entry].stamp = r.stamp then some k.pool[r.entry] else none

/-- A verdict with the step of R60 that matched. -/
structure Judgement where
  step    : Nat
  verdict : Verdict
  deriving DecidableEq, Repr

/-- Steps 6 to 10 for a content cell of a known service (R62 to R65). -/
def State.judgeContent (s : State) (t : SlotTag) (e : ServiceEntry) : Judgement :=
  let v := s.events.byTag t.service t.eventTag
  let rating := match v with | some v => v.rating | none => e.rating
  if s.limit t.service < rating then ⟨6, s.slateVerdict t 1⟩
  else
    match s.entitlementSlate e v with
    | some i => ⟨7, s.slateVerdict t i⟩
    | none =>
      if t.phase = .clear then ⟨8, .pass⟩
      else
        match s.keys.goodEntry t.keyRef with
        | none => ⟨9, s.slateVerdict t 4⟩
        | some p => ⟨10, .descramble p.key t.service t.cellCount⟩

/-- The ten steps of R60 for a slot's tag. -/
def State.judge (s : State) (tag : Option SlotTag) : Judgement :=
  match tag with
  | none => ⟨1, .pass⟩
  | some t =>
    if s.msgs.room.state = .unbound ∨ s.msgs.room.suspended = true then ⟨2, s.slateVerdict t 6⟩
    else if t.damaged then ⟨3, s.slateVerdict t 5⟩
    else if t.kind.isContent = false then ⟨4, .pass⟩
    else
      match s.slots.service t.service with
      | none => ⟨5, s.slateVerdict t 0⟩
      | some e => s.judgeContent t e

/-- A judged portion covers a payload word. -/
def Portion.coversPayload (q : Portion) : Bool := decide (1 < q.first + q.count)

/-- The event whose seen mark a judged portion raises: a delivered PAY cell, with a payload word covered (R73). -/
def State.marks (s : State) (tag : Option SlotTag) (j : Judgement) (q : Portion) : Option EventEntry :=
  match tag with
  | none => none
  | some t =>
    match s.slots.service t.service with
    | none => none
    | some e =>
      if (j.step = 8 ∨ j.step = 10) ∧ e.cls = .pay ∧ q.coversPayload = true then s.events.byTag t.service t.eventTag else none

/-- The seen mark of an event raised (R73). -/
def State.raiseSeen (v : Option EventEntry) (s : State) : State :=
  match v with
  | none => s
  | some v => { s with events := s.events.mapId v.id fun v => { v with seen := true } }

/-- An initiator is in a ring's reader set: in its reader mask and in the policy's reader set (R5). -/
def State.isReader (s : State) (win : Window) (i : BitVec 4) : Bool :=
  win.readers.getLsbD i.toNat && s.msgs.policy.readers.getLsbD i.toNat

/-- A read portion handed on (R3, R5): judged when it lies in a stream slot and its initiator is in the ring's reader set. -/
def readPortion (r : ReadTxn) (a : State × List HeldPortion) (q : Portion) : State × List HeldPortion :=
  let s := a.1
  match q.region with
  | .streamSlot ring slot =>
    match s.path.streams[ring] with
    | none => a
    | some win =>
      if s.isReader win r.initiator then
        let tag := s.slots.tag ring slot
        let j := s.judge tag
        (s.raiseSeen (s.marks tag j q), a.2 ++ [⟨q.start, q.first, q.count, j.verdict⟩])
      else a
  | .controlSlot _ => a
  | .indexBlock => a
  | .anchorRest => a
  | .outside => a

/-! ### Arrival (R2, R3) -/

/-- A transaction joins the P-side line. -/
def State.enqueue (c : Carried) (s : State) : State := { s with path := { s.path with pSide := s.path.pSide ++ [c] } }

/-- A write arrives: its portions are handed on in ascending order, and it joins the P-side line. While 8 are held it is not
accepted and has not arrived (R2). -/
def State.arriveWrite (w : WriteTxn) (s : State) : State :=
  if s.path.pSide.length < Config.pSideCapacity then
    ((s.path.portions w.addr w.words.length).foldl (fun s q => s.writePortion w q) s).enqueue (.write w)
  else s

/-- A read arrives: its portions are judged in ascending order, and it joins the P-side line with its verdicts (R2, R59). -/
def State.arriveRead (r : ReadTxn) (s : State) : State :=
  if s.path.pSide.length < Config.pSideCapacity then
    let a := (s.path.portions r.addr r.len).foldl (readPortion r) (s, [])
    a.1.enqueue (.read r a.2)
  else s

/-- A transaction offered on the P-side: what is no transaction faults (log 13). -/
def arrival (t : Txn) (s : State) : Host.Outcome State Fault Refusal :=
  if t.ok then
    act (fun s => match t with
      | .write w => s.arriveWrite w
      | .read r => s.arriveRead r) s
  else .fault .notATransaction

/-! ### Meanings. Where a transaction goes decides what the part does about it (log 12). -/

/-- STREAM_SLOT_WRITE (R24). -/
def execStreamSlotWrite (w : WriteTxn) (s : State) : Host.Outcome State Fault Refusal := arrival (.write w) s

/-- STREAM_SLOT_READ (R60). -/
def execStreamSlotRead (r : ReadTxn) (s : State) : Host.Outcome State Fault Refusal := arrival (.read r) s

/-- CONTROL_SLOT_WRITE (R147). -/
def execControlSlotWrite (w : WriteTxn) (s : State) : Host.Outcome State Fault Refusal := arrival (.write w) s

/-- REQUEST_PRODUCE_WRITE (R10). -/
def execRequestProduceWrite (w : WriteTxn) (s : State) : Host.Outcome State Fault Refusal := arrival (.write w) s

/-- CONSUME_INDEX_WRITE (R11). -/
def execConsumeIndexWrite (w : WriteTxn) (s : State) : Host.Outcome State Fault Refusal := arrival (.write w) s

/-- INDEX_WORD_WRITE_IGNORED (R9). -/
def execIndexWordWriteIgnored (w : WriteTxn) (s : State) : Host.Outcome State Fault Refusal := arrival (.write w) s

/-- PASSED_TRANSACTION_ARRIVAL (R3, R67). -/
def execPassedTransactionArrival (t : Txn) (s : State) : Host.Outcome State Fault Refusal := arrival t s

end Sys2Proof.Machine
end

