-- ==== Sys2Proof/Machine/MSide.lean ====
section
/-! DEFINITION. The memory-side arbiter and the words returned on reads (R1, R12, R18, R19, R66). -/

namespace Sys2Proof.Machine

/-- The written value of a granted index write (R19). The first write of word 4 that carries another value than the 0 of start-up's own is
the one behind the START notice (R13, R177; log 38). -/
def RequestUnit.written (q : RequestUnit) (o : OwnTxn) : RequestUnit :=
  match o with
  | .index .answerProduce v => { q with writtenAnswer := v, startGranted := q.startGranted || v != 0#16 }
  | .index .billProduce v => { q with writtenBill := v }
  | .index .requestConsume _ => q
  | .fetch _ => q
  | .record _ _ => q

/-- The oldest P-side transaction is granted, with the count after the grant. -/
def State.grantPSide (c : Carried) (rest : List Carried) (count : Nat) (s : State) : State :=
  { s with path := { s.path with pSide := rest, underWay := some (.pSide c), ownWait := count } }

/-- The oldest own transaction is granted and leaves the queue; the count becomes 0; a transaction waiting to be issued takes
the free place (R17, R18, R19). -/
def State.grantOwn (o : OwnTxn) (rest : List OwnTxn) (s : State) : State :=
  { s with
    path := { s.path with own := rest, underWay := some (.own o), ownWait := 0 }.fill
    req := s.req.written o }

/-- The arbiter's rule (R18). -/
def State.arbitrate (s : State) : State :=
  match s.path.pSide, s.path.own with
  | [], [] => s
  | c :: rest, [] => s.grantPSide c rest s.path.ownWait
  | [], o :: rest => s.grantOwn o rest
  | c :: prest, o :: orest =>
    if s.path.ownWait < Config.maxOwnWait then s.grantPSide c prest (s.path.ownWait + 1) else s.grantOwn o orest

/-- A write under way has been performed on memory, and the M-side is free (R1, R18). -/
def State.performWrite (g : Granted) (s : State) : State :=
  { s with mem := s.mem.perform s.path.anchorBase g, path := { s.path with underWay := none } }

/-- The next grant (R18). The transaction granted before has been performed: a write is performed on memory now (log 2); while
a read's words have not come back, no grant is made. -/
def State.grant (s : State) : State :=
  match s.path.underWay with
  | none => s.arbitrate
  | some g =>
    match g.writes s.path.anchorBase with
    | none => s
    | some _ => (s.performWrite g).arbitrate

/-- What a verdict returns for word k of a slot (R66). -/
def Verdict.word (v : Verdict) (k : Nat) (stored : Word) : Word :=
  match v with
  | .pass => stored
  | .descramble key service count => if k = 0 then stored else descrambleWord key service count k stored
  | .slate header bytes => if k = 0 then header else bytes.extractLsb' (64 * (k - 1)) 64

/-- The held portion that covers word j of a transaction. -/
def heldAt (held : List HeldPortion) (j : Nat) : Option HeldPortion :=
  held.find? fun h => decide (h.start ≤ j) && decide (j < h.start + h.count)

/-- The word returned for word j of a read: as stored, unless it belongs to a judged portion (R1, R66). -/
def returnWord (held : List HeldPortion) (j : Nat) (stored : Word) : Word :=
  match heldAt held j with
  | none => stored
  | some h => h.verdict.word (h.first + (j - h.start)) stored

/-- The words returned for a read (R1, R66). -/
def returnWords (m : Memory) (r : ReadTxn) (held : List HeldPortion) : List Word :=
  (List.range r.len).map fun j => returnWord held j (m.word (r.addr.toNat + 8 * j))

/-- Memory returns the words of the P-side read under way (R66). -/
def State.returnRead (s : State) : State :=
  match s.path.underWay with
  | some (.pSide (.read r held)) =>
    { s with path := { s.path with
        underWay := none
        readReturn := some { initiator := r.initiator, addr := r.addr, words := returnWords s.mem r held } } }
  | _ => s

/-! ### Meanings -/

/-- MSIDE_GRANT (R18). -/
def execMsideGrant (s : State) : Host.Outcome State Fault Refusal := act State.grant s

/-- READ_WORDS_RETURN (R66). -/
def execReadWordsReturn (s : State) : Host.Outcome State Fault Refusal := act State.returnRead s

end Sys2Proof.Machine
end

