-- ==== Sys2Proof/Machine/Requests.lean ====
section
/-! DEFINITION. Taking a request, and the requests of the path unit, the tables, the key pool, the verdict unit and the lock
unit (R14 to R16, R37 to R39, R57, R58, R74, R84 to R89, R169, R170). -/

namespace Sys2Proof.Machine

/-! ### Taking (R169, R170) -/

/-- The conditions for taking a request (R169). -/
def State.canTake (s : State) : Bool :=
  decide (s.req.startUp = .running) && decide (s.req.service = .idle) && s.req.requestProduce != s.req.requestConsume
    && s.req.answerFree && s.req.notices.isEmpty && s.path.canIssue

/-- A request is taken: the own read of its record is issued (R169). -/
def State.takeRequest (s : State) : State :=
  if s.canTake then
    { s with
      req := { s.req with service := .fetching }
      path := s.path.issue [.fetch (s.req.requestConsume.toNat % Config.ringRecords)] }
  else s

/-- The record the own read under way returns, read from memory at that moment (R170). -/
def State.fetched (s : State) : Option Request :=
  match s.req.service, s.path.underWay with
  | .fetching, some (.own (.fetch n)) => some (Request.ofWords (s.mem.words (s.path.anchorBase + 64 * n) 8))
  | _, _ => none

/-- The own read's words have come back: the M-side is free. -/
def State.fetchDone (s : State) : State := { s with path := { s.path with underWay := none } }

/-- The fetched record is handed to the block that owns its kind, when that kind is `code` (R170). -/
def State.serveAs (code : Nat) (serve : Request → State → State) (s : State) : State :=
  match s.fetched with
  | none => s
  | some r => if r.kind.toNat = code then serve r s.fetchDone else s

/-- A record whose kind is none of the request kinds 1 to 17 (R170, R180). -/
def State.serveUnknown (s : State) : State :=
  match s.fetched with
  | none => s
  | some r => if 1 ≤ r.kind.toNat ∧ r.kind.toNat ≤ 17 then s else s.fetchDone.answer r .unknownRequest []

/-! ### ATTACH_RING and DETACH_RING (R14 to R16) -/

/-- The window an ATTACH_RING asks for; the control ring has no reader mask (R4, R15). -/
def Request.window (r : Request) : Window :=
  { base := r.arg 2, slots := r.arg 3, writer := BitVec.ofNat 4 (r.arg 4)
    readers := if r.arg 1 = 4 then 0#16 else BitVec.ofNat 16 (r.arg 5) }

/-- Check 1 of ATTACH_RING: every argument word is in range (R14). -/
def Request.attachOk (r : Request) : Bool :=
  decide (r.arg 1 ≤ 4) && decide (r.arg 2 ≤ 0xFFFFFFFF) && decide (r.arg 2 % 128 = 0)
    && (if r.arg 1 = 4 then decide (8 ≤ r.arg 3) && decide (r.arg 3 ≤ 256)
        else decide (16 ≤ r.arg 3) && decide (r.arg 3 ≤ 1024) && decide (r.arg 5 ≤ 0xFFFF))
    && decide (r.arg 4 ≤ 15)

/-- The ring's entry in the window list, ring 4 being the control ring. -/
def PathUnit.ring (p : PathUnit) (n : Nat) : Option Window := if h : n < 4 then p.streams[n] else p.control

/-- The ring's entry in the window list replaced. -/
def PathUnit.setRing (p : PathUnit) (n : Nat) (w : Option Window) : PathUnit :=
  if h : n < 4 then { p with streams := p.streams.set n w } else { p with control := w }

/-- The tags of a stream ring replaced by `n` invalid ones (R15, R23). -/
def SlotTable.create (t : SlotTable) (ring n : Nat) : SlotTable :=
  if h : ring < 4 then { t with tags := t.tags.set ring (List.replicate n none) } else t

/-- A ring is attached (R15): its window, and its tags or the watch of the control ring. -/
def State.attach (ring : Nat) (w : Window) (s : State) : State :=
  { s with
    path := s.path.setRing ring (some w)
    slots := s.slots.create ring w.slots
    msgs := if ring = 4 then { s.msgs with watching := true } else s.msgs }

/-- ATTACH_RING served (R14, R15). -/
def serveAttachRing (r : Request) (s : State) : State :=
  let w := r.window
  if r.attachOk = false then s.answer r .badArgument []
  else if (s.path.ring (r.arg 1)).isSome then s.answer r .ringBusy []
  else if s.path.overlaps w ∨ 0x100000000 < w.last then s.answer r .overlap []
  else if r.arg 1 < 4 ∧ Config.maxStreamSlots < s.path.streamSlots + w.slots then s.answer r .noSlots []
  else
    let s1 := s.attach (r.arg 1) w
    s1.answer r .ok [single s1.path.streamSlots, single w.last]

/-- The key references of a ring's valid tags are dropped (R28). -/
def KeyPool.dropTags (k : KeyPool) (l : List (Option SlotTag)) : KeyPool :=
  l.foldl (fun k o => k.dropOption (o.bind SlotTag.keyRef)) k

/-- A ring is detached (R16, R28): for a stream ring the references of its tags are dropped and the tags removed; for the control
ring the watch ends. -/
def State.detach (ring : Nat) (s : State) : State :=
  { s with
    path := s.path.setRing ring none
    keys := if h : ring < 4 then s.keys.dropTags s.slots.tags[ring] else s.keys
    slots := s.slots.create ring 0
    msgs := if ring = 4 then { s.msgs with watching := false } else s.msgs }

/-- DETACH_RING served (R16). -/
def serveDetachRing (r : Request) (s : State) : State :=
  if 4 < r.arg 1 then s.answer r .badArgument []
  else if (s.path.ring (r.arg 1)).isNone then s.answer r .ringNotAttached []
  else
    let s1 := s.detach (r.arg 1)
    s1.answer r .ok [single s1.path.streamSlots]

/-! ### SERVICE_INFO, KEY_INFO, SLATE_INFO -/

/-- SERVICE_INFO served (R37 to R39). -/
def serveServiceInfo (r : Request) (s : State) : State :=
  if 4095 < r.arg 1 ∧ r.arg 1 ≠ 65535 then s.answer r .badArgument []
  else if 1 < r.arg 2 then s.answer r .badArgument []
  else if r.arg 1 = 65535 then
    s.answer r .ok (single s.slots.services.length :: (List.finRange 4).map fun i => single (s.slots.validTags i))
  else
    let n := BitVec.ofNat 12 (r.arg 1)
    match s.slots.service n with
    | none => s.answer r .notFound []
    | some e =>
      let s1 := if r.arg 2 = 1 then { s with slots := s.slots.mapService n fun e => { e with discontinuities := 0 } } else s
      s1.answer r .ok
        [single e.cls.code, single e.tier, single e.keySet.val, single e.rating,
         single (match e.expected with | some c => c.toNat | none => 65536), single e.discontinuities]

/-- Index, reference count and staged mark of one phase (R57). -/
def KeyPool.phaseInfo (k : KeyPool) (ks : Fin 64) (p : Phase) : List Word :=
  match (k.slot ks p).current with
  | none => [single 256, single 0, single (flag (k.slot ks p).staged.isSome)]
  | some i => [single i.val, single k.pool[i].refs, single (flag (k.slot ks p).staged.isSome)]

/-- The number of pool entries in a state (R58). -/
def KeyPool.countState (k : KeyPool) (st : PoolState) : Nat := k.pool.toList.countP fun e => e.state == st

/-- The number of staged keys (R58). -/
def KeyPool.stagedCount (k : KeyPool) : Nat :=
  k.sets.toList.countP (fun x => x.phase0.staged.isSome) + k.sets.toList.countP (fun x => x.phase1.staged.isSome)

/-- The number of key sets with a current entry (R58). -/
def KeyPool.setsInUse (k : KeyPool) : Nat :=
  k.sets.toList.countP fun x => x.phase0.current.isSome || x.phase1.current.isSome

/-- KEY_INFO served (R57, R58). -/
def serveKeyInfo (r : Request) (s : State) : State :=
  if 63 < r.arg 1 ∧ r.arg 1 ≠ 65535 then s.answer r .badArgument []
  else if 1 < r.arg 2 then s.answer r .badArgument []
  else if h : r.arg 1 < 64 then
    let ks : Fin 64 := ⟨r.arg 1, h⟩
    s.answer r .ok (s.keys.phaseInfo ks .p0 ++ s.keys.phaseInfo ks .p1)
  else
    let s1 := if r.arg 2 = 1 then { s with keys := { s.keys with reclaims := 0 } } else s
    s1.answer r .ok
      [single (s.keys.countState .free), single (s.keys.countState .current), single s.keys.retireOrder.length,
       single s.keys.stagedCount, single s.keys.setsInUse, single s.keys.reclaims]

/-- The set of slates 1 to 7 that satisfy a test, bit i for slate i. -/
def SlateTable.set (t : SlateTable) (f : Slate → Bool) : Nat :=
  ((List.finRange 7).map fun i => if f t.slates[i] then 2 ^ (i.val + 1) else 0).sum

/-- A staging holds exactly one half (R74). -/
def Slate.halfStaged (x : Slate) : Bool :=
  match x.staging with
  | none => false
  | some g => g.half0.isSome != g.half1.isSome

/-- The load numbers of the in-use copies, one to a byte, byte 0 for slate 1 (R74). -/
def SlateTable.loads (t : SlateTable) : Nat :=
  ((List.finRange 7).map fun i =>
    match t.slates[i].inUse with
    | some l => l.load.toNat * 256 ^ i.val
    | none => 0).sum

/-- SLATE_INFO served (R74). -/
def serveSlateInfo (r : Request) (s : State) : State :=
  s.answer r .ok
    [single (1 + s.slates.set fun x => x.inUse.isSome), single (s.slates.set Slate.halfStaged), single s.slates.loads]

/-! ### The lock unit's requests (R79 to R89) -/

/-- A wrong PIN answered, its ROOM write offered (R81, R82). -/
def State.wrongPin (c : Caller) (s : State) : State × List Word :=
  let s1 := s.pinFailure.offerRoom c
  (s1, [single s1.lock.failures, single (failureSpan s.msgs.policy.lockoutBase s1.lock.failures)])

/-- The PIN replaced, with a failure count. -/
def State.setPinTo (p : Pin) (failures : Nat) (s : State) : State :=
  { s with lock := { s.lock with pin := some p, failures := failures } }

/-- SET_PIN served (R84). -/
def serveSetPin (r : Request) (s : State) : State :=
  let given := oldPinGiven (r.word 2)
  match parsePin (r.word 1) with
  | none => s.answer r .badArgument []
  | some new =>
    if given ∧ (parsePin (r.word 2)).isNone then s.answer r .badArgument []
    else if s.msgs.room.state = .unbound ∨ s.msgs.room.state = .vacant then s.answer r .wrongState []
    else
      match s.lock.pin with
      | none => ((s.setPinTo new s.lock.failures).offerRoom .setting).answerAtWrite r .ok []
      | some held =>
        if s.lock.lockout.isSome then s.answer r .pinLockout [single s.lockoutRemaining]
        else if given ∧ parsePin (r.word 2) = some held then
          ((s.setPinTo new 0).offerRoom .setting).answerAtWrite r .ok []
        else
          let w := s.wrongPin .setting
          w.1.answerAtWrite r .wrongPin w.2

/-- The guest ceiling takes a value; grants are removed when it differs from the one held before (R85). -/
def State.setCeiling (v : Nat) (s : State) : State :=
  { s with lock := { s.lock with
      failures := 0
      guestCeiling := v
      grants := if v = s.lock.guestCeiling then s.lock.grants else [] } }

/-- SET_GUEST_CEILING served (R85). -/
def serveSetGuestCeiling (r : Request) (s : State) : State :=
  match parsePin (r.word 1) with
  | none => s.answer r .badArgument []
  | some pin =>
    if 7 < r.arg 2 then s.answer r .badArgument []
    else if s.lock.lockout.isSome then s.answer r .pinLockout [single s.lockoutRemaining]
    else
      match s.lock.pin with
      | none => s.answer r .noPin []
      | some held =>
        if pin = held then
          let s1 := (s.setCeiling (r.arg 2)).offerRoom .setting
          s1.answerAtWrite r .ok
            [single s1.effectiveCeiling, single (s.lock.grants.length - s1.lock.grants.length)]
        else
          let w := s.wrongPin .setting
          w.1.answerAtWrite r .wrongPin w.2

/-- The scope argument of UNLOCK (R86). -/
def scopeOf (n : Nat) : Option Scope :=
  if n = 65535 then some .all else if n ≤ 4095 then some (.service (BitVec.ofNat 12 n)) else none

/-- The span of UNLOCK after clamping (R86). -/
def clampSpan (n : Nat) : Nat := if n < Config.minSpan then Config.minSpan else if Config.maxSpan < n then Config.maxSpan else n

/-- A grant is added and the failure count cleared (R86, R87). -/
def State.grantTo (g : Grant) (s : State) : State :=
  { s with lock := { s.lock with failures := 0, grants := addGrant g s.lock.grants } }

/-- UNLOCK served (R86, R87). -/
def serveUnlock (r : Request) (s : State) : State :=
  match parsePin (r.word 1), scopeOf (r.arg 2) with
  | some pin, some scope =>
    if s.msgs.room.state = .unbound ∨ s.msgs.room.state = .vacant then s.answer r .wrongState []
    else if s.lock.lockout.isSome then s.answer r .pinLockout [single s.lockoutRemaining]
    else
      match s.lock.pin with
      | none => s.answer r .noPin []
      | some held =>
        if pin = held then
          let span := clampSpan (r.arg 3)
          let g : Grant := ⟨scope, s.events.uptime + span⟩
          let s1 := s.grantTo g
          let results := [single span, single g.expiry, single s1.lock.grants.length]
          if s.lock.failures = 0 then s1.answer r .ok results
          else (s1.offerRoom .unlock).answerOnceQueued r .ok results
        else
          let w := s.wrongPin .unlock
          w.1.answerOnceQueued r .wrongPin w.2
  | _, _ => s.answer r .badArgument []

/-- Every grant is removed. -/
def State.removeGrants (s : State) : State := { s with lock := { s.lock with grants := [] } }

/-- LOCK_NOW served (R88). -/
def serveLockNow (r : Request) (s : State) : State :=
  s.removeGrants.answer r .ok [single s.lock.grants.length]

/-- A grant's scope and remaining seconds in bytes lo to lo + 3; a place with no grant gives scope 65534 and 0 (R89, R181). -/
def State.grantField (s : State) (lo i : Nat) : Word :=
  match s.lock.grants[i]? with
  | some g => put lo 2 g.scope.code ||| put (lo + 2) 2 (g.expiry - s.events.uptime)
  | none => put lo 2 65534

/-- LOCK_INFO served (R89). -/
def serveLockInfo (r : Request) (s : State) : State :=
  s.answer r .ok
    [put 0 1 s.msgs.policy.hotelCeiling ||| put 1 1 s.lock.guestCeiling ||| put 2 1 s.effectiveCeiling
       ||| put 3 1 (flag s.lock.pin.isSome),
     single s.lock.failures, single s.lockoutRemaining, single s.lock.grants.length,
     s.grantField 0 0 ||| s.grantField 4 1, s.grantField 0 2 ||| s.grantField 4 3]

/-! ### Meanings -/

/-- REQUEST_TAKE (R169). -/
def execRequestTake (s : State) : Host.Outcome State Fault Refusal := act State.takeRequest s

/-- UNKNOWN_REQUEST (R170). -/
def execUnknownRequest (s : State) : Host.Outcome State Fault Refusal := act State.serveUnknown s

/-- ATTACH_RING, request kind 1 (R14, R15). -/
def execAttachRing (s : State) : Host.Outcome State Fault Refusal := act (State.serveAs 1 serveAttachRing) s

/-- DETACH_RING, request kind 2 (R16). -/
def execDetachRing (s : State) : Host.Outcome State Fault Refusal := act (State.serveAs 2 serveDetachRing) s

/-- SERVICE_INFO, request kind 3 (R37 to R39). -/
def execServiceInfo (s : State) : Host.Outcome State Fault Refusal := act (State.serveAs 3 serveServiceInfo) s

/-- KEY_INFO, request kind 4 (R57, R58). -/
def execKeyInfo (s : State) : Host.Outcome State Fault Refusal := act (State.serveAs 4 serveKeyInfo) s

/-- SLATE_INFO, request kind 5 (R74). -/
def execSlateInfo (s : State) : Host.Outcome State Fault Refusal := act (State.serveAs 5 serveSlateInfo) s

/-- SET_PIN, request kind 6 (R84). -/
def execSetPin (s : State) : Host.Outcome State Fault Refusal := act (State.serveAs 6 serveSetPin) s

/-- SET_GUEST_CEILING, request kind 7 (R85). -/
def execSetGuestCeiling (s : State) : Host.Outcome State Fault Refusal := act (State.serveAs 7 serveSetGuestCeiling) s

/-- UNLOCK, request kind 8 (R86). -/
def execUnlock (s : State) : Host.Outcome State Fault Refusal := act (State.serveAs 8 serveUnlock) s

/-- LOCK_NOW, request kind 9 (R88). -/
def execLockNow (s : State) : Host.Outcome State Fault Refusal := act (State.serveAs 9 serveLockNow) s

/-- LOCK_INFO, request kind 10 (R89). -/
def execLockInfo (s : State) : Host.Outcome State Fault Refusal := act (State.serveAs 10 serveLockInfo) s

end Sys2Proof.Machine
end

