-- ==== Sys2Proof/Machine/Purchases.lean ====
section
/-! DEFINITION. The requests of the event table, the purchase unit, the bill log and the request unit (R106, R107, R112 to R117,
R124, R128, R146, R175). -/

namespace Sys2Proof.Machine

/-! ### READ_EVENT (R106, R107) -/

/-- The entry with the smallest event ID at or above `n` (R106, mode 1). -/
def EventUnit.nextFrom (u : EventUnit) (n : Nat) : Option EventEntry :=
  (u.entries.filter fun e => decide (n ≤ e.id.toNat)).foldl
    (fun best e => match best with
      | none => some e
      | some b => if e.id.toNat < b.id.toNat then some e else some b) none

/-- The free-look seconds remaining (R107, word 4). -/
def State.freeLookLeft (s : State) (v : EventEntry) : Nat :=
  if s.freeLookOpen v then s.msgs.policy.allowance - v.used else 0

/-- Elapsed seconds and seconds left (R107, word 6). Seconds left that do not fit the field of 32 bits are a free value (log 19). -/
def State.eventTimes (s : State) (v : EventEntry) : Word :=
  match s.events.hotelTime with
  | none => put 0 4 0xFFFFFFFF ||| put 4 4 0xFFFFFFFF
  | some h =>
    let left := v.endTime - h
    put 0 4 (h - v.start) ||| put 4 4 (if left < 4294967296 then left else (Config.secondsLeftBeyond32 left).toNat)

/-- Handle and state of the purchase entry for an event (R107, word 5). -/
def State.purchaseField (s : State) (id : BitVec 32) : Word :=
  match s.purchases.byEvent id with
  | none => 0#64
  | some e => put 0 1 e.handle ||| put 1 1 e.state.code

/-- The six result words of READ_EVENT (R107, R181). -/
def State.eventWords (s : State) (v : EventEntry) : List Word :=
  [put 0 4 v.id.toNat ||| put 4 4 v.title.toNat,
   put 0 2 v.service.toNat ||| put 2 1 v.tag.toNat ||| put 3 1 v.rating ||| put 4 1 (flag v.purchasable)
     ||| put 5 1 (flag v.freeLook) ||| put 6 1 (flag v.seen),
   put 0 4 v.start ||| put 4 4 v.duration,
   put 0 2 v.price ||| put 2 2 v.used ||| put 4 2 (s.freeLookLeft v),
   s.purchaseField v.id,
   s.eventTimes v]

/-- READ_EVENT served (R106, R107). -/
def serveReadEvent (r : Request) (s : State) : State :=
  if 0xFFFFFFFF < r.arg 1 ∨ 1 < r.arg 2 then s.answer r .badArgument []
  else
    match (if r.arg 2 = 0 then s.events.byId (BitVec.ofNat 32 (r.arg 1)) else s.events.nextFrom (r.arg 1)) with
    | none => s.answer r .noEvent []
    | some v => s.answer r .ok (s.eventWords v)

/-! ### The charge (R112, R113) -/

/-- The charge with its intermediate values (R113). -/
structure Charge where
  q       : Nat
  b       : Nat
  a       : Nat
  c       : Nat
  waived  : Bool
  lowered : Bool
  deriving DecidableEq, Repr

/-- The elapsed seconds e (R112). -/
def EventEntry.elapsed (v : EventEntry) (hotel : Nat) : Nat := hotel - v.start

/-- The fraction q in hundredths of a percent (R113, step 2). -/
def chargeFraction (p : Policy) (d e : Nat) : Nat :=
  if e ≤ p.grace then 10000 else max (p.floor * 100) ((d - e) * 10000 / d)

/-- The smallest multiple of r at or above a (R113, step 5). -/
def roundUp (a r : Nat) : Nat := (a + r - 1) / r * r

/-- Steps 2 to 7 of R113. -/
def chargeOf (p : Policy) (titles : List (BitVec 32)) (v : EventEntry) (e : Nat) : Charge :=
  let q := chargeFraction p v.duration e
  let b := (v.price * q + 5000) / 10000
  let a := (b * p.factor + 50) / 100
  let grid := roundUp a p.step
  let waived := titles.contains v.title
  { q := q, b := b, a := a, c := if waived then 0 else min grid p.maximum, waived := waived
    lowered := decide (p.maximum < grid) }

/-! ### QUOTE (R115) -/

/-- Why an event cannot be bought at hotel time `h`: checks 5 to 7 of QUOTE, which are checks 5 to 7 of PURCHASE (R115, R116). -/
def State.saleRefusal (s : State) (v : EventEntry) (h : Nat) : Option AnswerCode :=
  if v.purchasable = false then some .notForSale
  else if v.duration ≤ v.elapsed h then some .eventOver
  else if s.limit v.service < v.rating then some .locked
  else none

/-- QUOTE served (R115). -/
def serveQuote (r : Request) (s : State) : State :=
  if 0xFFFFFFFF < r.arg 1 then s.answer r .badArgument []
  else if s.msgs.room.state = .unbound then s.answer r .wrongState []
  else
    match s.events.hotelTime with
    | none => s.answer r .noTime []
    | some h =>
      match s.events.byId (BitVec.ofNat 32 (r.arg 1)) with
      | none => s.answer r .noEvent []
      | some v =>
        match s.saleRefusal v h with
        | some code => s.answer r code []
        | none =>
          let ch := chargeOf s.msgs.policy s.purchases.titles v (v.elapsed h)
          s.answer r .ok
            [put 0 2 ch.c ||| put 2 1 (flag ch.waived) ||| put 3 1 (flag ch.lowered), single ch.q, single ch.b, single ch.a,
             single (v.elapsed h), single s.headroom]

/-! ### PURCHASE (R109, R116, R117) -/

/-- A handle is in use: an entry holds it or a purchase notice for it is pending (R109). -/
def State.handleInUse (s : State) (h : Nat) : Bool :=
  s.purchases.entries.any (·.handle == h) || s.req.notices.any fun n => noticeHandle n == some h

/-- The handle after `h`, passing from 255 to 1 (R109). -/
def handleAfter (h : Nat) : Nat := if h < 255 then h + 1 else 1

/-- The first handle from `h` on that is not in use, among `fuel` handles; `h` reached at the end otherwise (R109, log 29). -/
def State.firstHandle (s : State) : Nat → Nat → Nat
  | 0, h => h
  | fuel + 1, h => if s.handleInUse h then State.firstHandle s fuel (handleAfter h) else h

/-- The records in the log and the nonzero commits to come (R116, check 10). -/
def State.billsToCome (s : State) : Nat :=
  s.bills.log.length + s.purchases.entries.countP fun e => decide (0 < e.heldCharge)

/-- The entry a PURCHASE takes (R117). -/
def takenEntry (handle : Nat) (v : EventEntry) (c h : Nat) : PurchaseEntry :=
  { handle := handle, event := v.id, title := v.title, state := .held, charge := c, watched := 0, seq := none
    taken := h, origin := .taken, endNoted := false }

/-- A purchase is taken: the entry joins the end of the list, and its handle is given (R109, R117). -/
def State.takePurchase (v : EventEntry) (c h : Nat) (s : State) : State :=
  let handle := s.firstHandle 255 s.purchases.nextHandle
  { s with purchases := { s.purchases with
      entries := s.purchases.entries ++ [takenEntry handle v c h]
      nextHandle := handleAfter handle } }

/-- The answer of a purchase taken, with the commit that begins once it has been issued when the charge or the threshold is 0
(R117). -/
def State.answerPurchase (r : Request) (c handle : Nat) (s : State) : State :=
  let a : Answer := ⟨r.kind, r.tag, .ok, [single handle, single c, single s.headroom]⟩
  let after := if c = 0 ∨ s.msgs.policy.threshold = 0 then some handle else none
  { s with req := { s.req with service := .answering a after } }

/-- Checks 8 to 12 of PURCHASE (R116). -/
def State.purchaseEvent (r : Request) (v : EventEntry) (h : Nat) (s : State) : State :=
  match s.purchases.byEvent v.id with
  | some e => s.answer r .alreadyBought [single e.handle]
  | none =>
    if Config.maxPurchases ≤ s.purchases.entries.length then s.answer r .listFull []
    else if s.store.state = .faulted ∨ Config.maxBills ≤ s.billsToCome then s.answer r .billingUnavailable []
    else
      let ch := chargeOf s.msgs.policy s.purchases.titles v (v.elapsed h)
      if s.msgs.room.cap < s.msgs.room.spent + s.purchases.held + ch.c then
        s.answer r .overCap [single ch.c, single s.headroom]
      else
        (s.takePurchase v ch.c h).answerPurchase r ch.c (s.firstHandle 255 s.purchases.nextHandle)

/-- PURCHASE served (R116, R117). -/
def servePurchase (r : Request) (s : State) : State :=
  if 0xFFFFFFFF < r.arg 1 then s.answer r .badArgument []
  else if s.msgs.room.suspended then s.answer r .suspended []
  else if s.msgs.room.state ≠ .occupied then s.answer r .wrongState []
  else
    match s.events.hotelTime with
    | none => s.answer r .noTime []
    | some h =>
      match s.events.byId (BitVec.ofNat 32 (r.arg 1)) with
      | none => s.answer r .noEvent []
      | some v =>
        match s.saleRefusal v h with
        | some code => s.answer r code []
        | none => s.purchaseEvent r v h

/-! ### CANCEL (R124) -/

/-- CANCEL served (R124). -/
def serveCancel (r : Request) (s : State) : State :=
  if r.arg 1 = 0 ∨ 255 < r.arg 1 then s.answer r .badArgument []
  else
    match s.purchases.byHandle (r.arg 1) with
    | none => s.answer r .notFound []
    | some e =>
      match e.state with
      | .held =>
        let s1 := s.releaseHeld .cancelled e
        s1.answer r .ok [single e.charge, single s1.purchases.held]
      | .committing => s.answer r .tooLate [single e.state.code]
      | .committed => s.answer r .tooLate [single e.state.code]

/-! ### LIST_PURCHASES (R128) -/

/-- One byte per entry of the list, byte 0 for the oldest (R128). -/
def entryBytes (f : PurchaseEntry → Nat) : List PurchaseEntry → Nat
  | [] => 0
  | e :: es => f e + 256 * entryBytes f es

/-- LIST_PURCHASES served (R128). Of an entry without a sequence number, bytes 4 to 7 of word 3 are 0 (log 36). -/
def serveListPurchases (r : Request) (s : State) : State :=
  if 255 < r.arg 1 then s.answer r .badArgument []
  else if r.arg 1 = 0 then
    s.answer r .ok
      [put 0 1 s.purchases.entries.length ||| put 4 4 s.purchases.held,
       single (entryBytes (·.handle) s.purchases.entries),
       single (entryBytes (fun e => e.state.code + 128 * e.origin.code) s.purchases.entries),
       single s.msgs.room.spent, single s.msgs.room.cap, single s.purchases.titles.length]
  else
    match s.purchases.byHandle (r.arg 1) with
    | none => s.answer r .notFound []
    | some e =>
      s.answer r .ok
        [put 0 4 e.event.toNat ||| put 4 4 e.title.toNat,
         put 0 1 e.state.code ||| put 1 1 e.origin.code ||| put 2 1 (flag e.endNoted),
         put 0 2 e.charge ||| put 2 1 (flag e.seq.isSome) ||| put 4 4 (e.seq.getD 0),
         single e.watched, single e.taken,
         single (s.purchases.entries.findIdx (·.handle == e.handle))]

/-! ### BILL_INFO and STATUS (R146, R175) -/

/-- A record is DUE. -/
def LogRecord.isDue (l : LogRecord) : Bool :=
  match l.offer with
  | .due => true
  | .offered _ => false

/-- The lowest sequence number of the log, which is in increasing order, or 0 (R146). -/
def BillLog.lowest (b : BillLog) : Nat :=
  match b.log.head? with
  | some l => l.record.seq
  | none => 0

/-- The highest sequence number of the log, or 0 (R146). -/
def BillLog.highest (b : BillLog) : Nat :=
  match b.log.getLast? with
  | some l => l.record.seq
  | none => 0

/-- BILL_INFO served (R146). -/
def serveBillInfo (r : Request) (s : State) : State :=
  s.answer r .ok
    [put 0 1 s.bills.log.length ||| put 1 1 (s.bills.log.countP LogRecord.isDue)
       ||| put 2 1 (s.bills.log.countP fun l => !l.isDue),
     single s.bills.lowest, single s.bills.highest, single (s.bills.counter.getD 0), single (s.bills.highestOffered.getD 0),
     put 0 1 s.store.state.code ||| put 1 1 s.commitPlaces ||| put 2 1 s.store.queue.length
       ||| put 4 2 s.store.lineLength]

/-- STATUS served (R175). -/
def serveStatus (r : Request) (s : State) : State :=
  s.answer r .ok
    [put 0 1 s.msgs.room.state.code ||| put 1 1 (flag s.msgs.room.suspended)
       ||| put 2 1 (match s.req.bringUp with | some b => b.code | none => 0) ||| put 3 1 s.store.state.code
       ||| put 4 1 s.purchases.entries.length ||| put 5 1 s.bills.log.length ||| put 6 1 s.effectiveCeiling
       ||| put 7 1 s.lock.grants.length,
     put 0 4 (s.events.hotelTime.getD 0) ||| put 4 4 s.events.uptime,
     put 0 4 s.msgs.room.stay ||| put 4 4 s.msgs.room.cap,
     put 0 4 s.msgs.room.spent ||| put 4 4 s.purchases.held,
     put 0 2 s.lockoutRemaining ||| put 2 2 s.msgs.dropped ||| put 4 2 s.slots.allValidTags
       ||| put 6 1 (192 - s.keys.countState .free) ||| put 7 1 (flag s.events.hotelTime.isSome)]

/-! ### Meanings -/

/-- READ_EVENT, request kind 11 (R106, R107). -/
def execReadEvent (s : State) : Host.Outcome State Fault Refusal := act (State.serveAs 11 serveReadEvent) s

/-- QUOTE, request kind 12 (R115). -/
def execQuote (s : State) : Host.Outcome State Fault Refusal := act (State.serveAs 12 serveQuote) s

/-- PURCHASE, request kind 13 (R116, R117). -/
def execPurchase (s : State) : Host.Outcome State Fault Refusal := act (State.serveAs 13 servePurchase) s

/-- CANCEL, request kind 14 (R124). -/
def execCancel (s : State) : Host.Outcome State Fault Refusal := act (State.serveAs 14 serveCancel) s

/-- LIST_PURCHASES, request kind 15 (R128). -/
def execListPurchases (s : State) : Host.Outcome State Fault Refusal := act (State.serveAs 15 serveListPurchases) s

/-- BILL_INFO, request kind 16 (R146). -/
def execBillInfo (s : State) : Host.Outcome State Fault Refusal := act (State.serveAs 16 serveBillInfo) s

/-- STATUS, request kind 17 (R175). -/
def execStatus (s : State) : Host.Outcome State Fault Refusal := act (State.serveAs 17 serveStatus) s

end Sys2Proof.Machine
end

