-- ==== Sys2Proof/Machine/Records.lean ====
section
/-! DEFINITION. The records the part writes: answers, notices and bill notices (R12, R139, R140, R171, R174). -/

namespace Sys2Proof.Machine

/-- The offset of record n mod 16 of a ring that starts at `base` (R7, R8). -/
def recordOffset (base : Nat) (n : BitVec 16) : Nat := base + 64 * (n.toNat % Config.ringRecords)

/-- Own transactions are issued by the request unit (R17). -/
def State.issue (txns : List OwnTxn) (s : State) : State := { s with path := s.path.issue txns }

/-- The answer record and the two index words are issued; request-consume and answer-produce rise; the service is IDLE (R171). -/
def State.issueAnswer (a : Answer) (s : State) : State :=
  let q := s.req
  { s.issue
      [.record (recordOffset 0x400 q.answerProduce) a.words, .index .requestConsume (q.requestConsume + 1),
       .index .answerProduce (q.answerProduce + 1)] with
    req := { q with requestConsume := q.requestConsume + 1, answerProduce := q.answerProduce + 1, service := .idle } }

/-- The commit that follows the issue of a PURCHASE answer (R117, R118). -/
def State.commitAfter (h : Option Nat) (s : State) : State :=
  match h with
  | none => s
  | some h => s.beginCommit .part h

/-- A ready answer is issued once the own-traffic queue has a place (R171). -/
def State.writeAnswer (s : State) : State :=
  match s.req.service with
  | .answering a h => if s.path.canIssue then (s.issueAnswer a).commitAfter h else s
  | .idle => s
  | .fetching => s
  | .waiting _ _ => s

/-- The conditions for writing a notice, but for there being one (R174). -/
def State.canNotice (s : State) : Bool :=
  decide (s.req.startUp = .running) && decide (s.req.service = .idle) && s.req.answerFree && s.path.canIssue

/-- The first pending notice is written: its record and index word 4 issued; answer-produce rises; the flag leaves (R174). -/
def State.writeNotice (s : State) : State :=
  match s.req.notices with
  | [] => s
  | n :: rest =>
    if s.canNotice then
      let q := s.req
      { s.issue [.record (recordOffset 0x400 q.answerProduce) (n.words s.msgs.room),
                 .index .answerProduce (q.answerProduce + 1)] with
        req := { q with answerProduce := q.answerProduce + 1, notices := rest } }
    else s

/-- The DUE record with the lowest sequence number, the log being in increasing order (R139). -/
def BillLog.firstDue (b : BillLog) : Option LogRecord := b.log.find? LogRecord.isDue

/-- The record of a sequence number becomes OFFERED, and the highest sequence offered rises to it (R139). -/
def BillLog.markOffered (b : BillLog) (seq uptime : Nat) : BillLog :=
  { b with
    log := b.log.map fun l => if l.record.seq == seq then { l with offer := .offered uptime, offeredBefore := true } else l
    highestOffered := some (match b.highestOffered with | none => seq | some h => max h seq) }

/-- A bill notice is written: its record and index word 5 issued; bill-produce rises (R139, R140). -/
def State.issueBill (b : Binding) (l : LogRecord) (s : State) : State :=
  let q := s.req
  { s.issue [.record (recordOffset 0x800 q.billProduce) (billNoticeWords l.offeredBefore b l.record),
             .index .billProduce (q.billProduce + 1)] with
    req := { q with billProduce := q.billProduce + 1 }
    bills := s.bills.markOffered l.record.seq s.events.uptime }

/-- The conditions for offering a bill notice, but for a DUE record (R139): start-up has ended, its START notice has been written, so
that the attention line is first asserted by the index write behind that notice (R19, R177), the room is bound and the bill ring has
a free record. -/
def State.canBill (s : State) : Bool :=
  decide (s.req.startUp = .running) && !s.req.notices.any Notice.isStart && decide (s.msgs.room.state ≠ .unbound) && s.req.billFree
    && s.path.canIssue

/-- The lowest DUE record is offered when a bill notice can be (R139). -/
def State.writeBill (s : State) : State :=
  match s.msgs.room.binding, s.bills.firstDue with
  | some b, some l => if s.canBill then s.issueBill b l else s
  | _, _ => s

/-! ### Meanings -/

/-- ANSWER_RECORD_WRITE (R171). -/
def execAnswerRecordWrite (s : State) : Host.Outcome State Fault Refusal := act State.writeAnswer s

/-- NOTICE_WRITE (R174). -/
def execNoticeWrite (s : State) : Host.Outcome State Fault Refusal := act State.writeNotice s

/-- BILL_NOTICE_WRITE (R139). -/
def execBillNoticeWrite (s : State) : Host.Outcome State Fault Refusal := act State.writeBill s

end Sys2Proof.Machine
end

