-- ==== Sys2Proof/Machine/Messages.lean ====
section
/-! DEFINITION. The message at the head of the intake queue: its checks, its application kind by kind, and its leaving (R33 to
R36, R41 to R43, R71, R72, R90, R95, R100 to R104, R142, R143, R148 to R166). -/

namespace Sys2Proof.Machine

/-! ### The checks (R149 to R153) -/

/-- The address block matches the device and the room (R150). -/
def MessageUnit.addressMatches (u : MessageUnit) (m : Message) : AddressKind → Bool
  | .device => match u.identity with | some d => d.serial == m.deviceSerial | none => false
  | .room => match u.room.binding with | some b => b.room == m.address16 | none => false
  | .group => match u.room.binding with | some b => b.groups &&& m.address16 != 0#16 | none => false
  | .all => true

/-- The key a message is verified under (R151). -/
def MessageUnit.keyFor (u : MessageUnit) : AddressKind → Option Key128
  | .device => u.identity.map (·.key)
  | .room => u.room.binding.map (·.roomKey)
  | .group => u.room.binding.map (·.hotelKey)
  | .all => u.room.binding.map (·.hotelKey)

/-- A message verifies under a key (R151). -/
def Message.verifies (m : Message) (k : Key128) : Bool := tagOver k m.taggedWords == m.tag

/-- The serial check of a kind's scope (R152, R153). -/
def Serials.accepts (l : Serials) (k : MsgKind) (serial : Nat) : Bool :=
  match k.scope with
  | .device => decide (l.device < serial)
  | .room => decide (l.room < serial) || (k == .unbind && l.room == 4294967295 && serial == 4294967295)
  | .broadcast => true

/-- The kind of a message that passes every check (R149 to R153). -/
def MessageUnit.check (u : MessageUnit) (m : Message) : Option MsgKind :=
  match m.addressKind, m.kind with
  | some a, some k =>
    match u.keyFor a with
    | none => none
    | some key =>
      if m.bodyLength ≤ 12 ∧ u.addressMatches m a = true ∧ m.verifies key = true ∧ a.carries k.scope = true
          ∧ u.serials.accepts k m.serial = true then some k
      else none
  | _, _ => none

/-! ### Binding (R155, R156, R164) -/

/-- A key whose halves are two key parts of a body, decrypted under `k1`, the parts' numbers being their index values (R42). -/
def Message.keyParts (m : Message) (k1 : Word) (bodyWord part : Nat) : Key128 :=
  { k1 := decryptPart k1 part (m.word 1) (m.body bodyWord)
    k2 := decryptPart k1 (part + 1) (m.word 1) (m.body (bodyWord + 1)) }

/-- The binding a BIND carries (R155). -/
def Message.binding (m : Message) (device : Key128) : Binding :=
  { room := BitVec.ofNat 16 (bytesAt (m.body 0) 0 2), groups := BitVec.ofNat 16 (bytesAt (m.body 0) 2 2)
    roomKey := m.keyParts device.k1 1 0, hotelKey := m.keyParts device.k1 3 2 }

/-- The room after a BIND (R155). The room tier mask stays as it stood: BIND is not taken as the entry to VACANT on which R163 empties
it (log 34). -/
def Room.bound (r : Room) (b : Binding) : Room :=
  { r with binding := some b, state := .vacant, suspended := false, cap := 0, spent := 0 }

/-- BIND applied: in UNBOUND only (R155). -/
def applyBind (m : Message) (s : State) : State :=
  match s.msgs.room.state, s.msgs.identity with
  | .unbound, some d =>
    let b := m.binding d.key
    let s1 := { s.clearLock with
      msgs := { s.msgs with room := s.msgs.room.bound b, policy := Policy.defaults } }
    (((s1.offer .head (.binding (some b))).offer .head (.policy (some Policy.defaults))).offerRoom .head).raise .room
  | _, _ => s

/-- An UNBIND is applied: in VACANT with the bill log empty (R156). -/
def State.unbinds (s : State) : Bool := decide (s.msgs.room.state = .vacant) && s.bills.log.isEmpty

/-- The room after an UNBIND (R156); the room tier mask stays as it stood (log 34). -/
def Room.unbound (r : Room) : Room := { r with binding := none, state := .unbound, suspended := false }

/-- UNBIND applied (R156). Its SERIALS write, offered before, carries room scope 0 already. -/
def applyUnbind (s : State) : State :=
  if s.unbinds then
    let s1 := { s.clearLock with
      msgs := { s.msgs with room := s.msgs.room.unbound, policy := Policy.defaults }
      purchases := { s.purchases with titles := [] } }
    ((((s1.offer .head (.binding none)).offer .head (.policy none)).offer .head (.titles none)).offerRoom .head).raise .room
  else s

/-- HOTEL_KEY applied: in any bound state (R164). -/
def applyHotelKey (m : Message) (s : State) : State :=
  match s.msgs.room.state, s.msgs.room.binding with
  | .unbound, _ => s
  | _, none => s
  | _, some b =>
    let b' := { b with hotelKey := m.keyParts b.roomKey.k1 0 0 }
    { s with msgs := { s.msgs with room := { s.msgs.room with binding := some b' } } }.offer .head (.binding (some b'))

/-! ### Stays (R157, R158, R161 to R163, R90) -/

/-- The room after a CHECK_IN (R157). -/
def Room.checkedIn (r : Room) (cap : Nat) (tiers : BitVec 32) : Room :=
  { r with stay := if r.stay < 4294967295 then r.stay + 1 else r.stay, cap := cap, spent := 0, tiers := tiers, state := .occupied }

/-- CHECK_IN applied: in VACANT only (R157, R91). -/
def applyCheckIn (m : Message) (s : State) : State :=
  match s.msgs.room.state with
  | .vacant =>
    let cap := min (bytesAt (m.body 0) 0 4) Config.maxCap
    let tiers := BitVec.ofNat 32 (bytesAt (m.body 1) 0 4)
    let s1 := { s with
      msgs := { s.msgs with room := s.msgs.room.checkedIn cap tiers }
      lock := { LockUnit.cleared with guestCeiling := min (bytesAt (m.body 0) 4 1) 7 } }
    (s1.offerRoom .head).raise .room
  | .unbound => s
  | .occupied => s
  | .checkout => s

/-- The HELD entries leave in list order with reason CHECKOUT (R126). -/
def State.releaseAllHeld (s : State) : State :=
  (s.purchases.entries.filter (·.state == .held)).foldl (fun s e => s.releaseHeld .checkout e) s

/-- The room's state and checkout expiry changed. -/
def State.setRoomState (st : RoomState) (s : State) : State :=
  { s with msgs := { s.msgs with room := { s.msgs.room with state := st } } }

/-- The checkout timer started from now (R158, R167). -/
def State.startCheckoutTimer (s : State) : State :=
  { s with msgs := { s.msgs with room := { s.msgs.room with
      checkout := some ⟨s.events.uptime + s.msgs.policy.checkoutTimeout, false⟩ } } }

/-- CHECK_OUT applied: in OCCUPIED only (R158). -/
def applyCheckOut (s : State) : State :=
  match s.msgs.room.state with
  | .occupied =>
    (((((s.setRoomState .checkout).offerRoom .head).releaseAllHeld).startCheckoutTimer).raise .room).testDrain .head
  | .unbound => s
  | .vacant => s
  | .checkout => s

/-- SET_CAP applied: in OCCUPIED and CHECKOUT (R162). -/
def applySetCap (m : Message) (s : State) : State :=
  if s.msgs.room.state = .occupied ∨ s.msgs.room.state = .checkout then
    let cap := max (min (bytesAt (m.body 0) 0 4) Config.maxCap) (s.msgs.room.spent + s.purchases.held)
    { s with msgs := { s.msgs with room := { s.msgs.room with cap := cap } } }.offerRoom .head
  else s

/-- ENTITLE applied: in any bound state (R163). -/
def applyEntitle (m : Message) (s : State) : State :=
  if s.msgs.room.state = .unbound then s
  else { s with msgs := { s.msgs with room := { s.msgs.room with tiers := BitVec.ofNat 32 (bytesAt (m.body 0) 0 4) } } }

/-- The suspended flag given a value: a change is written and noticed (R161). -/
def State.setSuspended (v : Bool) (s : State) : State :=
  if s.msgs.room.state = .unbound ∨ s.msgs.room.suspended = v then s
  else
    (({ s with msgs := { s.msgs with room := { s.msgs.room with suspended := v } } }.offerRoom .head)).raise .room

/-- CLEAR_PIN applied: in any bound state (R90). -/
def applyClearPin (s : State) : State :=
  if s.msgs.room.state = .unbound then s
  else { s with lock := { s.lock with pin := none, failures := 0, lockout := none, grants := [] } }.offerRoom .head

/-! ### Policy (R165, R166) -/

/-- A value clamped to a range. -/
def clamp (lo hi n : Nat) : Nat := if n < lo then lo else if hi < n then hi else n

/-- The rounding step nearest to a value, the smaller at a tie (R165). -/
def clampStep (n : Nat) : Nat :=
  if n ≤ 3 then 1
  else if n ≤ 7 then 5
  else if n ≤ 17 then 10
  else if n ≤ 37 then 25
  else if n ≤ 75 then 50
  else 100

/-- The policy record a POLICY message carries, clamped (R165, R180). -/
def Message.policy (m : Message) : Policy :=
  { hotelCeiling := clamp 0 7 (bytesAt (m.body 0) 0 1)
    floor := clamp 0 100 (bytesAt (m.body 0) 1 1)
    threshold := clamp 0 1800 (bytesAt (m.body 0) 2 2)
    allowance := clamp 0 600 (bytesAt (m.body 0) 4 2)
    grace := clamp 0 1800 (bytesAt (m.body 0) 6 2)
    factor := clamp 0 250 (bytesAt (m.body 1) 0 2)
    step := clampStep (bytesAt (m.body 1) 2 2)
    maximum := clamp 0 65535 (bytesAt (m.body 1) 4 4)
    resendInterval := clamp 30 3600 (bytesAt (m.body 2) 0 2)
    checkoutTimeout := clamp 60 7200 (bytesAt (m.body 2) 2 2)
    lockoutBase := clamp 15 300 (bytesAt (m.body 2) 4 2)
    readers := BitVec.ofNat 16 (bytesAt (m.body 2) 6 2)
    vacantTiers := BitVec.ofNat 32 (bytesAt (m.body 3) 0 4) }

/-- The commits of the HELD entries at or above the threshold begin, in list order (R118, R166). -/
def State.commitWatched (s : State) : State :=
  ((s.purchases.entries.filter fun e => e.state == .held && decide (s.msgs.policy.threshold ≤ e.watched)).map (·.handle)).foldl
    (fun s h => s.beginCommit .head h) s

/-- POLICY applied: in any bound state (R166). -/
def applyPolicy (m : Message) (s : State) : State :=
  if s.msgs.room.state = .unbound then s
  else
    ({ s with msgs := { s.msgs with policy := m.policy } }.offer .head (.policy (some m.policy))).commitWatched

/-! ### BILL_ACK (R142, R143) -/

/-- The writes for an acknowledged record: rewritten acknowledged while a COMMITTED entry carries it, its place freed otherwise
(R143). -/
def State.ackWrite (s : State) (l : LogRecord) : State :=
  match s.store.placeOf l.record.seq with
  | none => s
  | some i =>
    if s.purchases.entries.any (fun e => e.state == .committed && e.seq == some l.record.seq) then
      s.offer .head (.commit i (some { l.record with acked := true }))
    else s.offer .head (.commit i none)

/-- The records at or below N leave the log, with their writes behind a ROOM write (R142, R143). -/
def State.ackUpTo (n : Nat) (s : State) : State :=
  let removed := s.bills.log.filter fun l => decide (l.record.seq ≤ n)
  let s1 := { s with bills := { s.bills with log := s.bills.log.filter fun l => decide (n < l.record.seq) } }
  match removed with
  | [] => s1
  | _ :: _ => removed.foldl (fun s l => s.ackWrite l) (s1.offerRoom .head)

/-- BILL_ACK applied: in any bound state; with the highest sequence offered at least N it acknowledges; then the drain is
tested (R142, R159). -/
def applyBillAck (m : Message) (s : State) : State :=
  let n := bytesAt (m.body 0) 0 4
  if s.msgs.room.state = .unbound then s
  else
    match s.bills.highestOffered with
    | none => s.testDrain .head
    | some h => if n ≤ h then (s.ackUpTo n).testDrain .head else s.testDrain .head

/-! ### KEY (R41 to R43) -/

/-- Key entry j of a KEY message under the hotel key's first half: dropped when its key set or phase is out of range, otherwise
decrypted and announced (R41 to R43). -/
def applyKeyEntry (m : Message) (k1 : Word) (s : State) (j : Nat) : State :=
  let set := bytesAt (m.body (1 + 2 * j)) 0 1
  let phase := bytesAt (m.body (1 + 2 * j)) 1 1
  if h : set < 64 then
    let key := decryptPart k1 (set * 256 + phase * 16 + j) (m.word 1) (m.body (2 + 2 * j))
    if phase = 0 then s.announceKey ⟨set, h⟩ .p0 key
    else if phase = 1 then s.announceKey ⟨set, h⟩ .p1 key
    else s
  else s

/-- KEY applied (R41). -/
def applyKey (m : Message) (s : State) : State :=
  match s.msgs.room.binding with
  | none => s
  | some b =>
    let n := bytesAt (m.body 0) 0 1
    if n ≤ 4 then (List.range n).foldl (applyKeyEntry m b.hotelKey.k1) s else s

/-! ### SERVICE_MAP (R33 to R36) -/

/-- Class codes (R180). -/
def classOf : Nat → Option ServiceClass
  | 0 => some .free
  | 1 => some .tier
  | 2 => some .pay
  | _ => none

/-- The entry a map entry creates, `none` when a field is out of range (R33, R35). -/
def mapEntryOf (w : Word) : Option ServiceEntry :=
  match classOf (bytesAt w 3 1) with
  | none => none
  | some cls =>
    if h : bytesAt w 5 1 < 64 then
      if bytesAt w 0 2 ≤ 4095 ∧ bytesAt w 4 1 ≤ 31 ∧ bytesAt w 6 1 ≤ 7 then
        some { service := BitVec.ofNat 12 (bytesAt w 0 2), cls := cls, tier := bytesAt w 4 1, keySet := ⟨bytesAt w 5 1, h⟩
               rating := bytesAt w 6 1, expected := none, discontinuities := 0 }
      else none
    else none

/-- A map entry with withdraw clear replaces the service's fields and keeps its counters, or creates the service when the
table has room (R34, R35). -/
def SlotTable.mapIn (t : SlotTable) (e : ServiceEntry) : SlotTable :=
  match t.service e.service with
  | some _ => t.mapService e.service fun old => { e with expected := old.expected, discontinuities := old.discontinuities }
  | none => if t.services.length < Config.maxServices then { t with services := t.services ++ [e] } else t

/-- A map entry with withdraw set removes the service with its counters; a number above 4095 names none (R36). -/
def SlotTable.withdraw (t : SlotTable) (n : Nat) : SlotTable :=
  { t with services := t.services.filter fun e => e.service.toNat != n }

/-- One map entry (R33). -/
def SlotTable.applyMapEntry (t : SlotTable) (w : Word) : SlotTable :=
  if w.getLsbD 16 then t.withdraw (bytesAt w 0 2)
  else
    match mapEntryOf w with
    | none => t
    | some e => t.mapIn e

/-- SERVICE_MAP applied (R33). -/
def applyServiceMap (m : Message) (s : State) : State :=
  let n := bytesAt (m.body 0) 0 1
  if n ≤ 8 then { s with slots := (List.range n).foldl (fun t j => t.applyMapEntry (m.body (1 + j))) s.slots } else s

/-! ### EVENT (R100 to R104) -/

/-- Announcement j of an EVENT message, clamped; `none` when it is dropped (R100). -/
def Message.announcement (m : Message) (j : Nat) : Option EventEntry :=
  let w1 := m.body (1 + 3 * j)
  let w2 := m.body (2 + 3 * j)
  let w3 := m.body (3 + 3 * j)
  if bytesAt w3 0 2 ≤ 4095 ∧ bytesAt w3 3 1 ≤ 7 ∧ bytesAt w3 6 1 ≤ 1 ∧ bytesAt w3 7 1 ≤ 1 then
    some { id := BitVec.ofNat 32 (bytesAt w1 0 4), title := BitVec.ofNat 32 (bytesAt w1 4 4)
           service := BitVec.ofNat 12 (bytesAt w3 0 2), tag := BitVec.ofNat 8 (bytesAt w3 2 1)
           start := bytesAt w2 0 4, duration := clamp Config.minDuration Config.maxDuration (bytesAt w2 4 4)
           price := min (bytesAt w3 4 2) Config.maxPrice, rating := bytesAt w3 3 1
           purchasable := bytesAt w3 6 1 == 1, freeLook := bytesAt w3 7 1 == 1, used := 0, seen := false }
  else none

/-- An entry takes an announcement's fields and keeps its free-look seconds and seen mark (R101). -/
def EventEntry.update (old a : EventEntry) : EventEntry := { a with used := old.used, seen := old.seen }

/-- The entry of an announcement's ID updated (R101). -/
def State.updateEvent (a : EventEntry) (s : State) : State := { s with events := s.events.mapId a.id fun e => e.update a }

/-- An entry other than `id` that holds a pair of service number and event tag. -/
def EventUnit.otherByTag (u : EventUnit) (id : BitVec 32) (svc : BitVec 12) (tag : BitVec 8) : Option EventEntry :=
  u.entries.find? fun e => e.service == svc && e.tag == tag && e.id != id

/-- An event entry removed from the table. -/
def State.removeEvent (id : BitVec 32) (s : State) : State := { s with events := s.events.remove id }

/-- An announcement of a known event ID (R101). -/
def State.announceKnown (a : EventEntry) (s : State) : State :=
  match s.events.otherByTag a.id a.service a.tag with
  | none => s.updateEvent a
  | some o =>
    if s.isProtected o = false then (s.removeEvent o.id).updateEvent a
    else if s.events.hasEnded o then (s.endEvent .head o.id).updateEvent a
    else s

/-- An announcement takes the place of entry `o`, in the table's order, with free-look seconds 0 and the mark clear (R103, R104). -/
def State.replaceEvent (o : BitVec 32) (a : EventEntry) (s : State) : State :=
  { s with events := s.events.mapId o fun _ => a }

/-- An announcement of a new event ID whose pair entry `o` holds (R103). -/
def State.announceReuse (o a : EventEntry) (s : State) : State :=
  if s.isProtected o = false then s.replaceEvent o.id a
  else if s.events.hasEnded o then (s.endPurchase .head o.id).replaceEvent o.id a
  else s

/-- Entry `e` is displaced rather than `b`: its start is later, or as late with a smaller event ID (R104). -/
def displacedBefore (e b : EventEntry) : Bool :=
  decide (b.start < e.start) || (decide (b.start = e.start) && decide (e.id.toNat < b.id.toNat))

/-- The unprotected entry with the latest start, the smallest ID among equals (R104). -/
def State.displaced (s : State) : Option EventEntry :=
  (s.events.entries.filter fun e => !s.isProtected e).foldl
    (fun best e => match best with
      | none => some e
      | some b => if displacedBefore e b then some e else some b) none

/-- An announcement of a new event ID with a new pair (R104). -/
def State.announceNew (a : EventEntry) (s : State) : State :=
  if s.events.entries.length < Config.maxEvents then
    { s with events := { s.events with entries := s.events.entries ++ [a] } }
  else
    match s.displaced with
    | none => s
    | some o => s.replaceEvent o.id a

/-- An announcement disposed of by the first of R101 to R104 that applies. -/
def State.announce (a : EventEntry) (s : State) : State :=
  match s.events.byId a.id with
  | some _ => s.announceKnown a
  | none =>
    if s.events.hasEnded a then s.endPurchase .head a.id
    else
      match s.events.byTag a.service a.tag with
      | some o => s.announceReuse o a
      | none => s.announceNew a

/-- EVENT applied (R100). -/
def applyEvent (m : Message) (s : State) : State :=
  let n := bytesAt (m.body 0) 0 1
  if n ≤ 2 then
    (List.range n).foldl (fun s j => match m.announcement j with | none => s | some a => s.announce a) s
  else s

/-! ### TIME and SLATE (R71, R72, R95) -/

/-- TIME applied (R95). -/
def applyTime (m : Message) (s : State) : State :=
  let v := bytesAt (m.body 0) 0 4
  { s with events := { s.events with
      hotelTime := match s.events.hotelTime with
        | none => some v
        | some h => if h < v then some v else some h } }

/-- A staging with half h set (R72). -/
def Staging.setHalf (g : Staging) (h : Nat) (b : BitVec 480) : Staging :=
  if h = 0 then { g with half0 := some b } else { g with half1 := some b }

/-- A slate's staging after half h of load n (R72). -/
def Slate.stage (x : Slate) (h : Nat) (n : BitVec 8) (b : BitVec 480) : Staging :=
  match x.staging with
  | some g => if g.load = n then g.setHalf h b else Staging.setHalf ⟨n, none, none⟩ h b
  | none => Staging.setHalf ⟨n, none, none⟩ h b

/-- A slate after half h of load n: staged, and completed when both halves are present (R72). -/
def Slate.load (x : Slate) (h : Nat) (n : BitVec 8) (b : BitVec 480) : Slate :=
  let g := x.stage h n b
  { staging := some g
    inUse := match g.half0, g.half1 with
      | some b0, some b1 => some ⟨n, b1 ++ b0⟩
      | _, _ => x.inUse }

/-- SLATE applied (R71, R72). -/
def applySlate (m : Message) (s : State) : State :=
  let i := bytesAt (m.body 0) 0 1
  let half := bytesAt (m.body 0) 1 1
  let n := BitVec.ofNat 8 (bytesAt (m.body 0) 2 1)
  if h : 1 ≤ i ∧ i ≤ 7 ∧ half ≤ 1 then
    have hi : i - 1 < 7 := by omega
    { s with slates := { s.slates with
        slates := s.slates.slates.set (i - 1) ((s.slates.slates[i - 1]).load half n m.slateBytes) hi } }
  else s

/-! ### The head message (R148, R153) -/

/-- A kind applied. -/
def applyKind (k : MsgKind) (m : Message) (s : State) : State :=
  match k with
  | .bind => applyBind m s
  | .unbind => applyUnbind s
  | .checkIn => applyCheckIn m s
  | .checkOut => applyCheckOut s
  | .setCap => applySetCap m s
  | .entitle => applyEntitle m s
  | .policy => applyPolicy m s
  | .billAck => applyBillAck m s
  | .suspend => s.setSuspended true
  | .resume => s.setSuspended false
  | .hotelKey => applyHotelKey m s
  | .clearPin => applyClearPin s
  | .key => applyKey m s
  | .serviceMap => applyServiceMap m s
  | .event => applyEvent m s
  | .time => applyTime m s
  | .slate => applySlate m s

/-- The last serials once a message's serial is consumed; an UNBIND that is applied sets the room scope's back to 0 (R153,
R156). -/
def State.serialsAfter (k : MsgKind) (serial : Nat) (s : State) : Serials :=
  match k.scope with
  | .device => { s.msgs.serials with device := serial }
  | .room => { s.msgs.serials with room := if k = .unbind ∧ s.unbinds = true then 0 else serial }
  | .broadcast => s.msgs.serials

/-- A device-scope or room-scope message's serial is consumed and the SERIALS write offered (R153). -/
def State.consumeSerial (k : MsgKind) (serial : Nat) (s : State) : State :=
  match k.scope with
  | .broadcast => s
  | _ =>
    let l := s.serialsAfter k serial
    { s with msgs := { s.msgs with serials := l } }.offer .head (.serials (some l))

/-- The head message has been applied: it leaves once its last write has joined the store queue (R148). -/
def State.leaveOrWait (s : State) : State :=
  if s.store.line.any (·.any (·.heads)) then { s with msgs := { s.msgs with headApplied := true } }
  else { s with msgs := s.msgs.dropHead }

/-- A message that passes its checks is applied (R148, R153). -/
def State.applyHead (k : MsgKind) (m : Message) (s : State) : State :=
  (applyKind k m (s.consumeSerial k m.serial)).leaveOrWait

/-- The message at the head that has not been dealt with. -/
def MessageUnit.headMessage (u : MessageUnit) : Option Message := if u.headApplied then none else u.intake.head?

/-- The head message is dealt with: dropped when it fails a check, applied when it passes (R148). -/
def State.dealHead (s : State) : State :=
  match s.msgs.headMessage with
  | none => s
  | some m =>
    match s.msgs.check m with
    | none => { s with msgs := s.msgs.dropHead }
    | some k => s.applyHead k m

/-- The head message is applied when it passes its checks and is of kind `k` (R148; log 11). -/
def State.dealHeadAs (k : MsgKind) (s : State) : State :=
  match s.msgs.headMessage with
  | none => s
  | some m => if s.msgs.check m = some k then s.applyHead k m else s

/-! ### Meanings -/

/-- MESSAGE_AT_HEAD (R148 to R153). -/
def execMessageAtHead (s : State) : Host.Outcome State Fault Refusal := act State.dealHead s

/-- BIND (R155). -/
def execBind (s : State) : Host.Outcome State Fault Refusal := act (State.dealHeadAs .bind) s

/-- UNBIND (R156). -/
def execUnbind (s : State) : Host.Outcome State Fault Refusal := act (State.dealHeadAs .unbind) s

/-- CHECK_IN (R157). -/
def execCheckIn (s : State) : Host.Outcome State Fault Refusal := act (State.dealHeadAs .checkIn) s

/-- CHECK_OUT (R158). -/
def execCheckOut (s : State) : Host.Outcome State Fault Refusal := act (State.dealHeadAs .checkOut) s

/-- SET_CAP (R162). -/
def execSetCap (s : State) : Host.Outcome State Fault Refusal := act (State.dealHeadAs .setCap) s

/-- ENTITLE (R163). -/
def execEntitle (s : State) : Host.Outcome State Fault Refusal := act (State.dealHeadAs .entitle) s

/-- POLICY (R166). -/
def execPolicy (s : State) : Host.Outcome State Fault Refusal := act (State.dealHeadAs .policy) s

/-- BILL_ACK (R142). -/
def execBillAck (s : State) : Host.Outcome State Fault Refusal := act (State.dealHeadAs .billAck) s

/-- SUSPEND (R161). -/
def execSuspend (s : State) : Host.Outcome State Fault Refusal := act (State.dealHeadAs .suspend) s

/-- RESUME (R161). -/
def execResume (s : State) : Host.Outcome State Fault Refusal := act (State.dealHeadAs .resume) s

/-- HOTEL_KEY (R164). -/
def execHotelKey (s : State) : Host.Outcome State Fault Refusal := act (State.dealHeadAs .hotelKey) s

/-- CLEAR_PIN (R90). -/
def execClearPin (s : State) : Host.Outcome State Fault Refusal := act (State.dealHeadAs .clearPin) s

/-- KEY (R41 to R43). -/
def execKey (s : State) : Host.Outcome State Fault Refusal := act (State.dealHeadAs .key) s

/-- SERVICE_MAP (R33). -/
def execServiceMap (s : State) : Host.Outcome State Fault Refusal := act (State.dealHeadAs .serviceMap) s

/-- EVENT (R100). -/
def execEvent (s : State) : Host.Outcome State Fault Refusal := act (State.dealHeadAs .event) s

/-- TIME (R95). -/
def execTime (s : State) : Host.Outcome State Fault Refusal := act (State.dealHeadAs .time) s

/-- SLATE (R71, R72). -/
def execSlate (s : State) : Host.Outcome State Fault Refusal := act (State.dealHeadAs .slate) s

end Sys2Proof.Machine
end

