-- ==== Sys2Proof/Machine/StartUp.lean ====
section
/-! DEFINITION. Reset, the start-up scan, the end of start-up, and the completion of store writes (R20, R83, R129, R132 to R137,
R144, R145, R167, R176 to R178). -/

namespace Sys2Proof.Machine

/-! ### Reset (R176) -/

/-- The memory at a reset: of a write under way, the bytes memory had performed stand (R20). -/
def State.memAtReset (performed : BitVec 128) (s : State) : Memory :=
  match s.path.underWay with
  | none => s.mem
  | some g => s.mem.performPart s.path.anchorBase performed g

/-- The part takes its reset: every block its reset values, the straps sampled; the places of the store keep their contents (R7,
R20, R131, R132, R176). -/
def State.takeReset (straps : BitVec 4) (performed : BitVec 128) (s : State) : State :=
  { State.reset with
    pending := s.pending
    mem := s.memAtReset performed
    path := { PathUnit.reset with straps := straps }
    store := { State.reset.store with places := s.store.places } }

/-! ### The scan (R144, R145) -/

/-- A place whose content passes its check hands its record over; a failed place is handed over as empty (R144). -/
def Place.found {α : Type} : Place α → Option α
  | .holds r => some r
  | .empty => none
  | .damaged => none

/-- A place fails its check. -/
def Place.failed {α : Type} : Place α → Bool
  | .damaged => true
  | .empty => false
  | .holds _ => false

/-- A place that the scan finds failing, or as it was. A place found failing keeps failing at later scans until it is written
(log 35). -/
def Place.scan {α : Type} (fails : Bool) (p : Place α) : Place α := if fails then .damaged else p

/-- The places as the scan finds them: those marked fail their check (log 14), and go on failing it until they are written (log 35). -/
def Places.scan (failed : BitVec 54) (p : Places) : Places :=
  { identity := p.identity.scan (failed.getLsbD 0), binding := p.binding.scan (failed.getLsbD 1)
    room := p.room.scan (failed.getLsbD 2), policy := p.policy.scan (failed.getLsbD 3)
    serials := p.serials.scan (failed.getLsbD 4), titles := p.titles.scan (failed.getLsbD 5)
    commits := Vector.ofFn fun i => p.commits[i].scan (failed.getLsbD (6 + i.val)) }

/-- What the owners take from the scan. -/
def Places.recovered (p : Places) : Scanned :=
  { identity := p.identity.found, binding := p.binding.found, room := p.room.found, policy := p.policy.found
    serials := p.serials.found, titles := p.titles.found, commits := p.commits.toList.filterMap Place.found }

/-- What the owners take when the store cannot be read: every place is treated as empty (R144). -/
def Scanned.nothing : Scanned :=
  { identity := none, binding := none, room := none, policy := none, serials := none, titles := none, commits := [] }

/-- Some place failed its check. -/
def Places.anyFailed (p : Places) : Bool :=
  p.identity.failed || p.binding.failed || p.room.failed || p.policy.failed || p.serials.failed || p.titles.failed
    || p.commits.toList.any Place.failed

/-- The bring-up code of a scan that read every place (R144). -/
def Places.bringUp (p : Places) : BringUp :=
  if p.identity.found.isNone then .identityFault else if p.anyFailed then .storeRecovered else .good

/-- A record put into its place in increasing sequence order. -/
def insertBySeq (r : CommitRecord) : List CommitRecord → List CommitRecord
  | [] => [r]
  | x :: xs => if r.seq ≤ x.seq then r :: x :: xs else x :: insertBySeq r xs

/-- Records in increasing sequence order. -/
def sortBySeq : List CommitRecord → List CommitRecord
  | [] => []
  | r :: rs => insertBySeq r (sortBySeq rs)

/-- The highest of a list of numbers, 0 for none. -/
def highestOf (l : List Nat) : Nat := l.foldl max 0

/-- The counter at the scan's completion (R145, step 1). -/
def Scanned.counter (x : Scanned) : Nat :=
  min Config.lastCounter
    (max (match x.room with | some r => r.reserve | none => 1) (highestOf (x.commits.map (·.seq)) + 1))

/-- The log at the scan's completion (R145, step 2). -/
def Scanned.log (x : Scanned) : List LogRecord :=
  (sortBySeq (x.commits.filter fun r => !r.acked)).map fun r => { record := r, offer := .due, offeredBefore := true }

/-- The ROOM record of start-up's ROOM write (R145, step 3). -/
def Scanned.roomWrite (x : Scanned) : RoomRecord :=
  let reserve := x.counter + Config.reserveMargin
  match x.room with
  | some r => { r with reserve := reserve }
  | none =>
    { state := .unbound, suspended := false, stay := highestOf (x.commits.map (·.stay)), cap := 0, spent := 0
      guestCeiling := 7, pin := none, failures := 0, reserve := reserve }

/-- The empty writes of start-up, one for each failed place but IDENTITY, a failed ROOM place among them, in the order of the places
(R145, step 3; log 15). -/
def Places.emptyWrites (p : Places) : List StoreWrite :=
  (if p.binding.failed then [.binding none] else []) ++ (if p.room.failed then [.room none] else [])
    ++ (if p.policy.failed then [.policy none] else []) ++ (if p.serials.failed then [.serials none] else []) ++ (if p.titles.failed then [.titles none] else [])
    ++ (List.finRange 48).filterMap fun i => if p.commits[i].failed then some (.commit i none) else none

/-! ### The end of start-up (R83, R129, R167, R177) -/

/-- IDENTITY was read sound. -/
def Scanned.identified (x : Scanned) : Bool := x.identity.isSome

/-- The room state at the end of start-up (R167). -/
def Scanned.roomState (x : Scanned) : RoomState :=
  match x.identity, x.binding with
  | some _, some _ =>
    match x.room with
    | none => .vacant
    | some r =>
      match r.state with
      | .unbound => .vacant
      | .vacant => .vacant
      | .occupied => .occupied
      | .checkout => .checkout
  | _, _ => .unbound

/-- A stay is under way in a room state: the stay's items are taken from the ROOM record (R75, R167). -/
def RoomState.inStay : RoomState → Bool
  | .occupied => true
  | .checkout => true
  | .unbound => false
  | .vacant => false

/-- The stay number at the end of start-up (R167; log 16, log 17). -/
def Scanned.stay (x : Scanned) : Nat :=
  if x.identified then
    match x.room with
    | some r => r.stay
    | none => highestOf (x.commits.map (·.stay))
  else 0

/-- The room record at the end of start-up (R167). -/
def Scanned.roomTaken (x : Scanned) : Room :=
  { binding := if x.roomState = .unbound then none else x.binding
    state := x.roomState
    suspended := match x.room with | some r => r.suspended | none => false
    stay := x.stay
    cap := match x.room with | some r => if x.roomState.inStay then r.cap else 0 | none => 0
    spent := match x.room with | some r => if x.roomState.inStay then r.spent else 0 | none => 0
    tiers := 0#32
    checkout := none }

/-- The lock unit at the end of start-up (R75). -/
def Scanned.lockTaken (x : Scanned) : LockUnit :=
  match x.room with
  | some r =>
    if x.roomState.inStay then { LockUnit.cleared with guestCeiling := r.guestCeiling, pin := r.pin, failures := r.failures }
    else LockUnit.cleared
  | none => LockUnit.cleared

/-- The policy record at the end of start-up (R165, R167). -/
def Scanned.policyTaken (x : Scanned) : Policy :=
  if x.roomState = .unbound then Policy.defaults else x.policy.getD Policy.defaults

/-- The last serials at the end of start-up (R153, R167). -/
def Scanned.serialsTaken (x : Scanned) : Serials :=
  if x.identified then
    let l := x.serials.getD ⟨0, 0⟩
    if x.roomState = .unbound then { l with room := 0 } else l
  else ⟨0, 0⟩

/-- The commit records of the current stay, in increasing sequence order (R129). -/
def Scanned.stayRecords (x : Scanned) : List CommitRecord :=
  if x.roomState.inStay then sortBySeq (x.commits.filter fun r => r.stay == x.stay) else []

/-- The records rebuilt: the 8 with the highest sequence numbers (R129, step 1), two records of one event ID both among them
(log 33). -/
def Scanned.rebuiltRecords (x : Scanned) : List CommitRecord :=
  x.stayRecords.drop (x.stayRecords.length - Config.maxPurchases)

/-- The rebuilt entries, with handles from `h` on, one for each record, whatever their event IDs (R129, step 2; log 33). -/
def rebuiltEntries : Nat → List CommitRecord → List PurchaseEntry
  | _, [] => []
  | h, r :: rs =>
    { handle := h, event := r.event, title := r.title, state := .committed, charge := r.charge, watched := 0, seq := some r.seq
      taken := r.hotel, origin := .rebuilt, endNoted := false } :: rebuiltEntries (h + 1) rs

/-- The purchase unit at the end of start-up (R110, R129). -/
def Scanned.purchasesTaken (x : Scanned) : PurchaseUnit :=
  { entries := rebuiltEntries 1 x.rebuiltRecords
    nextHandle := x.rebuiltRecords.length + 1
    titles := if x.roomState.inStay then x.titles.getD [] else []
    heldPairs := [] }

/-- Spent, and the cap with it, raised to the charges of the stay's records (R129, step 4). -/
def Room.recharged (r : Room) (charges : Nat) : Room :=
  { r with spent := max r.spent charges, cap := max r.cap (max r.spent charges) }

/-- The sum of the charges of the stay's records (R129, step 4). -/
def Scanned.charges (x : Scanned) : Nat := (x.stayRecords.map (·.charge)).sum

/-- The acknowledged records that no rebuilt entry stands behind (R145). -/
def Scanned.freed (x : Scanned) : List CommitRecord :=
  (sortBySeq x.commits).filter fun r => r.acked && !(x.rebuiltRecords.any fun q => q.seq == r.seq)

/-- The place of each acknowledged record that no rebuilt entry stands behind is freed (R136, R145). -/
def State.freeRecords (l : List CommitRecord) (s : State) : State :=
  l.foldl (fun s r => s.freeIfAcked .part (some r.seq)) s

/-- Step 1 of the end of start-up: the owners take what was recovered (R177). -/
def State.takeRecovered (x : Scanned) (s : State) : State :=
  let room := if x.roomState.inStay then x.roomTaken.recharged x.charges else x.roomTaken
  let s1 := { s with
    msgs := { s.msgs with identity := x.identity, room := room, policy := x.policyTaken, serials := x.serialsTaken }
    lock := x.lockTaken
    purchases := x.purchasesTaken }
  let s2 := if room = x.roomTaken then s1 else s1.offerRoom .part
  s2.freeRecords x.freed

/-- A lockout begins when the recovered failure count calls for one (R83). -/
def State.startUpLockout (s : State) : State :=
  if 3 ≤ s.lock.failures then
    { s with lock := { s.lock with
        lockout := some (s.events.uptime + lockoutSpan s.msgs.policy.lockoutBase s.lock.failures) } }
  else s

/-- In CHECKOUT the checkout expiry is set and the drain tested (R167, R177 step 2). -/
def State.startUpCheckout (s : State) : State :=
  if s.msgs.room.state = .checkout then s.startCheckoutTimer.testDrain .part else s

/-- The START notice (R173, R177 step 4). -/
def State.startNotice (x : Scanned) (s : State) : Notice :=
  .start (s.req.bringUp.getD .good) (match x.identity with | some d => d.serial | none => 0#48) s.msgs.room.state s.store.state

/-- Uptime is 0 and the one-second timer starts (R93, R177 step 3); uptime has been 0 since the reset. -/
def State.startTimer (s : State) : State := { s with events := { s.events with uptime := 0, timerRunning := true } }

/-- The end of start-up, in one event (R177). -/
def State.endStartUp (s : State) : State :=
  let x := s.req.scanned.getD Scanned.nothing
  let s1 := ((s.startTimer.takeRecovered x).startUpLockout).startUpCheckout
  let s2 := s1.raise (s1.startNotice x)
  { s2 with req := { s2.req with startUp := .running, scanned := none } }

/-- The scan ends with the store unreadable: FAULTED, every place treated as empty, no counter, no write; start-up ends (R144,
R176, R178). -/
def State.scanUnreadable (s : State) : State :=
  { s with
    store := { s.store with state := .faulted }
    bills := { s.bills with counter := none, log := [] }
    req := { s.req with bringUp := some .storeFault, scanned := some Scanned.nothing } }.endStartUp

/-- The scan ends with every place read (R144, R145). -/
def State.scanRead (failed : BitVec 54) (s : State) : State :=
  let places := s.store.places.scan failed
  let x := places.recovered
  let s1 := { s with
    store := { s.store with state := .good, places := places }
    bills := { s.bills with counter := some x.counter, log := x.log }
    req := { s.req with bringUp := some places.bringUp, scanned := some x, startUp := .awaitingRoom } }
  places.emptyWrites.foldl (fun s w => s.offer .part w) (s1.offer .part (.room (some x.roomWrite)))

/-- The start-up scan ends (R144). -/
def State.scanComplete (e : ScanEnd) (s : State) : State :=
  match s.req.startUp with
  | .scanning => match e with
    | .unreadable => s.scanUnreadable
    | .read failed => s.scanRead failed
  | .awaitingRoom => s
  | .running => s

/-! ### Store writes (R132 to R135) -/

/-- Start-up ends when its ROOM write has ended (R145, R176). -/
def State.endStartUpIf (s : State) : State :=
  match s.req.startUp with
  | .awaitingRoom => s.endStartUp
  | .scanning => s
  | .running => s

/-- The owner of a completed write is told (R134). -/
def State.writeDone (q : QueuedWrite) (s : State) : State :=
  match q.write with
  | .room _ =>
    (if q.answers then { s with req := s.req.writeEnded true } else s).endStartUpIf
  | .commit _ (some r) => if r.acked then s else s.completeCommit r
  | .commit _ none => if s.purchases.heldPairs.isEmpty then s else { s with owed := [.commitPairOffer] }
  | .binding _ => s
  | .policy _ => s
  | .serials _ => s
  | .titles _ => s

/-- A commit that failed with the store has ended, for the drain (R122). -/
def State.failedCommits (before s : State) : State := if before.purchases.anyCommitting then s.commitEnded .part else s

/-- The started write has ended (R134). -/
def State.completeWrite (v : Verify) (s : State) : State :=
  match s.store.queue with
  | [] => s
  | q :: rest =>
    match v with
    | .verified =>
      { s with store := { s.store with queue := rest, places := s.store.places.write q.write } }.writeDone q
    | .failedFormer => (s.failedCommits s.storeFault).endStartUpIf
    | .failedDamaged =>
      let s1 := { s with store := { s.store with places := s.store.places.damage q.write } }
      (s.failedCommits s1.storeFault).endStartUpIf

/-- A write that has moved to the queue: nobody waits for it to join any more. -/
def QueuedWrite.joined (q : QueuedWrite) : QueuedWrite := { q with admits := false, heads := false }

/-- The front of the waiting line moves to the end of the queue when the queue can take it, a pair's writes together (R133). -/
def Store.advance (st : Store) : Store :=
  match st.line with
  | [] => st
  | .one q :: rest =>
    if st.queue.length < Config.storeCapacity then { st with queue := st.queue ++ [q.joined], line := rest } else st
  | .pair r c :: rest =>
    if st.queue.length + 2 ≤ Config.storeCapacity then { st with queue := st.queue ++ [r.joined, c.joined], line := rest } else st

/-- The owners that no longer wait on the line go on: an UNLOCK is answered, the head message leaves (R133, R148). -/
def State.goOn (s : State) : State :=
  let s1 := if s.store.line.any (·.any (·.admits)) then s else { s with req := s.req.writeJoined }
  if s1.msgs.headApplied = true ∧ s1.store.line.any (·.any (·.heads)) = false then { s1 with msgs := s1.msgs.dropHead } else s1

/-- The waiting line advances (R133). -/
def State.advanceLine (s : State) : State := { s with store := s.store.advance }.goOn

/-! ### Meanings -/

/-- RESET (R176). What was owed is abandoned with everything else. -/
def execReset (straps : BitVec 4) (performed : BitVec 128) (s : State) : Host.Outcome State Fault Refusal :=
  .next (s.takeReset straps performed)

/-- START_UP_SCAN_COMPLETE (R144, R145). -/
def execStartUpScanComplete (scan : ScanEnd) (s : State) : Host.Outcome State Fault Refusal := act (State.scanComplete scan) s

/-- STORE_WRITE_COMPLETE (R134). -/
def execStoreWriteComplete (v : Verify) (s : State) : Host.Outcome State Fault Refusal := act (State.completeWrite v) s

/-- STORE_WAITING_LINE_ADVANCE (R133). -/
def execStoreWaitingLineAdvance (s : State) : Host.Outcome State Fault Refusal := act State.advanceLine s

end Sys2Proof.Machine
end

