-- ==== Sys2Proof/Machine/Dispatch.lean ====
section
/-! DEFINITION. One arm per command. -/

namespace Sys2Proof.Machine

/-- A command's effect on everything but the queue. -/
def exec (i : Instr) (s : State) : Host.Outcome State Fault Refusal :=
  match i with
  | .reset straps performed => Sys2Proof.Machine.execReset straps performed s
  | .startUpScanComplete scan => Sys2Proof.Machine.execStartUpScanComplete scan s
  | .streamSlotWrite w => Sys2Proof.Machine.execStreamSlotWrite w s
  | .streamSlotRead r => Sys2Proof.Machine.execStreamSlotRead r s
  | .readWordsReturn => Sys2Proof.Machine.execReadWordsReturn s
  | .controlSlotWrite w => Sys2Proof.Machine.execControlSlotWrite w s
  | .requestProduceWrite w => Sys2Proof.Machine.execRequestProduceWrite w s
  | .consumeIndexWrite w => Sys2Proof.Machine.execConsumeIndexWrite w s
  | .indexWordWriteIgnored w => Sys2Proof.Machine.execIndexWordWriteIgnored w s
  | .msideGrant => Sys2Proof.Machine.execMsideGrant s
  | .requestTake => Sys2Proof.Machine.execRequestTake s
  | .unknownRequest => Sys2Proof.Machine.execUnknownRequest s
  | .attachRing => Sys2Proof.Machine.execAttachRing s
  | .detachRing => Sys2Proof.Machine.execDetachRing s
  | .serviceInfo => Sys2Proof.Machine.execServiceInfo s
  | .keyInfo => Sys2Proof.Machine.execKeyInfo s
  | .slateInfo => Sys2Proof.Machine.execSlateInfo s
  | .setPin => Sys2Proof.Machine.execSetPin s
  | .setGuestCeiling => Sys2Proof.Machine.execSetGuestCeiling s
  | .unlock => Sys2Proof.Machine.execUnlock s
  | .lockNow => Sys2Proof.Machine.execLockNow s
  | .lockInfo => Sys2Proof.Machine.execLockInfo s
  | .readEvent => Sys2Proof.Machine.execReadEvent s
  | .quote => Sys2Proof.Machine.execQuote s
  | .purchase => Sys2Proof.Machine.execPurchase s
  | .cancel => Sys2Proof.Machine.execCancel s
  | .listPurchases => Sys2Proof.Machine.execListPurchases s
  | .billInfo => Sys2Proof.Machine.execBillInfo s
  | .status => Sys2Proof.Machine.execStatus s
  | .answerRecordWrite => Sys2Proof.Machine.execAnswerRecordWrite s
  | .noticeWrite => Sys2Proof.Machine.execNoticeWrite s
  | .billNoticeWrite => Sys2Proof.Machine.execBillNoticeWrite s
  | .messageAtHead => Sys2Proof.Machine.execMessageAtHead s
  | .bind => Sys2Proof.Machine.execBind s
  | .unbind => Sys2Proof.Machine.execUnbind s
  | .checkIn => Sys2Proof.Machine.execCheckIn s
  | .checkOut => Sys2Proof.Machine.execCheckOut s
  | .setCap => Sys2Proof.Machine.execSetCap s
  | .entitle => Sys2Proof.Machine.execEntitle s
  | .policy => Sys2Proof.Machine.execPolicy s
  | .billAck => Sys2Proof.Machine.execBillAck s
  | .suspend => Sys2Proof.Machine.execSuspend s
  | .resume => Sys2Proof.Machine.execResume s
  | .hotelKey => Sys2Proof.Machine.execHotelKey s
  | .clearPin => Sys2Proof.Machine.execClearPin s
  | .key => Sys2Proof.Machine.execKey s
  | .serviceMap => Sys2Proof.Machine.execServiceMap s
  | .event => Sys2Proof.Machine.execEvent s
  | .time => Sys2Proof.Machine.execTime s
  | .slate => Sys2Proof.Machine.execSlate s
  | .tick => Sys2Proof.Machine.execTick s
  | .eventEnd => Sys2Proof.Machine.execEventEnd s
  | .grantExpiry => Sys2Proof.Machine.execGrantExpiry s
  | .lockoutExpiry => Sys2Proof.Machine.execLockoutExpiry s
  | .resendDue => Sys2Proof.Machine.execResendDue s
  | .rebuiltEntryLimit => Sys2Proof.Machine.execRebuiltEntryLimit s
  | .checkoutExpiry => Sys2Proof.Machine.execCheckoutExpiry s
  | .storeWriteComplete v => Sys2Proof.Machine.execStoreWriteComplete v s
  | .commitPairOffer => Sys2Proof.Machine.execCommitPairOffer s
  | .storeWaitingLineAdvance => Sys2Proof.Machine.execStoreWaitingLineAdvance s
  | .passedTransactionArrival t => Sys2Proof.Machine.execPassedTransactionArrival t s

end Sys2Proof.Machine
end

