-- ==== Sys2Proof/Safety.lean ====
section
/-! DEFINITION. What counts as a good state, in the terms the statements use: the invariants of the part, the moves of the room
state, and the situations in which a command has its own effect. -/

namespace Sys2Proof.Machine

/-! ### Invariants -/

/-- The memory is in canonical form. -/
def State.memOk (s : State) : Prop := s.mem.wf = true

/-- The bounds on the part's lines, queues and tables (R2, R17, R18, R31, R77, R96, R108, R132, R148), the count of the arbiter
being 0 while the own-traffic queue is empty, and an own transaction waiting to be issued only while that queue is full. -/
structure State.WithinCapacity (s : State) : Prop where
  pSide     : s.path.pSide.length ≤ Config.pSideCapacity
  own       : s.path.own.length ≤ Config.ownCapacity
  toIssue   : s.path.toIssue = [] ∨ s.path.own.length = Config.ownCapacity
  ownWait   : s.path.ownWait ≤ Config.maxOwnWait
  noOwn     : s.path.own = [] → s.path.ownWait = 0
  services  : s.slots.services.length ≤ Config.maxServices
  grants    : s.lock.grants.length ≤ Config.maxGrants
  events    : s.events.entries.length ≤ Config.maxEvents
  purchases : s.purchases.entries.length ≤ Config.maxPurchases
  queue     : s.store.queue.length ≤ Config.storeCapacity
  intake    : s.msgs.intake.length ≤ Config.intakeCapacity

/-- The window of ring `n` is within the ranges of R4 and inside the address space (R14). -/
def Window.inRange (n : Nat) (w : Window) : Prop :=
  w.base % 128 = 0 ∧ w.last ≤ 0x100000000 ∧
    (if n = 4 then 8 ≤ w.slots ∧ w.slots ≤ 256 else 16 ≤ w.slots ∧ w.slots ≤ 1024)

/-- No address lies in both of two windows. -/
def Window.apart (v w : Window) : Prop := ∀ a, v.covers a = true → w.covers a = false

/-- An address of the anchor page (R7). -/
def PathUnit.inAnchor (p : PathUnit) (a : Nat) : Prop := p.anchorBase ≤ a ∧ a < p.anchorBase + 4096

/-- The windows are in range, apart from one another and from the anchor page, and the stream rings hold at most 2048 slots
together (R4, R14). -/
structure PathUnit.WindowsSound (p : PathUnit) : Prop where
  inRange : ∀ n w, n ≤ 4 → p.ring n = some w → w.inRange n
  apart   : ∀ m n v w, m ≤ 4 → n ≤ 4 → m ≠ n → p.ring m = some v → p.ring n = some w → v.apart w
  anchor  : ∀ n w a, n ≤ 4 → p.ring n = some w → p.inAnchor a → w.covers a = false
  slots   : p.streamSlots ≤ Config.maxStreamSlots

/-- Each attached stream ring has one tag for each slot, and a detached ring has none (R23). -/
def State.tagsFit (s : State) : Prop :=
  ∀ r : Fin 4, s.slots.tags[r].length = match s.path.streams[r] with | some w => w.slots | none => 0

/-- The retire order holds exactly the RETIRED entries, without duplicates, and the current entries of the key sets and phases are
CURRENT entries of the pool, no two of them the same (R46, R47). -/
structure KeyPool.Orderly (k : KeyPool) : Prop where
  retired  : ∀ i : Fin 192, i ∈ k.retireOrder ↔ k.pool[i].state = .retired
  once     : k.retireOrder.Nodup
  current  : ∀ ks p i, (k.slot ks p).current = some i → k.pool[i].state = .current
  distinct : ∀ ks p ks' p' i, (k.slot ks p).current = some i → (k.slot ks' p').current = some i → ks = ks' ∧ p = p'

/-- A lockout ends within 3840 seconds (R81). -/
def State.lockoutBounded (s : State) : Prop := ∀ e, s.lock.lockout = some e → e ≤ s.events.uptime + Config.maxLockout

/-- The number of valid tags that carry a reference (R46). -/
def SlotTable.refsTo (t : SlotTable) (r : KeyRef) : Nat :=
  ((List.finRange 4).map fun ring => t.tags[ring].countP fun o => o.bind SlotTag.keyRef == some r).sum

/-- The law of R46: an entry's reference count is the number of valid tags that name it with its stamp. With it, what keeps it: a
FREE entry has no references, and no tag carries a stamp above its entry's (R48 to R52). -/
structure State.ReferencesCounted (s : State) : Prop where
  counted : ∀ i : Fin 192, s.keys.pool[i].refs = s.slots.refsTo ⟨i, s.keys.pool[i].stamp⟩
  free    : ∀ i : Fin 192, s.keys.pool[i].state = .free → s.keys.pool[i].refs = 0
  older   : ∀ (ring : Fin 4) (o : Option SlotTag) (r : KeyRef), o ∈ s.slots.tags[ring] → o.bind SlotTag.keyRef = some r →
    r.stamp.toNat ≤ s.keys.pool[r.entry].stamp.toNat

/-- The handles of the purchase list name one entry each (R108, R109). -/
def PurchaseUnit.handlesDistinct (p : PurchaseUnit) : Prop := (p.entries.map (·.handle)).Nodup

/-- The purchase list holds at most 8 entries under distinct handles and nothing before the end of start-up, and while a request is
in service, taken with no notice pending, at most 8 handles are in use (R108, R109, R129, R169). -/
structure State.HandlesSound (s : State) : Prop where
  distinct : s.purchases.handlesDistinct
  next     : 1 ≤ s.purchases.nextHandle ∧ s.purchases.nextHandle ≤ 255
  few      : s.purchases.entries.length ≤ Config.maxPurchases
  starting : s.req.startUp ≠ .running → s.req.service = .idle ∧ s.purchases.entries = []
  serving  : s.req.service = .fetching → ∃ l : List Nat, l.length ≤ 8 ∧ ∀ h, s.handleInUse h = true → h ∈ l

/-- The room is UNBOUND exactly while the binding is absent; in VACANT and UNBOUND the purchase list, the grant list and the PIN are
empty and held, spent and cap are 0 (R154); spent and held together are at most the cap (R111). -/
structure State.StaySound (s : State) : Prop extends State.HandlesSound s where
  binding : s.msgs.room.binding = none ↔ s.msgs.room.state = .unbound
  noStay  : (s.msgs.room.state = .unbound ∨ s.msgs.room.state = .vacant) →
    s.purchases.entries = [] ∧ s.lock.grants = [] ∧ s.lock.pin = none ∧ s.purchases.held = 0 ∧ s.msgs.room.spent = 0 ∧
      s.msgs.room.cap = 0
  charged : s.msgs.room.spent + s.purchases.held ≤ s.msgs.room.cap

/-- The new commit record a store write carries (R135). -/
def StoreWrite.newRecord? : StoreWrite → Option CommitRecord
  | .commit _ (some r) => if r.acked then none else some r
  | .commit _ none => none
  | .binding _ => none
  | .room _ => none
  | .policy _ => none
  | .serials _ => none
  | .titles _ => none

/-- The writes of a line item, in order. -/
def LineItem.writes : LineItem → List QueuedWrite
  | .one q => [q]
  | .pair r c => [r, c]

/-- The new commit records that have still to reach the store, in the order in which they will: those of the queue, of the waiting
line, and of the pairs held for want of a COMMIT place (R132, R133, R135). -/
def State.recordsToCome (s : State) : List CommitRecord :=
  (s.store.queue ++ s.store.line.flatMap LineItem.writes).filterMap (·.write.newRecord?) ++ s.purchases.heldPairs

/-- The law of R138: the log holds at most 32 records, in strictly increasing order, below the next-sequence counter. With it, what
keeps it: the records still to come follow in order and belong to COMMITTING entries, which carry a charge; a rebuilt entry is
COMMITTED; and what PURCHASE counts (R116, check 10) stays within 32. -/
structure State.BillsSound (s : State) : Prop extends State.HandlesSound s where
  rising     : (s.bills.log.map (·.record.seq) ++ s.recordsToCome.map (·.seq)).Pairwise (· < ·)
  below      : ∀ r ∈ s.bills.log.map (·.record) ++ s.recordsToCome, ∃ n, s.bills.counter = some n ∧ r.seq < n
  behind     : ∀ r ∈ s.recordsToCome, ∃ e ∈ s.purchases.entries, e.state = .committing ∧ e.seq = some r.seq
  committing : ∀ e ∈ s.purchases.entries, (e.state = .committing → e.charge ≠ 0) ∧ (e.state ≠ .committed → e.origin = .taken)
  few32      : s.bills.log.length + s.purchases.entries.countP (fun e => decide (0 < e.heldCharge)) ≤ Config.maxBills

/-- The records found in the COMMIT places carry distinct numbers in the range of R135, and at most 32 of them are not acknowledged. -/
structure Places.RecordsSound (p : Places) : Prop where
  distinct : ((p.commits.toList.filterMap Place.found).map (·.seq)).Nodup
  inRange  : ∀ r ∈ p.commits.toList.filterMap Place.found, r.seq < Config.lastCounter
  unacked  : (p.commits.toList.filterMap Place.found).countP (fun r => !r.acked) ≤ Config.maxBills

/-! ### Moves of the room state (R154) -/

/-- The room states that one step may lead to (R154); a CHECK_OUT whose drain holds at once leads through CHECKOUT to VACANT
(R158, R159). -/
def RoomState.moves : RoomState → RoomState → Bool
  | .unbound, .vacant => true
  | .vacant, .unbound => true
  | .vacant, .occupied => true
  | .occupied, .checkout => true
  | .occupied, .vacant => true
  | .checkout, .vacant => true
  | a, b => a == b

/-! ### Situations -/

/-- Nothing of an earlier step is owed. -/
def State.settled (s : State) : Prop := s.owed = []

/-- The record `r` of a request of kind `code` has been fetched, and nothing is owed (R170). -/
def State.serving (s : State) (code : Nat) (r : Request) : Prop := s.settled ∧ s.fetched = some r ∧ r.kind.toNat = code

/-- The message `m` at the head passes its checks as one of kind `k`, nothing is owed, and no write in the waiting line is one the
head message waits for (R148, R153). -/
def State.heading (s : State) (k : MsgKind) (m : Message) : Prop :=
  s.settled ∧ s.msgs.headMessage = some m ∧ s.msgs.check m = some k ∧ s.store.line.any (·.any (·.heads)) = false

/-- The state in which the request `r` is answered and nothing else has changed but that the own read is over. -/
def State.replied (s : State) (r : Request) (code : AnswerCode) (results : List Word) : State :=
  { s with
    path := { s.path with underWay := none }
    req := { s.req with service := .answering ⟨r.kind, r.tag, code, results⟩ none } }

/-- The failure count and lockout after a wrong PIN (R81). -/
def State.lockAfterWrongPin (s : State) : LockUnit :=
  { s.lock with
    failures := riseFailures s.lock.failures
    lockout := if 3 ≤ riseFailures s.lock.failures then
        some (s.events.uptime + min 3840 (s.msgs.policy.lockoutBase * 2 ^ (riseFailures s.lock.failures - 3)))
      else s.lock.lockout }

/-- The result words of a WRONG_PIN answer: the count after the rise, and the span of the lockout begun or 0 (R81). -/
def State.wrongPinWords (s : State) : List Word :=
  [single (riseFailures s.lock.failures),
   single (if 3 ≤ riseFailures s.lock.failures then
      min 3840 (s.msgs.policy.lockoutBase * 2 ^ (riseFailures s.lock.failures - 3)) else 0)]

/-- The ROOM record with the lock unit's retained items as `l` has them. -/
def State.roomRecordWith (s : State) (l : LockUnit) : RoomRecord :=
  { state := s.msgs.room.state, suspended := s.msgs.room.suspended, stay := s.msgs.room.stay, cap := s.msgs.room.cap
    spent := s.msgs.room.spent, guestCeiling := l.guestCeiling, pin := l.pin, failures := l.failures
    reserve := s.bills.counter.getD 0 + 8 }

/-- The state in which a served SET_PIN or SET_GUEST_CEILING has changed the lock unit to `l` and offered its ROOM write: the
request waits for the write, or is answered at once with kept 0 when the store is FAULTED (R82). -/
def State.settingServed (s : State) (l : LockUnit) (r : Request) (code : AnswerCode) (results : List Word) : State :=
  let service : Service := match s.store.state with
    | .good => .waiting ⟨r.kind, r.tag, code, results⟩ true
    | .faulted => .answering ⟨r.kind, r.tag, code, if code = .ok then results ++ [single 0] else results⟩ none
  { s with
    path := { s.path with underWay := none }
    lock := l
    store := s.store.offer .setting (.room (s.roomRecordWith l))
    req := { s.req with service := service } }

/-- The state in which a served UNLOCK has changed the lock unit to `l` and offered its ROOM write: it is answered at once, or waits
until the write has joined the store queue (R82, R133). -/
def State.unlockServed (s : State) (l : LockUnit) (r : Request) (code : AnswerCode) (results : List Word) : State :=
  let store := s.store.offer .unlock (.room (s.roomRecordWith l))
  let service : Service :=
    if store.line.any (·.any (·.admits)) then .waiting ⟨r.kind, r.tag, code, results⟩ false
    else .answering ⟨r.kind, r.tag, code, results⟩ none
  { s with
    path := { s.path with underWay := none }
    lock := l
    store := store
    req := { s.req with service := service } }

/-- The state in which the head message has left the intake queue and nothing else has changed. -/
def State.headGone (s : State) : State :=
  { s with msgs := { s.msgs with intake := s.msgs.intake.drop 1, headApplied := false } }

/-- The state in which the serial of a room-scope message is the last one and its SERIALS write has been offered (R153). -/
def State.roomSerial (s : State) (n : Nat) : State :=
  { s with
    msgs := { s.msgs with serials := { s.msgs.serials with room := n } }
    store := s.store.offer .head (.serials (some { s.msgs.serials with room := n })) }

/-- The words of a burst of `len` at `addr` lie in slot `slot` of stream ring `ring`, from its word `k` on. -/
def State.inStreamSlot (s : State) (ring : Fin 4) (slot k : Nat) (addr : BitVec 32) (len : Nat) : Prop :=
  ∀ j, j < len → s.path.locate (addr.toNat + 8 * j) = (.streamSlot ring slot, k + j)

/-- The words of a burst of `len` at `addr` lie in slot `slot` of the control ring, from its word `k` on. -/
def State.inControlSlot (s : State) (slot k : Nat) (addr : BitVec 32) (len : Nat) : Prop :=
  ∀ j, j < len → s.path.locate (addr.toNat + 8 * j) = (.controlSlot slot, k + j)

/-- The words of a burst of `len` at `addr` lie in no window but the part of the anchor page the part does not watch. -/
def State.passedOver (s : State) (addr : BitVec 32) (len : Nat) : Prop :=
  ∀ j, j < len → (s.path.locate (addr.toNat + 8 * j)).1 = .outside ∨ (s.path.locate (addr.toNat + 8 * j)).1 = .anchorRest

/-- A transaction can be accepted: it is one, nothing is owed, and the P-side holds fewer than 8 (R2). -/
def State.accepts (s : State) (t : Txn) : Prop := s.settled ∧ t.ok = true ∧ s.path.pSide.length < Config.pSideCapacity

/-- The state in which a transaction has joined the P-side line and nothing else has changed. -/
def State.joined (s : State) (c : Carried) : State := { s with path := { s.path with pSide := s.path.pSide ++ [c] } }

/-- The row of the table a message kind has. -/
def MsgKind.row : MsgKind → Instr
  | .bind => .bind
  | .checkIn => .checkIn
  | .checkOut => .checkOut
  | .setCap => .setCap
  | .entitle => .entitle
  | .policy => .policy
  | .billAck => .billAck
  | .suspend => .suspend
  | .resume => .resume
  | .hotelKey => .hotelKey
  | .unbind => .unbind
  | .clearPin => .clearPin
  | .key => .key
  | .serviceMap => .serviceMap
  | .event => .event
  | .time => .time
  | .slate => .slate

/-- The row of the table an owed part has. -/
def Owed.row : Owed → Instr
  | .eventEnd _ _ => .eventEnd
  | .grantExpiry => .grantExpiry
  | .lockoutExpiry => .lockoutExpiry
  | .resendDue => .resendDue
  | .rebuiltEntryLimit => .rebuiltEntryLimit
  | .checkoutExpiry => .checkoutExpiry
  | .commitPairOffer => .commitPairOffer

/-- The row of the table a request kind code has (R180). -/
def requestRow : Nat → Option Instr
  | 1 => some .attachRing
  | 2 => some .detachRing
  | 3 => some .serviceInfo
  | 4 => some .keyInfo
  | 5 => some .slateInfo
  | 6 => some .setPin
  | 7 => some .setGuestCeiling
  | 8 => some .unlock
  | 9 => some .lockNow
  | 10 => some .lockInfo
  | 11 => some .readEvent
  | 12 => some .quote
  | 13 => some .purchase
  | 14 => some .cancel
  | 15 => some .listPurchases
  | 16 => some .billInfo
  | 17 => some .status
  | _ => none

/-- The drain holds in CHECKOUT: no entry is COMMITTING and the log holds no record of the stay (R159). -/
def State.drains (s : State) : Prop :=
  s.msgs.room.state = .checkout ∧ (∀ e ∈ s.purchases.entries, e.state ≠ .committing) ∧
    ∀ l ∈ s.bills.log, l.record.stay ≠ s.msgs.room.stay

/-- The end of a commit lets the room leave CHECKOUT: no entry is COMMITTING, and the checkout expiry has been reached or the log
holds no record of the stay (R159). -/
def State.drainsAtCommitEnd (s : State) : Prop :=
  s.msgs.room.state = .checkout ∧ (∀ e ∈ s.purchases.entries, e.state ≠ .committing) ∧
    ((∃ x, s.msgs.room.checkout = some x ∧ x.expired = true) ∨ ∀ l ∈ s.bills.log, l.record.stay ≠ s.msgs.room.stay)

end Sys2Proof.Machine

namespace Sys2Proof

/-- The transaction an arrival command carries. -/
def Instr.arriving : Instr → Option Txn
  | .reset _ _ => none
  | .startUpScanComplete _ => none
  | .streamSlotWrite w => some (.write w)
  | .streamSlotRead r => some (.read r)
  | .readWordsReturn => none
  | .controlSlotWrite w => some (.write w)
  | .requestProduceWrite w => some (.write w)
  | .consumeIndexWrite w => some (.write w)
  | .indexWordWriteIgnored w => some (.write w)
  | .msideGrant => none
  | .requestTake => none
  | .unknownRequest => none
  | .attachRing => none
  | .detachRing => none
  | .serviceInfo => none
  | .keyInfo => none
  | .slateInfo => none
  | .setPin => none
  | .setGuestCeiling => none
  | .unlock => none
  | .lockNow => none
  | .lockInfo => none
  | .readEvent => none
  | .quote => none
  | .purchase => none
  | .cancel => none
  | .listPurchases => none
  | .billInfo => none
  | .status => none
  | .answerRecordWrite => none
  | .noticeWrite => none
  | .billNoticeWrite => none
  | .messageAtHead => none
  | .bind => none
  | .unbind => none
  | .checkIn => none
  | .checkOut => none
  | .setCap => none
  | .entitle => none
  | .policy => none
  | .billAck => none
  | .suspend => none
  | .resume => none
  | .hotelKey => none
  | .clearPin => none
  | .key => none
  | .serviceMap => none
  | .event => none
  | .time => none
  | .slate => none
  | .tick => none
  | .eventEnd => none
  | .grantExpiry => none
  | .lockoutExpiry => none
  | .resendDue => none
  | .rebuiltEntryLimit => none
  | .checkoutExpiry => none
  | .storeWriteComplete _ => none
  | .commitPairOffer => none
  | .storeWaitingLineAdvance => none
  | .passedTransactionArrival t => some t

/-- The commands that do what is owed before anything else: all but RESET and the rows that are parts of what is owed. -/
def Instr.settlesFirst : Instr → Bool
  | .reset _ _ => false
  | .startUpScanComplete _ => true
  | .streamSlotWrite _ => true
  | .streamSlotRead _ => true
  | .readWordsReturn => true
  | .controlSlotWrite _ => true
  | .requestProduceWrite _ => true
  | .consumeIndexWrite _ => true
  | .indexWordWriteIgnored _ => true
  | .msideGrant => true
  | .requestTake => true
  | .unknownRequest => true
  | .attachRing => true
  | .detachRing => true
  | .serviceInfo => true
  | .keyInfo => true
  | .slateInfo => true
  | .setPin => true
  | .setGuestCeiling => true
  | .unlock => true
  | .lockNow => true
  | .lockInfo => true
  | .readEvent => true
  | .quote => true
  | .purchase => true
  | .cancel => true
  | .listPurchases => true
  | .billInfo => true
  | .status => true
  | .answerRecordWrite => true
  | .noticeWrite => true
  | .billNoticeWrite => true
  | .messageAtHead => true
  | .bind => true
  | .unbind => true
  | .checkIn => true
  | .checkOut => true
  | .setCap => true
  | .entitle => true
  | .policy => true
  | .billAck => true
  | .suspend => true
  | .resume => true
  | .hotelKey => true
  | .clearPin => true
  | .key => true
  | .serviceMap => true
  | .event => true
  | .time => true
  | .slate => true
  | .tick => true
  | .eventEnd => false
  | .grantExpiry => false
  | .lockoutExpiry => false
  | .resendDue => false
  | .rebuiltEntryLimit => false
  | .checkoutExpiry => false
  | .storeWriteComplete _ => true
  | .commitPairOffer => false
  | .storeWaitingLineAdvance => true
  | .passedTransactionArrival _ => true

end Sys2Proof
end

