-- ==== Sys2Proof/Certificates/Slice0/Obligations.lean ====
section
/-! DEFINITION. The statements for the provers. -/

open Sys2Proof Sys2Proof.Machine

/-! ### The queue of commands and the outcomes -/

/-- A step runs the command at the front of the queue on the state with the queue's rest; with an empty queue the part idles;
no command changes the queue (the model's own queue; log 8). -/
def Obligations.StepRunsTheFrontCommand : Prop :=
  ((∀ (c : Instr) (rest : List Instr) (s : State), step { s with pending := c :: rest } = exec c { s with pending := rest }) ∧
  (∀ s : State, s.pending = [] → step s = .next s)) ∧
  (∀ (c : Instr) (s t : State), exec c s = .next t → t.pending = s.pending)

/-- Every well-formed command answers a next state, and a transaction that is none faults (00_scope.md, Addresses and
transactions; log 13). -/
def Obligations.WellFormedCommandsComplete : Prop :=
  ∀ (c : Instr) (s : State),
    (c.wellFormed = true → ∃ t, exec c s = .next t) ∧ (c.wellFormed = false → exec c s = .fault .notATransaction)

/-! ### Invariants of every step -/

/-- Every step keeps the memory in canonical form (the model's memory; log 1). -/
def Obligations.MemoryStaysCanonical : Prop := ∀ s t : State, s.memOk → step s = .next t → t.memOk

/-- Every step keeps the bounds of the part's lines, queues and tables (R2, R17, R18, R31, R77, R96, R108, R132, R148; what waits behind
the own-traffic queue is log 22's), and a lockout's expiry within 3840 seconds of uptime (R81). -/
def Obligations.CapacitiesAreKept : Prop :=
  (∀ s t : State, s.WithinCapacity → step s = .next t → t.WithinCapacity) ∧
  (∀ s t : State, s.lockoutBounded → step s = .next t → t.lockoutBounded)

/-- Every step keeps the windows in range, apart and clear of the anchor page, at most 2048 stream slots together, and one tag
for each slot of each attached stream ring (R4, R14, R23). -/
def Obligations.WindowsStaySound : Prop :=
  ∀ s t : State, s.path.WindowsSound → s.tagsFit → step s = .next t → t.path.WindowsSound ∧ t.tagsFit

/-- Every step keeps the retire order exactly the RETIRED entries, and the current entries CURRENT and distinct (R46, R47); and it keeps
the law of R46: an entry's reference count is the number of valid tags that name it with its stamp. -/
def Obligations.RetireOrderStaysExact : Prop :=
  (∀ s t : State, s.keys.Orderly → step s = .next t → t.keys.Orderly) ∧
  (∀ s t : State, s.keys.Orderly → s.tagsFit → s.ReferencesCounted → step s = .next t → t.ReferencesCounted)

/-- While hotel time is known it never decreases; only a reset makes it unknown (R94). -/
def Obligations.HotelTimeNeverDecreases : Prop :=
  ∀ (c : Instr) (s t : State) (h : Nat), exec c s = .next t → (∀ straps performed, c ≠ .reset straps performed) →
    s.events.hotelTime = some h → ∃ h', t.events.hotelTime = some h' ∧ h ≤ h'

/-- The next-sequence counter never decreases but at a reset and the scan that follows it (R137, R138). Every command keeps the law of
R138: the log holds at most 32 records, in strictly increasing order, all below the counter. A scan keeps it where the COMMIT
places hold distinct numbers in their range and at most 32 unacknowledged records. -/
def Obligations.CounterNeverDecreases : Prop :=
  (∀ (c : Instr) (s t : State) (n : Nat), exec c s = .next t → (∀ straps performed, c ≠ .reset straps performed) →
    (∀ scan, c ≠ .startUpScanComplete scan) → s.bills.counter = some n → ∃ n', t.bills.counter = some n' ∧ n ≤ n') ∧
  (∀ (c : Instr) (s t : State), exec c s = .next t →
    ((∃ failed, c = .startUpScanComplete (.read failed)) → s.store.places.RecordsSound) → s.BillsSound → t.BillsSound)

/-- While the part is RUNNING, the room state moves only as R154 tables it. Every command keeps the laws of R154 and R111: the room is
UNBOUND exactly while the binding is absent; in VACANT and UNBOUND the purchase list, the grant list and the PIN are empty and held,
spent and cap are 0; and spent and held together are at most the cap. -/
def Obligations.RoomStateMovesAsTabled : Prop :=
  (∀ (c : Instr) (s t : State), s.settled → s.req.startUp = .running → (∀ straps performed, c ≠ .reset straps performed) →
    exec c s = .next t → s.msgs.room.state.moves t.msgs.room.state = true) ∧
  (∀ (c : Instr) (s t : State), exec c s = .next t → s.StaySound → t.StaySound)

/-- The state after reset meets the invariants. -/
def Obligations.ResetMeetsTheInvariants : Prop :=
  State.reset.memOk ∧ State.reset.WithinCapacity ∧ State.reset.path.WindowsSound ∧ State.reset.tagsFit ∧
    State.reset.keys.Orderly ∧ State.reset.lockoutBounded ∧ State.reset.ReferencesCounted ∧ State.reset.BillsSound ∧
    State.reset.StaySound

/-! ### Stream slot writes -/

/-- A fully enabled write of a header word by the ring's writer sets the slot's tag from the header after the old reference is dropped; a
header that sends no phase report leaves it without a reference, and continuity is applied when the header is sound. Another
initiator's write, or the writer's over word 0 with an enable off, makes the tag invalid; the writer's write that does not cover word
0 leaves it (R24 to R27). A burst that passes from one slot or window into another does what its parts do, in ascending order, and
joins the P-side line as one transaction (R3, R29). -/
def Obligations.StreamWriteSetsOrClearsTheTag : Prop :=
  (∀ (s : State) (w : WriteTxn) (ring : Fin 4) (slot : Nat) (win : Window) (x : WriteWord) (xs : List WriteWord),
    s.accepts (.write w) → s.path.streams[ring] = some win → w.words = x :: xs →
    s.inStreamSlot ring slot 0 w.addr w.words.length → w.initiator = win.writer → x.enables = 0xFF#8 →
    (headerDamaged x.data = true ∨ (headerKind x.data).isContent = false ∨ headerPhase x.data = .clear
      ∨ s.slots.service (headerService x.data) = none) →
    let tag : SlotTag :=
      { service := headerService x.data, kind := headerKind x.data, phase := headerPhase x.data, cellCount := headerCount x.data
        eventTag := headerTag x.data, damaged := headerDamaged x.data, keyRef := none }
    let slots := s.slots.setTag ring slot (some tag)
    exec (.streamSlotWrite w) s = .next
      ({ s with
          keys := s.keys.dropOption ((s.slots.tag ring slot).bind SlotTag.keyRef)
          slots := if headerDamaged x.data then slots
                   else slots.mapService (headerService x.data) fun e => e.continuity (headerCount x.data) }.joined (.write w))) ∧
  (∀ (s : State) (w : WriteTxn) (ring : Fin 4) (slot k : Nat) (win : Window) (x : WriteWord) (xs : List WriteWord),
    s.accepts (.write w) → s.path.streams[ring] = some win → w.words = x :: xs →
    s.inStreamSlot ring slot k w.addr w.words.length →
    ((w.initiator ≠ win.writer ∨ (k = 0 ∧ x.enables ≠ 0xFF#8)) →
      exec (.streamSlotWrite w) s = .next
        ({ s with
            keys := s.keys.dropOption ((s.slots.tag ring slot).bind SlotTag.keyRef)
            slots := s.slots.setTag ring slot none }.joined (.write w))) ∧
    ((w.initiator = win.writer ∧ k ≠ 0) → exec (.streamSlotWrite w) s = .next (s.joined (.write w)))) ∧
  (∀ (s : State) (w : WriteTxn) (m : Nat), s.accepts (.write w) → 0 < m → m < w.words.length →
    (s.path.locate (w.addr.toNat + 8 * (m - 1))).1 ≠ (s.path.locate (w.addr.toNat + 8 * m)).1 →
    let front : WriteTxn := ⟨w.initiator, w.addr, w.words.take m⟩
    let back : WriteTxn := ⟨w.initiator, BitVec.ofNat 32 (w.addr.toNat + 8 * m), w.words.drop m⟩
    ∃ s1 s2 : State, s1.path = s.path ∧ s2.path = s.path ∧ exec (.streamSlotWrite front) s = .next (s1.joined (.write front)) ∧
      exec (.streamSlotWrite back) s1 = .next (s2.joined (.write back)) ∧
      exec (.streamSlotWrite w) s = .next (s2.joined (.write w)))

/-- A sound header of a content kind with a phase, for a service in the table, reports its phase: a key staged for the other phase
is installed first and is that phase's current key from then on, staged no more; then the tag takes the entry current for its own phase
with its stamp, and that entry's count rises by one; with none current the tag has no reference (R25, R44, R49). The installation is
`KeyPool.install`'s, with the clearing of references after a stamp wrap (R48, R52). -/
def Obligations.PhaseReportTakesReference : Prop :=
  ∀ (s : State) (w : WriteTxn) (ring : Fin 4) (slot : Nat) (win : Window) (x : WriteWord) (xs : List WriteWord)
    (e : ServiceEntry) (q : Phase),
    s.accepts (.write w) → s.path.streams[ring] = some win → w.words = x :: xs →
    s.inStreamSlot ring slot 0 w.addr w.words.length → slot < s.slots.tags[ring].length → w.initiator = win.writer →
    x.enables = 0xFF#8 → headerDamaged x.data = false → (headerKind x.data).isContent = true →
    (headerPhase x.data).phase? = some q → s.slots.service (headerService x.data) = some e →
    let tag := SlotTag.ofHeader x.data
    let s1 : State :=
      { s with
        keys := s.keys.dropOption ((s.slots.tag ring slot).bind SlotTag.keyRef)
        slots := (s.slots.setTag ring slot (some tag)).mapService tag.service fun e => e.continuity tag.cellCount }
    let s2 := s1.installStaged e.keySet q
    ∃ t, exec (.streamSlotWrite w) s = .next t ∧
      (∀ i, (s2.keys.slot e.keySet q).current = some i →
        t.slots.tag ring slot = some { tag with keyRef := some ⟨i, s2.keys.pool[i].stamp⟩ } ∧
        t.keys = s2.keys.setEntry i { s2.keys.pool[i] with refs := s2.keys.pool[i].refs + 1 }) ∧
      ((s2.keys.slot e.keySet q).current = none → t.slots.tag ring slot = some tag ∧ t.keys = s2.keys) ∧
      ((s1.keys.slot e.keySet q.other).staged = none → s2 = s1) ∧
      (∀ k, (s1.keys.slot e.keySet q.other).staged = some k →
        (t.keys.slot e.keySet q.other).staged = none ∧
        (let installed := s1.keys.install e.keySet q.other k
         s2 = { s1 with
          keys := installed.1.setSlot e.keySet q.other { installed.1.slot e.keySet q.other with staged := none }
          slots := s1.slots.clearRefs installed.2 }) ∧
        ((s1.keys.lowestFree ≠ none ∨ s1.keys.retireOrder ≠ []) →
          ∃ i, (t.keys.slot e.keySet q.other).current = some i ∧ t.keys.pool[i].key = k))

/-- Continuity: an absent or equal expected count is no discontinuity, another one is, the count of them staying at 255, and the
expected count becomes the cell count plus one mod 65536. It is applied to the service of a tag set from a sound header by a burst
within one slot, and to no other entry (R30; a burst that passes from one slot into another is taken part by part, R29). -/
def Obligations.ContinuityFollowsTheCount : Prop :=
  (∀ (e : ServiceEntry) (c : BitVec 16),
    (e.continuity c).expected = some (BitVec.ofNat 16 ((c.toNat + 1) % 65536)) ∧
    ((e.expected = none ∨ e.expected = some c) → (e.continuity c).discontinuities = e.discontinuities) ∧
    (∀ x, e.expected = some x → x ≠ c → e.discontinuities ≤ 255 →
      (e.continuity c).discontinuities = min 255 (e.discontinuities + 1)) ∧
    e.continuity c = { e with expected := (e.continuity c).expected, discontinuities := (e.continuity c).discontinuities }) ∧
  (∀ (s : State) (w : WriteTxn) (ring : Fin 4) (slot : Nat) (win : Window) (x : WriteWord) (xs : List WriteWord),
    s.accepts (.write w) → s.path.streams[ring] = some win → w.words = x :: xs →
    s.inStreamSlot ring slot 0 w.addr w.words.length → w.initiator = win.writer → x.enables = 0xFF#8 →
    ∃ t, exec (.streamSlotWrite w) s = .next t ∧ t.slots.services = s.slots.services.map fun e =>
      if e.service = headerService x.data ∧ headerDamaged x.data = false then e.continuity (headerCount x.data) else e)

/-- Installing a key takes the FREE entry of lowest index, or reclaims the front of the retire order, raising its stamp; the former
current entry becomes FREE at count 0 and otherwise joins the end of the retire order (R48, R51). A reclaim that takes a stamp from
65535 to 0 makes every tag's reference to that entry absent, and nothing else does (R52). -/
def Obligations.KeyInstallationTakesAnEntry : Prop :=
  (∀ (k : KeyPool) (ks : Fin 64) (p : Phase) (key : Word), k.Orderly →
    (∀ i, k.lowestFree = some i →
      (∀ j : Fin 192, j < i → k.pool[j].state ≠ .free) ∧ k.pool[i].state = .free ∧
      ((k.install ks p key).1.slot ks p).current = some i ∧
      (k.install ks p key).1.pool[i] = { k.pool[i] with key := key, state := .current, refs := 0 } ∧
      (k.install ks p key).1.reclaims = k.reclaims ∧ (k.install ks p key).2 = none) ∧
    (∀ i rest, k.lowestFree = none → k.retireOrder = i :: rest →
      ((k.install ks p key).1.slot ks p).current = some i ∧
      (k.install ks p key).1.pool[i] =
        { key := key, state := .current, stamp := k.pool[i].stamp + 1, refs := 0 } ∧
      (k.install ks p key).1.reclaims = (if k.reclaims < 65535 then k.reclaims + 1 else k.reclaims) ∧
      i ∉ (k.install ks p key).1.retireOrder ∧
      (k.install ks p key).2 = if k.pool[i].stamp = 65535#16 then some i else none) ∧
    (∀ c, (k.slot ks p).current = some c → (k.lowestFree.isSome = true ∨ k.retireOrder ≠ []) →
      (k.pool[c].refs = 0 → (k.install ks p key).1.pool[c].state = .free) ∧
      (k.pool[c].refs ≠ 0 → (k.install ks p key).1.pool[c].state = .retired ∧
        (k.install ks p key).1.retireOrder.getLast? = some c))) ∧
  (∀ (s : State) (ks : Fin 64) (p : Phase) (key : Word), s.installKey ks p key =
    { s with keys := (s.keys.install ks p key).1, slots := s.slots.clearRefs (s.keys.install ks p key).2 }) ∧
  (∀ t : SlotTable, t.clearRefs none = t) ∧
  (∀ (t : SlotTable) (i : Fin 192), (t.clearRefs (some i)).services = t.services ∧
    ∀ (ring : Fin 4) (slot : Nat),
      (t.tag ring slot = none → (t.clearRefs (some i)).tag ring slot = none) ∧
      (∀ g, t.tag ring slot = some g →
        ((∃ stamp, g.keyRef = some ⟨i, stamp⟩) → (t.clearRefs (some i)).tag ring slot = some { g with keyRef := none }) ∧
        ((∀ stamp, g.keyRef ≠ some ⟨i, stamp⟩) → (t.clearRefs (some i)).tag ring slot = some g)))

/-! ### Reads and verdicts -/

/-- A read within one slot by an initiator of the ring's reader set is judged at its arrival and holds its verdict; a delivered PAY
cell with a payload word covered raises its event's seen mark. A read by another initiator is passed (R5, R59, R67, R73). A burst that
passes from one slot or window into another is judged part by part, in ascending order, and joins the P-side line as one transaction
that holds the verdicts of all its parts (R3, R59). -/
def Obligations.ReadIsJudgedOnArrival : Prop :=
  (∀ (s : State) (r : ReadTxn) (ring : Fin 4) (slot k : Nat) (win : Window),
    s.accepts (.read r) → s.path.streams[ring] = some win → s.inStreamSlot ring slot k r.addr r.len →
    let tag := s.slots.tag ring slot
    let verdict := (s.judge tag).verdict
    let isReader := win.readers.getLsbD r.initiator.toNat && s.msgs.policy.readers.getLsbD r.initiator.toNat
    (isReader = false → exec (.streamSlotRead r) s = .next (s.joined (.read r []))) ∧
    (isReader = true →
      (∀ t e v, tag = some t → s.slots.service t.service = some e → e.cls = .pay →
        s.events.byTag t.service t.eventTag = some v → ((s.judge tag).step = 8 ∨ (s.judge tag).step = 10) → 1 < k + r.len →
        exec (.streamSlotRead r) s = .next
          ({ s with events := s.events.mapId v.id fun v => { v with seen := true } }.joined (.read r [⟨0, k, r.len, verdict⟩]))) ∧
      ((k = 0 ∧ r.len = 1 ∨ ((s.judge tag).step ≠ 8 ∧ (s.judge tag).step ≠ 10) ∨
          (∀ t e, tag = some t → s.slots.service t.service = some e → e.cls ≠ .pay)) →
        exec (.streamSlotRead r) s = .next (s.joined (.read r [⟨0, k, r.len, verdict⟩]))))) ∧
  (∀ (s : State) (r : ReadTxn) (m : Nat), s.accepts (.read r) → 0 < m → m < r.len →
    (s.path.locate (r.addr.toNat + 8 * (m - 1))).1 ≠ (s.path.locate (r.addr.toNat + 8 * m)).1 →
    let front : ReadTxn := ⟨r.initiator, r.addr, m⟩
    let back : ReadTxn := ⟨r.initiator, BitVec.ofNat 32 (r.addr.toNat + 8 * m), r.len - m⟩
    ∃ (s1 s2 : State) (held1 held2 : List HeldPortion), s1.path = s.path ∧ s2.path = s.path ∧
      exec (.streamSlotRead front) s = .next (s1.joined (.read front held1)) ∧
      exec (.streamSlotRead back) s1 = .next (s2.joined (.read back held2)) ∧
      exec (.streamSlotRead r) s = .next
        (s2.joined (.read r (held1 ++ held2.map fun h => { h with start := h.start + m }))))

/-- The first step whose condition holds gives the verdict, under its number (R60), with the limit of R62, which is the hotel ceiling while
a grant covers the service and the lower of the two ceilings otherwise (R76), and the entitlement of R63 and R64: a TIER service by the
room's mask in OCCUPIED and CHECKOUT and by the policy's in VACANT, a PAY service by purchase or free look, with slate 3 where its free
look is used up. A slate's verdict carries the sound header of R68 and the bytes of R69. -/
def Obligations.VerdictFollowsTheSteps : Prop :=
  (∀ (s : State) (t : SlotTag),
    s.judge none = ⟨1, .pass⟩ ∧
    ((s.msgs.room.state = .unbound ∨ s.msgs.room.suspended = true) → s.judge (some t) = ⟨2, s.slateVerdict t 6⟩) ∧
    (¬(s.msgs.room.state = .unbound ∨ s.msgs.room.suspended = true) →
      (t.damaged = true → s.judge (some t) = ⟨3, s.slateVerdict t 5⟩) ∧
      (t.damaged = false →
        (t.kind.isContent = false → s.judge (some t) = ⟨4, .pass⟩) ∧
        (t.kind.isContent = true →
          (s.slots.service t.service = none → s.judge (some t) = ⟨5, s.slateVerdict t 0⟩) ∧
          (∀ e, s.slots.service t.service = some e →
            let v := s.events.byTag t.service t.eventTag
            let rating := match v with | some v => v.rating | none => e.rating
            (s.limit t.service < rating → s.judge (some t) = ⟨6, s.slateVerdict t 1⟩) ∧
            (rating ≤ s.limit t.service →
              (∀ i, s.entitlementSlate e v = some i → s.judge (some t) = ⟨7, s.slateVerdict t i⟩) ∧
              (s.entitlementSlate e v = none →
                (t.phase = .clear → s.judge (some t) = ⟨8, .pass⟩) ∧
                (t.phase ≠ .clear →
                  (t.keyRef = none → s.judge (some t) = ⟨9, s.slateVerdict t 4⟩) ∧
                  (∀ r, t.keyRef = some r → s.keys.pool[r.entry].stamp ≠ r.stamp →
                    s.judge (some t) = ⟨9, s.slateVerdict t 4⟩) ∧
                  (∀ r, t.keyRef = some r → s.keys.pool[r.entry].stamp = r.stamp →
                    s.judge (some t) = ⟨10, .descramble s.keys.pool[r.entry].key t.service t.cellCount⟩))))))))) ∧
  (∀ (s : State) (e : ServiceEntry) (v : Option EventEntry),
    (e.cls = .free → s.entitlementSlate e v = none) ∧
    (e.cls = .tier →
      ((s.msgs.room.state = .occupied ∨ s.msgs.room.state = .checkout) →
        s.entitlementSlate e v = if s.msgs.room.tiers.getLsbD e.tier then none else some 2) ∧
      (s.msgs.room.state = .vacant →
        s.entitlementSlate e v = if s.msgs.policy.vacantTiers.getLsbD e.tier then none else some 2)) ∧
    (e.cls = .pay →
      (v = none → s.entitlementSlate e v = some 2) ∧
      (∀ ev, v = some ev →
        let entitled := (∃ p ∈ s.purchases.entries, p.event = ev.id) ∨
          (s.msgs.room.state = .occupied ∧ ev.freeLook = true ∧ ev.used < s.msgs.policy.allowance)
        let ended := ev.freeLook = true ∧ 0 < s.msgs.policy.allowance ∧ s.msgs.policy.allowance ≤ ev.used
        (entitled → s.entitlementSlate e v = none) ∧
        (¬entitled → ended → s.entitlementSlate e v = some 3) ∧
        (¬entitled → ¬ended → s.entitlementSlate e v = some 2)))) ∧
  (∀ (s : State) (t : SlotTag) (i : Fin 8), ∃ h b, s.slateVerdict t i = .slate h b ∧
    headerService h = t.service ∧ headerKind h = .slate ∧ headerPhase h = .clear ∧ headerSpare h = 0#6 ∧
    headerCount h = t.cellCount ∧ headerTag h = t.eventTag ∧ byteOf h 6 = 120#8 ∧ headerCheck h = headerSum h ∧
    (i = 0 → b = 0#960) ∧
    (∀ n : Fin 7, i.val = n.val + 1 → b = match s.slates.slates[n].inUse with | some l => l.bytes | none => 0#960)) ∧
  (∀ (s : State) (n : BitVec 12),
    ((∃ g ∈ s.lock.grants, g.scope = .all ∨ g.scope = .service n) → s.limit n = s.msgs.policy.hotelCeiling) ∧
    ((∀ g ∈ s.lock.grants, g.scope ≠ .all ∧ g.scope ≠ .service n) →
      s.limit n = min s.msgs.policy.hotelCeiling s.lock.guestCeiling))

/-- For a content cell of a known service with a sound header, a rating above the hotel ceiling gives a slate, and one above the effective
ceiling gives one unless a grant covers the service (the law of R62). A content cell of a PAY service in a slot whose tag is valid is
delivered otherwise than as a slate only while the purchase list holds an entry for its event, or while the room is OCCUPIED and the
event's free look is below the allowance (the law of R64). -/
def Obligations.NoPayloadWithoutRight : Prop :=
  (∀ (s : State) (t : SlotTag) (e : ServiceEntry), s.slots.service t.service = some e → t.damaged = false →
    t.kind.isContent = true →
    let rating := match s.events.byTag t.service t.eventTag with | some v => v.rating | none => e.rating
    (s.msgs.policy.hotelCeiling < rating → ∃ h b, (s.judge (some t)).verdict = .slate h b) ∧
    (min s.msgs.policy.hotelCeiling s.lock.guestCeiling < rating →
      (∃ h b, (s.judge (some t)).verdict = .slate h b) ∨ (∃ g ∈ s.lock.grants, g.coversService t.service = true))) ∧
  (∀ (s : State) (t : SlotTag) (e : ServiceEntry), s.slots.service t.service = some e → e.cls = .pay →
    t.kind.isContent = true → (∀ h b, (s.judge (some t)).verdict ≠ .slate h b) →
    ∃ v, s.events.byTag t.service t.eventTag = some v ∧
      ((∃ p ∈ s.purchases.entries, p.event = v.id) ∨
        (s.msgs.room.state = .occupied ∧ v.freeLook = true ∧ v.used < s.msgs.policy.allowance)))

/-- The words of a judged read within one slot: as stored; the payload words exclusive-or F of their seeds and the header as stored;
or the synthesised header and the slate's words, whatever memory holds. Nothing else changes. A read
without a verdict returns the words as stored. A burst with several judged portions returns the words of each by its own verdict and its
place in its own slot, and the words of no judged portion as stored (R1, R55, R56, R59, R66, R67, R69; the words are kept in the
model's field of log 24). -/
def Obligations.ReadWordsReturned : Prop :=
  (∀ (s : State) (r : ReadTxn) (k : Nat) (v : Verdict), s.settled →
    s.path.underWay = some (.pSide (.read r [⟨0, k, r.len, v⟩])) →
    ∃ words, exec .readWordsReturn s = .next { s with path := { s.path with
        underWay := none, readReturn := some ⟨r.initiator, r.addr, words⟩ } } ∧ words.length = r.len ∧
      ∀ j, j < r.len →
        let stored := s.mem.word (r.addr.toNat + 8 * j)
        (v = .pass → words[j]? = some stored) ∧
        (∀ key service count, v = .descramble key service count →
          (k + j = 0 → words[j]? = some stored) ∧
          (k + j ≠ 0 → words[j]? = some (stored ^^^
            mix (key ^^^ BitVec.ofNat 64 (service.toNat * 2 ^ 32 + count.toNat * 2 ^ 8 + (k + j)))))) ∧
        (∀ header bytes, v = .slate header bytes →
          (k + j = 0 → words[j]? = some header) ∧
          (k + j ≠ 0 → words[j]? = some (bytes.extractLsb' (64 * (k + j - 1)) 64)))) ∧
  (∀ (s : State) (r : ReadTxn), s.settled → s.path.underWay = some (.pSide (.read r [])) →
    exec .readWordsReturn s = .next { s with path := { s.path with
      underWay := none
      readReturn := some ⟨r.initiator, r.addr, (List.range r.len).map fun j => s.mem.word (r.addr.toNat + 8 * j)⟩ } }) ∧
  (∀ (s : State) (r : ReadTxn) (held : List HeldPortion), s.settled → s.path.underWay = some (.pSide (.read r held)) →
    held.Pairwise (fun h h' => h.start + h.count ≤ h'.start) →
    ∃ words, exec .readWordsReturn s = .next { s with path := { s.path with
        underWay := none, readReturn := some ⟨r.initiator, r.addr, words⟩ } } ∧ words.length = r.len ∧
      ∀ j, j < r.len →
        let stored := s.mem.word (r.addr.toNat + 8 * j)
        ((∀ h ∈ held, j < h.start ∨ h.start + h.count ≤ j) → words[j]? = some stored) ∧
        (∀ h ∈ held, h.start ≤ j → j < h.start + h.count →
          let k := h.first + (j - h.start)
          (h.verdict = .pass → words[j]? = some stored) ∧
          (∀ key service count, h.verdict = .descramble key service count →
            words[j]? = some (if k = 0 then stored else stored ^^^
              mix (key ^^^ BitVec.ofNat 64 (service.toNat * 2 ^ 32 + count.toNat * 2 ^ 8 + k)))) ∧
          (∀ header bytes, h.verdict = .slate header bytes →
            words[j]? = some (if k = 0 then header else bytes.extractLsb' (64 * (k - 1)) 64))))

/-! ### Control cells, index words and passed transactions -/

/-- While the control ring is watched, a whole, fully enabled write of the ring's writer with a sound CONTROL header joins the intake
queue, or is counted as dropped when the queue holds 8; any other write there is passed (R147, R148). -/
def Obligations.ControlCellTaken : Prop :=
  ∀ (s : State) (w : WriteTxn) (slot k : Nat) (win : Window) (x : WriteWord) (xs : List WriteWord),
    s.accepts (.write w) → s.path.control = some win → w.words = x :: xs → s.inControlSlot slot k w.addr w.words.length →
    let isCell := s.msgs.watching = true ∧ w.initiator = win.writer ∧ k = 0 ∧ w.words.length = 16 ∧
      (∀ y ∈ w.words, y.enables = 0xFF#8) ∧ headerDamaged x.data = false ∧ headerKind x.data = .control
    (isCell → s.msgs.intake.length < 8 →
      exec (.controlSlotWrite w) s = .next
        ({ s with msgs := { s.msgs with intake := s.msgs.intake ++ [Message.mk (xs.map WriteWord.data)] } }.joined (.write w))) ∧
    (isCell → 8 ≤ s.msgs.intake.length →
      exec (.controlSlotWrite w) s = .next
        ({ s with msgs := { s.msgs with
            dropped := if s.msgs.dropped < 65535 then s.msgs.dropped + 1 else s.msgs.dropped } }.joined (.write w))) ∧
    (¬isCell → exec (.controlSlotWrite w) s = .next (s.joined (.write w)))

/-- One-word writes of the index block: a fully enabled write to word 0, 1 or 2 is taken by the tests of R10 and R11, and all others are
ignored (R9 to R11). The attention line then stands by the consume values as taken, but stays deasserted before the START notice's index
write is granted (R19, R177). A burst over several index words is taken word by word in ascending order, by either of the two rows,
whichever words it covers: what a burst does follows where it goes, which is log 12's choice. -/
def Obligations.IndexWordsTakenOrIgnored : Prop :=
  (∀ (s : State) (w : WriteTxn) (x : WriteWord) (n : Nat),
    s.accepts (.write w) → w.words = [x] → n < 8 → w.addr.toNat = s.path.anchorBase + 0xC00 + 8 * n →
    let v : BitVec 16 := x.data.extractLsb' 0 16
    (n = 0 → x.enables = 0xFF#8 →
      exec (.requestProduceWrite w) s = .next
        ({ s with req := { s.req with requestProduce :=
            if (v - s.req.requestConsume).toNat ≤ 16 ∧ ¬(s.req.service ≠ Service.idle ∧ v = s.req.requestConsume) then v
            else s.req.requestProduce } }.joined (.write w))) ∧
    (n = 1 → x.enables = 0xFF#8 →
      exec (.consumeIndexWrite w) s = .next
        ({ s with req := { s.req with answerConsume :=
            if (v - s.req.answerConsume).toNat ≤ (s.req.answerProduce - s.req.answerConsume).toNat then v
            else s.req.answerConsume } }.joined (.write w))) ∧
    (n = 2 → x.enables = 0xFF#8 →
      exec (.consumeIndexWrite w) s = .next
        ({ s with req := { s.req with billConsume :=
            if (v - s.req.billConsume).toNat ≤ (s.req.billProduce - s.req.billConsume).toNat then v
            else s.req.billConsume } }.joined (.write w))) ∧
    ((3 ≤ n ∨ x.enables ≠ 0xFF#8) → exec (.indexWordWriteIgnored w) s = .next (s.joined (.write w)))) ∧
  (∀ (s : State) (w : WriteTxn) (n : Nat), s.accepts (.write w) → n + w.words.length ≤ 8 →
    w.addr.toNat = s.path.anchorBase + 0xC00 + 8 * n →
    let q := (List.range w.words.length).foldl (fun q j => q.indexWord (n + j) (w.words.getD j ⟨0#64, 0#8⟩)) s.req
    exec (.requestProduceWrite w) s = .next ({ s with req := q }.joined (.write w)) ∧
    exec (.consumeIndexWrite w) s = .next ({ s with req := q }.joined (.write w))) ∧
  (∀ (s : State) (w : WriteTxn) (x : WriteWord) (n : Nat),
    s.accepts (.write w) → w.words = [x] → (n = 1 ∨ n = 2) → x.enables = 0xFF#8 → w.addr.toNat = s.path.anchorBase + 0xC00 + 8 * n →
    ∃ u, exec (.consumeIndexWrite w) s = .next u ∧
      (u.attention = true ↔ s.req.startGranted = true ∧
        (s.req.writtenAnswer ≠ u.req.answerConsume ∨ s.req.writtenBill ≠ u.req.billConsume)))

/-- A transaction that falls nowhere the part acts on, and a read by an initiator in no attached ring's reader set, join the P-side line and
change nothing else (R3, R67), under either row a read arrives by (log 12). While the P-side holds 8 transactions it accepts none:
nothing changes (R2; log 7). -/
def Obligations.PassedTransactionsTouchNothing : Prop :=
  ((∀ (s : State) (w : WriteTxn), s.accepts (.write w) → s.passedOver w.addr w.words.length →
    exec (.passedTransactionArrival (.write w)) s = .next (s.joined (.write w))) ∧
  (∀ (s : State) (r : ReadTxn), s.accepts (.read r) →
    (∀ j ring slot, j < r.len → (s.path.locate (r.addr.toNat + 8 * j)).1 ≠ .streamSlot ring slot) →
    exec (.passedTransactionArrival (.read r)) s = .next (s.joined (.read r [])))) ∧
  (∀ (s : State) (r : ReadTxn), s.accepts (.read r) →
    (∀ (ring : Fin 4) (win : Window), s.path.streams[ring] = some win →
      win.readers.getLsbD r.initiator.toNat = false ∨ s.msgs.policy.readers.getLsbD r.initiator.toNat = false) →
    exec (.streamSlotRead r) s = .next (s.joined (.read r [])) ∧
    exec (.passedTransactionArrival (.read r)) s = .next (s.joined (.read r []))) ∧
  (∀ (s : State) (c : Instr) (t : Txn), s.settled → c.arriving = some t → t.ok = true →
    Config.pSideCapacity ≤ s.path.pSide.length → exec c s = .next s)

/-! ### The memory side -/

/-- The arbiter's grants with nothing under way, the written values of R19 with them; a write under way is performed first, and the
grant is then the usual one (log 2). Own transactions are issued in order into a queue of 16, those it has no place for waiting in order
(R17, R18; log 22). The attention line is asserted while a written value differs from the consume value of its ring, but not before the
index write behind the START notice is granted, the first of word 4 to carry a value other than 0 (log 38); the grant of an own write of
word 4 or 5, and no other grant, moves what the line depends on (R19, R177). -/
def Obligations.GrantFollowsTheCount : Prop :=
  (∀ s : State, s.settled → s.path.underWay = none →
    let pGrant (c : Carried) (rest : List Carried) (n : Nat) : State :=
      { s with path := { s.path with pSide := rest, underWay := some (.pSide c), ownWait := n } }
    let ownGrant (o : OwnTxn) (rest : List OwnTxn) : State :=
      { s with
        path := { s.path with own := rest, underWay := some (.own o), ownWait := 0 }.fill
        req := { s.req with
          writtenAnswer := match o with | .index .answerProduce v => v | _ => s.req.writtenAnswer
          writtenBill := match o with | .index .billProduce v => v | _ => s.req.writtenBill
          startGranted := match o with | .index .answerProduce v => s.req.startGranted || decide (v ≠ 0#16) | _ => s.req.startGranted } }
    (s.path.pSide = [] → s.path.own = [] → exec .msideGrant s = .next s) ∧
    (∀ c rest, s.path.pSide = c :: rest → s.path.own = [] →
      exec .msideGrant s = .next (pGrant c rest s.path.ownWait)) ∧
    (∀ o rest, s.path.pSide = [] → s.path.own = o :: rest → exec .msideGrant s = .next (ownGrant o rest)) ∧
    (∀ c prest o orest, s.path.pSide = c :: prest → s.path.own = o :: orest → s.path.ownWait < 4 →
      exec .msideGrant s = .next (pGrant c prest (s.path.ownWait + 1))) ∧
    (∀ c prest o orest, s.path.pSide = c :: prest → s.path.own = o :: orest → 4 ≤ s.path.ownWait →
      exec .msideGrant s = .next (ownGrant o orest))) ∧
  (∀ (s : State) (g : Granted) (a : Nat) (ws : List WriteWord), s.settled → s.path.underWay = some g →
    g.writes s.path.anchorBase = some (a, ws) →
    exec .msideGrant s = exec .msideGrant { s with
      mem := s.mem.setWords a ws, path := { s.path with underWay := none } }) ∧
  (∀ (p : PathUnit) (txns : List OwnTxn),
    (p.issue txns).own ++ (p.issue txns).toIssue = p.own ++ p.toIssue ++ txns ∧
    (p.own.length ≤ 16 → (p.issue txns).own.length ≤ 16 ∧ ((p.issue txns).toIssue = [] ∨ (p.issue txns).own.length = 16)) ∧
    (p.toIssue = [] → p.own.length + txns.length ≤ 16 → p.issue txns = { p with own := p.own ++ txns })) ∧
  (∀ s : State, (s.attention = true ↔ s.req.startGranted = true ∧
      (s.req.writtenAnswer ≠ s.req.answerConsume ∨ s.req.writtenBill ≠ s.req.billConsume)) ∧
    (s.settled → s.path.underWay = none →
      ((s.path.own = [] ∨ (s.path.pSide ≠ [] ∧ s.path.ownWait < 4)) →
        ∃ u, exec .msideGrant s = .next u ∧ u.attention = s.attention) ∧
      (∀ o rest, s.path.own = o :: rest → (s.path.pSide = [] ∨ 4 ≤ s.path.ownWait) → ∃ u, exec .msideGrant s = .next u ∧
        (∀ v, o = .index .answerProduce v →
          (u.attention = true ↔ (s.req.startGranted = true ∨ v ≠ 0#16) ∧
            (v ≠ s.req.answerConsume ∨ s.req.writtenBill ≠ s.req.billConsume))) ∧
        (∀ v, o = .index .billProduce v →
          (u.attention = true ↔ s.req.startGranted = true ∧
            (s.req.writtenAnswer ≠ s.req.answerConsume ∨ v ≠ s.req.billConsume))) ∧
        ((∀ v, o ≠ .index .answerProduce v ∧ o ≠ .index .billProduce v) → u.attention = s.attention))))

/-- A write under way has reached memory when the next grant is made: the enabled bytes it carries stand at its addresses, every other
byte reads as before, and a read under way holds the next grant (R1, R18; the moment is log 2's). -/
def Obligations.GrantedWriteReachesMemory : Prop :=
  (∀ (s : State) (g : Granted) (a : Nat) (ws : List WriteWord), s.settled → s.memOk → s.path.underWay = some g →
    g.writes s.path.anchorBase = some (a, ws) →
    ∃ t, exec .msideGrant s = .next t ∧
      (∀ c, c < a ∨ a + 8 * ws.length ≤ c → t.mem.get c = s.mem.get c) ∧
      (∀ j i x, ws[j]? = some x → i < 8 →
        t.mem.get (a + 8 * j + i) = if x.enables.getLsbD i then byteOf x.data i else s.mem.get (a + 8 * j + i))) ∧
  (∀ (s : State) (g : Granted), s.settled → s.path.underWay = some g → g.writes s.path.anchorBase = none →
    exec .msideGrant s = .next s)

/-! ### Requests: taking, rings and tables -/

/-- A request is taken when the part is RUNNING and IDLE, one waits, the answer ring has a free record, no notice is pending and the
own-traffic queue has a place: the own read of its record is issued. The row of a request kind does nothing while no record of that
kind is fetched, and a record of no request kind is answered UNKNOWN_REQUEST with no result words and no other effect (R17, R169, R170;
log 7). -/
def Obligations.RequestTakenAndRouted : Prop :=
  (∀ s : State, s.settled →
    let q := s.req
    let may := q.startUp = .running ∧ q.service = .idle ∧ q.requestProduce ≠ q.requestConsume ∧
      (q.answerProduce - q.answerConsume).toNat < 16 ∧ q.notices = [] ∧ s.path.toIssue = [] ∧ s.path.own.length < 16
    (may → exec .requestTake s = .next { s with
      req := { q with service := .fetching }
      path := { s.path with own := s.path.own ++ [.fetch (q.requestConsume.toNat % 16)] } }) ∧
    (¬may → exec .requestTake s = .next s)) ∧
  ((∀ (s : State) (code : Nat) (row : Instr), s.settled → requestRow code = some row →
    (∀ r, s.fetched = some r → r.kind.toNat ≠ code) → exec row s = .next s) ∧
  (∀ (s : State) (r : Request), s.settled → s.fetched = some r → requestRow r.kind.toNat = none →
    exec .unknownRequest s = .next (s.replied r .unknownRequest [])) ∧
  (∀ (s : State) (r : Request), s.settled → s.fetched = some r → (requestRow r.kind.toNat).isSome = true →
    exec .unknownRequest s = .next s))

/-- ATTACH_RING: its four checks in order, and the ring attached with its tags invalid or the control ring watched (R14, R15). -/
def Obligations.AttachRingServed : Prop :=
  ∀ (s : State) (r : Request), s.serving 1 r → s.path.WindowsSound →
    let ring := r.arg 1
    let base := r.arg 2
    let slots := r.arg 3
    let w : Window := ⟨base, slots, BitVec.ofNat 4 (r.arg 4), if ring = 4 then 0#16 else BitVec.ofNat 16 (r.arg 5)⟩
    let bad := 4 < ring ∨ 0xFFFFFFFF < base ∨ base % 128 ≠ 0 ∨ (ring = 4 ∧ (slots < 8 ∨ 256 < slots)) ∨
      (ring ≠ 4 ∧ (slots < 16 ∨ 1024 < slots ∨ 0xFFFF < r.arg 5)) ∨ 15 < r.arg 4
    let overlap := (∃ a, w.covers a = true ∧ (s.path.inAnchor a ∨ ∃ n v, n ≤ 4 ∧ s.path.ring n = some v ∧ v.covers a = true)) ∨
      0x100000000 < base + 128 * slots
    let full := ring < 4 ∧ 2048 < s.path.streamSlots + slots
    (bad → exec .attachRing s = .next (s.replied r .badArgument [])) ∧
    (¬bad → (s.path.ring ring).isSome = true → exec .attachRing s = .next (s.replied r .ringBusy [])) ∧
    (¬bad → s.path.ring ring = none → overlap → exec .attachRing s = .next (s.replied r .overlap [])) ∧
    (¬bad → s.path.ring ring = none → ¬overlap → full → exec .attachRing s = .next (s.replied r .noSlots [])) ∧
    (¬bad → s.path.ring ring = none → ¬overlap → ¬full →
      (∀ h : ring < 4, exec .attachRing s = .next
        { s.replied r .ok [single (s.path.streamSlots + slots), single (base + 128 * slots)] with
          path := { s.path with underWay := none, streams := s.path.streams.set ring (some w) }
          slots := { s.slots with tags := s.slots.tags.set ring (List.replicate slots none) } }) ∧
      (ring = 4 → exec .attachRing s = .next
        { s.replied r .ok [single s.path.streamSlots, single (base + 128 * slots)] with
          path := { s.path with underWay := none, control := some w }
          msgs := { s.msgs with watching := true } }))

/-- DETACH_RING: a stream ring's window and tags go and its tags' references are dropped; the control ring is watched no more and the
intake queue stays (R16, R28). A dropped reference whose stamp matches lowers its entry's count by one; a RETIRED entry whose count
so reaches 0 becomes FREE and leaves the retire order; a stale reference changes nothing (R49, R50). -/
def Obligations.DetachRingServed : Prop :=
  (∀ (s : State) (r : Request), s.serving 2 r →
    (4 < r.arg 1 → exec .detachRing s = .next (s.replied r .badArgument [])) ∧
    (r.arg 1 ≤ 4 → s.path.ring (r.arg 1) = none → exec .detachRing s = .next (s.replied r .ringNotAttached [])) ∧
    (∀ (h : r.arg 1 < 4) (w : Window), s.path.streams[r.arg 1] = some w → exec .detachRing s = .next
      { s.replied r .ok [single (s.path.streamSlots - w.slots)] with
        path := { s.path with underWay := none, streams := s.path.streams.set (r.arg 1) none }
        keys := s.keys.dropTags s.slots.tags[r.arg 1]
        slots := { s.slots with tags := s.slots.tags.set (r.arg 1) [] } }) ∧
    (∀ w : Window, r.arg 1 = 4 → s.path.control = some w → exec .detachRing s = .next
      { s.replied r .ok [single s.path.streamSlots] with
        path := { s.path with underWay := none, control := none }
        msgs := { s.msgs with watching := false } })) ∧
  (∀ (k : KeyPool) (l : List (Option SlotTag)), k.dropTags [] = k ∧ k.dropTags (none :: l) = k.dropTags l ∧
    (∀ t : SlotTag, k.dropTags (some t :: l) = (k.dropOption t.keyRef).dropTags l)) ∧
  (∀ (k : KeyPool) (r : KeyRef), k.dropOption none = k ∧
    (k.pool[r.entry].stamp ≠ r.stamp → k.dropOption (some r) = k) ∧
    (k.pool[r.entry].stamp = r.stamp → 1 ≤ k.pool[r.entry].refs →
      let e := k.pool[r.entry]
      ((e.state ≠ .retired ∨ 1 < e.refs) →
        k.dropOption (some r) = { k with pool := k.pool.set r.entry { e with refs := e.refs - 1 } }) ∧
      (e.state = .retired → e.refs = 1 → k.dropOption (some r) = { k with
        pool := k.pool.set r.entry { e with refs := 0, state := .free }
        retireOrder := k.retireOrder.filter fun i => i != r.entry })))

/-- SERVICE_INFO and KEY_INFO in both forms, word by word; a clear flag of 1 clears the discontinuity count, or the reclaim count, after it has been
read (R37 to R39, R57, R58). -/
def Obligations.ServiceAndKeyInfoServed : Prop :=
  (∀ (s : State) (r : Request), s.serving 3 r →
    ((4095 < r.arg 1 ∧ r.arg 1 ≠ 65535 ∨ 1 < r.arg 2) → exec .serviceInfo s = .next (s.replied r .badArgument [])) ∧
    (r.arg 1 = 65535 → r.arg 2 ≤ 1 → exec .serviceInfo s = .next (s.replied r .ok
      [single s.slots.services.length, single (s.slots.validTags 0), single (s.slots.validTags 1),
       single (s.slots.validTags 2), single (s.slots.validTags 3)])) ∧
    (r.arg 1 ≤ 4095 → r.arg 2 ≤ 1 → s.slots.service (BitVec.ofNat 12 (r.arg 1)) = none →
      exec .serviceInfo s = .next (s.replied r .notFound [])) ∧
    (∀ e, r.arg 1 ≤ 4095 → r.arg 2 ≤ 1 → s.slots.service (BitVec.ofNat 12 (r.arg 1)) = some e →
      exec .serviceInfo s = .next
        { s.replied r .ok [single e.cls.code, single e.tier, single e.keySet.val, single e.rating,
            single (match e.expected with | some c => c.toNat | none => 65536), single e.discontinuities] with
          slots := if r.arg 2 = 1 then
              s.slots.mapService (BitVec.ofNat 12 (r.arg 1)) fun e => { e with discontinuities := 0 }
            else s.slots })) ∧
  (∀ (s : State) (r : Request), s.serving 4 r →
    ((63 < r.arg 1 ∧ r.arg 1 ≠ 65535 ∨ 1 < r.arg 2) → exec .keyInfo s = .next (s.replied r .badArgument [])) ∧
    (∀ h : r.arg 1 < 64, r.arg 2 ≤ 1 →
      let set := s.keys.sets[r.arg 1]
      let index (c : Option (Fin 192)) : Nat := match c with | some i => i.val | none => 256
      let count (c : Option (Fin 192)) : Nat := match c with | some i => s.keys.pool[i].refs | none => 0
      let staged (k : Option Word) : Nat := match k with | some _ => 1 | none => 0
      exec .keyInfo s = .next (s.replied r .ok
        [single (index set.phase0.current), single (count set.phase0.current), single (staged set.phase0.staged),
         single (index set.phase1.current), single (count set.phase1.current), single (staged set.phase1.staged)])) ∧
    (r.arg 1 = 65535 → r.arg 2 ≤ 1 → exec .keyInfo s = .next
      { s.replied r .ok
          [single ((List.finRange 192).countP fun i => s.keys.pool[i].state = .free),
           single ((List.finRange 192).countP fun i => s.keys.pool[i].state = .current), single s.keys.retireOrder.length,
           single (((List.finRange 64).countP fun i => s.keys.sets[i].phase0.staged.isSome) +
             (List.finRange 64).countP fun i => s.keys.sets[i].phase1.staged.isSome),
           single ((List.finRange 64).countP fun i =>
             s.keys.sets[i].phase0.current.isSome || s.keys.sets[i].phase1.current.isSome),
           single s.keys.reclaims] with
        keys := if r.arg 2 = 1 then { s.keys with reclaims := 0 } else s.keys }))

/-- SLATE_INFO answers the set of loaded slates, the set of slates with exactly one half staged, and the load numbers, and changes
nothing else; with the slate table as a reset leaves it the answer is 1, 0 and 0 (R74). -/
def Obligations.SlateInfoServed : Prop :=
  (∀ (s : State) (r : Request), s.serving 5 r →
    ∃ loaded half loads : Word, exec .slateInfo s = .next (s.replied r .ok [loaded, half, loads]) ∧
      loaded.getLsbD 0 = true ∧ half.getLsbD 0 = false ∧
      (∀ i : Fin 7, loaded.getLsbD (i.val + 1) = s.slates.slates[i].inUse.isSome) ∧
      (∀ i : Fin 7, half.getLsbD (i.val + 1) =
        match s.slates.slates[i].staging with | none => false | some g => g.half0.isSome != g.half1.isSome) ∧
      (∀ i : Fin 7, loads.extractLsb' (8 * i.val) 8 =
        match s.slates.slates[i].inUse with | none => 0#8 | some l => l.load) ∧
      (∀ i, 8 ≤ i → loaded.getLsbD i = false ∧ half.getLsbD i = false) ∧ loads.extractLsb' 56 8 = 0#8) ∧
  (∀ (s : State) (r : Request), s.serving 5 r → s.slates = State.reset.slates →
    exec .slateInfo s = .next (s.replied r .ok [1#64, 0#64, 0#64]))

/-! ### Requests: the lock unit -/

/-- SET_PIN, check by check (R79 to R82, R84). A PIN argument is well-formed when byte 0 counts 4 to 8 digits and each digit, in its 4-bit
place from bit 8 up, is at most 9; it is then those digits in order, and nothing else of the word is examined (R79, R180). -/
def Obligations.SetPinServed : Prop :=
  (∀ (w : Word) (p : Pin), parsePin w = some p ↔ 4 ≤ p.length ∧ p.length ≤ 8 ∧ (w.extractLsb' 0 8).toNat = p.length ∧
    ∀ i d, p[i]? = some d → d.toNat ≤ 9 ∧ d = w.extractLsb' (8 + 4 * i) 4) ∧
  ∀ (s : State) (r : Request), s.serving 6 r →
    let given := (r.word 2).getLsbD 56
    let inStay := s.msgs.room.state = .occupied ∨ s.msgs.room.state = .checkout
    let bad := parsePin (r.word 1) = none ∨ (given = true ∧ parsePin (r.word 2) = none)
    (bad → exec .setPin s = .next (s.replied r .badArgument [])) ∧
    (¬bad → ¬inStay → exec .setPin s = .next (s.replied r .wrongState [])) ∧
    (∀ new, ¬bad → inStay → parsePin (r.word 1) = some new →
      (s.lock.pin = none → exec .setPin s = .next (s.settingServed { s.lock with pin := some new } r .ok [])) ∧
      (∀ held, s.lock.pin = some held →
        (∀ e, s.lock.lockout = some e →
          exec .setPin s = .next (s.replied r .pinLockout [single (e - s.events.uptime)])) ∧
        (s.lock.lockout = none → given = true → parsePin (r.word 2) = some held →
          exec .setPin s = .next (s.settingServed { s.lock with pin := some new, failures := 0 } r .ok [])) ∧
        (s.lock.lockout = none → (given = false ∨ parsePin (r.word 2) ≠ some held) →
          exec .setPin s = .next (s.settingServed s.lockAfterWrongPin r .wrongPin s.wrongPinWords))))

/-- SET_GUEST_CEILING, check by check; a changed ceiling removes every grant (R80 to R82, R85). -/
def Obligations.SetGuestCeilingServed : Prop :=
  ∀ (s : State) (r : Request), s.serving 7 r →
    let bad := parsePin (r.word 1) = none ∨ 7 < r.arg 2
    (bad → exec .setGuestCeiling s = .next (s.replied r .badArgument [])) ∧
    (∀ e, ¬bad → s.lock.lockout = some e →
      exec .setGuestCeiling s = .next (s.replied r .pinLockout [single (e - s.events.uptime)])) ∧
    (¬bad → s.lock.lockout = none → s.lock.pin = none → exec .setGuestCeiling s = .next (s.replied r .noPin [])) ∧
    (∀ held, ¬bad → s.lock.lockout = none → s.lock.pin = some held →
      (parsePin (r.word 1) ≠ some held →
        exec .setGuestCeiling s = .next (s.settingServed s.lockAfterWrongPin r .wrongPin s.wrongPinWords)) ∧
      (parsePin (r.word 1) = some held → r.arg 2 = s.lock.guestCeiling →
        exec .setGuestCeiling s = .next (s.settingServed { s.lock with failures := 0 } r .ok
          [single (min s.msgs.policy.hotelCeiling (r.arg 2)), single 0])) ∧
      (parsePin (r.word 1) = some held → r.arg 2 ≠ s.lock.guestCeiling →
        exec .setGuestCeiling s = .next (s.settingServed
          { s.lock with failures := 0, guestCeiling := r.arg 2, grants := [] } r .ok
          [single (min s.msgs.policy.hotelCeiling (r.arg 2)), single s.lock.grants.length])))

/-- UNLOCK, check by check, with the clamped span and the grant's expiry; a count above 0 offers a ROOM write (R80 to R82, R86). -/
def Obligations.UnlockServed : Prop :=
  ∀ (s : State) (r : Request), s.serving 8 r →
    let bad := parsePin (r.word 1) = none ∨ (4095 < r.arg 2 ∧ r.arg 2 ≠ 65535)
    let inStay := s.msgs.room.state = .occupied ∨ s.msgs.room.state = .checkout
    let span := max 60 (min 14400 (r.arg 3))
    let g : Grant := ⟨if r.arg 2 = 65535 then .all else .service (BitVec.ofNat 12 (r.arg 2)), s.events.uptime + span⟩
    let l : LockUnit := { s.lock with failures := 0, grants := addGrant g s.lock.grants }
    let results := [single span, single (s.events.uptime + span), single (addGrant g s.lock.grants).length]
    (bad → exec .unlock s = .next (s.replied r .badArgument [])) ∧
    (¬bad → ¬inStay → exec .unlock s = .next (s.replied r .wrongState [])) ∧
    (∀ e, ¬bad → inStay → s.lock.lockout = some e →
      exec .unlock s = .next (s.replied r .pinLockout [single (e - s.events.uptime)])) ∧
    (¬bad → inStay → s.lock.lockout = none → s.lock.pin = none → exec .unlock s = .next (s.replied r .noPin [])) ∧
    (∀ held, ¬bad → inStay → s.lock.lockout = none → s.lock.pin = some held →
      (parsePin (r.word 1) ≠ some held →
        exec .unlock s = .next (s.unlockServed s.lockAfterWrongPin r .wrongPin s.wrongPinWords)) ∧
      (parsePin (r.word 1) = some held → s.lock.failures = 0 →
        exec .unlock s = .next { s.replied r .ok results with lock := l }) ∧
      (parsePin (r.word 1) = some held → s.lock.failures ≠ 0 →
        exec .unlock s = .next (s.unlockServed l r .ok results)))

/-- UNLOCK at uptime u with span d adds a grant with expiry u + d. It replaces one of the same scope, or else evicts the first of the
earliest expiry from a list of 4, and stands at the end of the list; the limit for every service it covers is the hotel ceiling from
then on (R87). -/
def Obligations.GrantAddedAtTheEnd : Prop :=
  (∀ (g : Grant) (l : List Grant),
    ((∃ h ∈ l, h.scope = g.scope) → addGrant g l = l.filter (fun h => h.scope ≠ g.scope) ++ [g]) ∧
    ((∀ h ∈ l, h.scope ≠ g.scope) → l.length < 4 → addGrant g l = l ++ [g]) ∧
    ((∀ h ∈ l, h.scope ≠ g.scope) → l.length = 4 → ∃ front out back, l = front ++ out :: back ∧
      addGrant g l = front ++ back ++ [g] ∧ (∀ h ∈ front, out.expiry < h.expiry) ∧ (∀ h ∈ back, out.expiry ≤ h.expiry))) ∧
  (∀ (s : State) (r : Request) (held : Pin), s.serving 8 r → s.lock.pin = some held → parsePin (r.word 1) = some held →
    (s.msgs.room.state = .occupied ∨ s.msgs.room.state = .checkout) → s.lock.lockout = none →
    (r.arg 2 ≤ 4095 ∨ r.arg 2 = 65535) →
    let g : Grant := ⟨if r.arg 2 = 65535 then .all else .service (BitVec.ofNat 12 (r.arg 2)),
      s.events.uptime + max 60 (min 14400 (r.arg 3))⟩
    ∃ t, exec .unlock s = .next t ∧ t.lock.grants = addGrant g s.lock.grants ∧ t.events = s.events ∧ t.msgs = s.msgs ∧
      ∀ n, g.scope = .all ∨ g.scope = .service n → t.limit n = s.msgs.policy.hotelCeiling)

/-- LOCK_NOW removes every grant and answers how many; LOCK_INFO answers the lock state and changes nothing (R88, R89, R181). -/
def Obligations.LockNowAndLockInfoServed : Prop :=
  (∀ (s : State) (r : Request), s.serving 9 r → exec .lockNow s = .next
    { s.replied r .ok [single s.lock.grants.length] with lock := { s.lock with grants := [] } }) ∧
  (∀ (s : State) (r : Request), s.serving 10 r →
    let grant (i : Nat) : Nat × Nat := match s.lock.grants[i]? with
      | some g => ((match g.scope with | .all => 65535 | .service n => n.toNat), g.expiry - s.events.uptime)
      | none => (65534, 0)
    let pair (i : Nat) : Word := put 0 2 (grant i).1 ||| put 2 2 (grant i).2 ||| (put 4 2 (grant (i + 1)).1 ||| put 6 2 (grant (i + 1)).2)
    exec .lockInfo s = .next (s.replied r .ok
      [put 0 1 s.msgs.policy.hotelCeiling ||| put 1 1 s.lock.guestCeiling
         ||| put 2 1 (min s.msgs.policy.hotelCeiling s.lock.guestCeiling) ||| put 3 1 (if s.lock.pin.isSome then 1 else 0),
       single s.lock.failures, single (match s.lock.lockout with | some e => e - s.events.uptime | none => 0),
       single s.lock.grants.length, pair 0, pair 2]))

/-! ### Requests: events and purchases -/

/-- READ_EVENT finds an entry by its ID, or the one with the smallest ID at or above it, and answers its six words; nothing else
changes (R106, R107, R181). The sixth word is given where the seconds left fit their field (log 19). -/
def Obligations.ReadEventServed : Prop :=
  ∀ (s : State) (r : Request), s.serving 11 r →
    let bad := 0xFFFFFFFF < r.arg 1 ∨ 1 < r.arg 2
    (bad → exec .readEvent s = .next (s.replied r .badArgument [])) ∧
    (¬bad → ((r.arg 2 = 0 ∧ ∀ v ∈ s.events.entries, v.id.toNat ≠ r.arg 1) ∨
        (r.arg 2 = 1 ∧ ∀ v ∈ s.events.entries, v.id.toNat < r.arg 1)) →
      exec .readEvent s = .next (s.replied r .noEvent [])) ∧
    (∀ v, ¬bad → v ∈ s.events.entries → (∀ u ∈ s.events.entries, u.id = v.id → u = v) →
      ((r.arg 2 = 0 ∧ v.id.toNat = r.arg 1) ∨
        (r.arg 2 = 1 ∧ r.arg 1 ≤ v.id.toNat ∧ ∀ u ∈ s.events.entries, r.arg 1 ≤ u.id.toNat → v.id.toNat ≤ u.id.toNat)) →
      ∃ last, exec .readEvent s = .next (s.replied r .ok
        [put 0 4 v.id.toNat ||| put 4 4 v.title.toNat,
         put 0 2 v.service.toNat ||| put 2 1 v.tag.toNat ||| put 3 1 v.rating ||| put 4 1 (flag v.purchasable)
           ||| put 5 1 (flag v.freeLook) ||| put 6 1 (flag v.seen),
         put 0 4 v.start ||| put 4 4 v.duration,
         put 0 2 v.price ||| put 2 2 v.used ||| put 4 2
           (if s.msgs.room.state = .occupied ∧ v.freeLook = true ∧ v.used < s.msgs.policy.allowance then
             s.msgs.policy.allowance - v.used else 0),
         (match s.purchases.byEvent v.id with | none => 0#64 | some e => put 0 1 e.handle ||| put 1 1 e.state.code),
         last]) ∧
        (s.events.hotelTime = none → last = put 0 4 0xFFFFFFFF ||| put 4 4 0xFFFFFFFF) ∧
        (∀ h, s.events.hotelTime = some h → v.start + v.duration - h < 4294967296 →
          last = put 0 4 (h - v.start) ||| put 4 4 (v.start + v.duration - h)))

/-- QUOTE, check by check, with the charge and its steps; nothing else changes (R113, R115, R181). -/
def Obligations.QuoteServed : Prop :=
  ∀ (s : State) (r : Request), s.serving 12 r →
    (0xFFFFFFFF < r.arg 1 → exec .quote s = .next (s.replied r .badArgument [])) ∧
    (r.arg 1 ≤ 0xFFFFFFFF → s.msgs.room.state = .unbound → exec .quote s = .next (s.replied r .wrongState [])) ∧
    (r.arg 1 ≤ 0xFFFFFFFF → s.msgs.room.state ≠ .unbound →
      (s.events.hotelTime = none → exec .quote s = .next (s.replied r .noTime [])) ∧
      (∀ h, s.events.hotelTime = some h →
        (s.events.byId (BitVec.ofNat 32 (r.arg 1)) = none → exec .quote s = .next (s.replied r .noEvent [])) ∧
        (∀ v, s.events.byId (BitVec.ofNat 32 (r.arg 1)) = some v →
          let e := h - v.start
          (v.purchasable = false → exec .quote s = .next (s.replied r .notForSale [])) ∧
          (v.purchasable = true → v.duration ≤ e → exec .quote s = .next (s.replied r .eventOver [])) ∧
          (v.purchasable = true → e < v.duration → s.limit v.service < v.rating →
            exec .quote s = .next (s.replied r .locked [])) ∧
          (v.purchasable = true → e < v.duration → v.rating ≤ s.limit v.service →
            let p := s.msgs.policy
            let q := if e ≤ p.grace then 10000 else max (p.floor * 100) ((v.duration - e) * 10000 / v.duration)
            let b := (v.price * q + 5000) / 10000
            let a := (b * p.factor + 50) / 100
            let grid := (a + p.step - 1) / p.step * p.step
            let waived := s.purchases.titles.contains v.title
            let c := if waived then 0 else min grid p.maximum
            exec .quote s = .next (s.replied r .ok
              [put 0 2 c ||| put 2 1 (if waived then 1 else 0) ||| put 3 1 (if p.maximum < grid then 1 else 0),
               single q, single b, single a, single e,
               single (s.msgs.room.cap - (s.msgs.room.spent + s.purchases.held))])))))

/-- PURCHASE, check by check, and the entry a purchase adds with its charge, handle and answer (R109, R116, R117). The handle it gives
is the first one not in use, counting up from the next-handle value and passing from 255 to 1, when there is one. -/
def Obligations.PurchaseServed : Prop :=
  (∀ (s : State) (r : Request), s.serving 13 r →
    (0xFFFFFFFF < r.arg 1 → exec .purchase s = .next (s.replied r .badArgument [])) ∧
    (r.arg 1 ≤ 0xFFFFFFFF →
      (s.msgs.room.suspended = true → exec .purchase s = .next (s.replied r .suspended [])) ∧
      (s.msgs.room.suspended = false → s.msgs.room.state ≠ .occupied → exec .purchase s = .next (s.replied r .wrongState [])) ∧
      (s.msgs.room.suspended = false → s.msgs.room.state = .occupied →
        (s.events.hotelTime = none → exec .purchase s = .next (s.replied r .noTime [])) ∧
        (∀ h, s.events.hotelTime = some h →
          (s.events.byId (BitVec.ofNat 32 (r.arg 1)) = none → exec .purchase s = .next (s.replied r .noEvent [])) ∧
          (∀ v, s.events.byId (BitVec.ofNat 32 (r.arg 1)) = some v →
            (v.purchasable = false → exec .purchase s = .next (s.replied r .notForSale [])) ∧
            (v.purchasable = true → v.duration ≤ h - v.start → exec .purchase s = .next (s.replied r .eventOver [])) ∧
            (v.purchasable = true → h - v.start < v.duration → s.limit v.service < v.rating →
              exec .purchase s = .next (s.replied r .locked [])) ∧
            (v.purchasable = true → h - v.start < v.duration → v.rating ≤ s.limit v.service →
              (∀ e, s.purchases.byEvent v.id = some e →
                exec .purchase s = .next (s.replied r .alreadyBought [single e.handle])) ∧
              (s.purchases.byEvent v.id = none →
                let toCome := s.bills.log.length + s.purchases.entries.countP fun e => decide (0 < e.heldCharge)
                let c := (chargeOf s.msgs.policy s.purchases.titles v (h - v.start)).c
                let total := s.msgs.room.spent + s.purchases.held
                let handle := s.firstHandle 255 s.purchases.nextHandle
                let entry : PurchaseEntry := ⟨handle, v.id, v.title, .held, c, 0, none, h, .taken, false⟩
                let answer : Answer := ⟨r.kind, r.tag, .ok, [single handle, single c, single (s.msgs.room.cap - (total + c))]⟩
                let after := if c = 0 ∨ s.msgs.policy.threshold = 0 then some handle else none
                (8 ≤ s.purchases.entries.length → exec .purchase s = .next (s.replied r .listFull [])) ∧
                (s.purchases.entries.length < 8 → (s.store.state = .faulted ∨ 32 ≤ toCome) →
                  exec .purchase s = .next (s.replied r .billingUnavailable [])) ∧
                (s.purchases.entries.length < 8 → s.store.state = .good → toCome < 32 →
                  (s.msgs.room.cap < total + c → exec .purchase s = .next
                    (s.replied r .overCap [single c, single (s.msgs.room.cap - total)])) ∧
                  (total + c ≤ s.msgs.room.cap → exec .purchase s = .next { s with
                    path := { s.path with underWay := none }
                    purchases := { s.purchases with
                      entries := s.purchases.entries ++ [entry]
                      nextHandle := if handle < 255 then handle + 1 else 1 }
                    req := { s.req with service := .answering answer after } }))))))))) ∧
  (∀ s : State, 1 ≤ s.purchases.nextHandle → s.purchases.nextHandle ≤ 255 →
    (∃ h, 1 ≤ h ∧ h ≤ 255 ∧ s.handleInUse h = false) →
    let handle := s.firstHandle 255 s.purchases.nextHandle
    let counted (n : Nat) : Nat := (s.purchases.nextHandle - 1 + n) % 255 + 1
    1 ≤ handle ∧ handle ≤ 255 ∧ s.handleInUse handle = false ∧
      ∃ n, n < 255 ∧ handle = counted n ∧ ∀ m, m < n → s.handleInUse (counted m) = true)

/-- A charge lies between 0 and the per-purchase maximum; it is 0 for a title in the titles list; otherwise, unless the maximum
lowered it, it is the smallest multiple of the rounding step at or above the adjusted amount (R113, steps 5 to 7). -/
def Obligations.ChargeWithinBounds : Prop :=
  ∀ (p : Policy) (titles : List (BitVec 32)) (v : EventEntry) (e : Nat), 0 < p.step →
    let ch := chargeOf p titles v e
    ch.c ≤ p.maximum ∧ (v.title ∈ titles → ch.c = 0) ∧ (p.grace < e → p.floor * 100 ≤ ch.q) ∧ (e ≤ p.grace → ch.q = 10000) ∧
    (v.title ∉ titles → ch.lowered = true → ch.c = p.maximum) ∧
    (v.title ∉ titles → ch.lowered = false → p.step ∣ ch.c ∧ ch.a ≤ ch.c ∧ ch.c < ch.a + p.step)

/-- CANCEL of a HELD entry takes it off the list with its notice and answers the charge and what is held; any other entry is TOO_LATE
(R124). -/
def Obligations.CancelServed : Prop :=
  ∀ (s : State) (r : Request), s.serving 14 r →
    ((r.arg 1 = 0 ∨ 255 < r.arg 1) → exec .cancel s = .next (s.replied r .badArgument [])) ∧
    (1 ≤ r.arg 1 → r.arg 1 ≤ 255 → s.purchases.byHandle (r.arg 1) = none →
      exec .cancel s = .next (s.replied r .notFound [])) ∧
    (∀ e, 1 ≤ r.arg 1 → r.arg 1 ≤ 255 → s.purchases.byHandle (r.arg 1) = some e →
      (e.state ≠ .held → exec .cancel s = .next (s.replied r .tooLate [single e.state.code])) ∧
      (e.state = .held → s.purchases.handlesDistinct → exec .cancel s = .next { s with
        path := { s.path with underWay := none }
        purchases := { s.purchases with entries := s.purchases.entries.filter (·.handle != e.handle) }
        req := { s.req with
          notices := raiseIn (.purchase e.handle e.event .gone .cancelled e.charge e.seq) s.req.notices
          service := Service.answering ⟨r.kind, r.tag, .ok, [single e.charge, single (s.purchases.held - e.charge)]⟩ none } }))

/-- LIST_PURCHASES, BILL_INFO and STATUS answer their words and change nothing else (R128, R146, R175, R181). Of an entry without a
sequence number the field of the number reads 0 (log 36). BILL_INFO reports no COMMIT place in use when the scan found the store
unreadable, every place then being treated as empty (R144), and does not count a place that a failed write has damaged (log 39). -/
def Obligations.ReportsServed : Prop :=
  (∀ (s : State) (r : Request), s.serving 15 r →
    (255 < r.arg 1 → exec .listPurchases s = .next (s.replied r .badArgument [])) ∧
    (r.arg 1 = 0 → exec .listPurchases s = .next (s.replied r .ok
      [put 0 1 s.purchases.entries.length ||| put 4 4 s.purchases.held,
       single (entryBytes (·.handle) s.purchases.entries),
       single (entryBytes (fun e => e.state.code + 128 * e.origin.code) s.purchases.entries),
       single s.msgs.room.spent, single s.msgs.room.cap, single s.purchases.titles.length])) ∧
    (1 ≤ r.arg 1 → r.arg 1 ≤ 255 → s.purchases.byHandle (r.arg 1) = none →
      exec .listPurchases s = .next (s.replied r .notFound [])) ∧
    (∀ (e : PurchaseEntry) (i : Nat), 1 ≤ r.arg 1 → r.arg 1 ≤ 255 → s.purchases.handlesDistinct → e.handle = r.arg 1 →
      s.purchases.entries[i]? = some e → exec .listPurchases s = .next (s.replied r .ok
        [put 0 4 e.event.toNat ||| put 4 4 e.title.toNat,
         put 0 1 e.state.code ||| put 1 1 e.origin.code ||| put 2 1 (flag e.endNoted),
         put 0 2 e.charge ||| put 2 1 (flag e.seq.isSome) ||| put 4 4 (e.seq.getD 0),
         single e.watched, single e.taken, single i]))) ∧
  (∀ (s : State) (r : Request), s.serving 16 r → exec .billInfo s = .next (s.replied r .ok
    [put 0 1 s.bills.log.length ||| put 1 1 (s.bills.log.countP fun l => l.offer = .due)
       ||| put 2 1 (s.bills.log.countP fun l => l.offer ≠ .due),
     single (match s.bills.log.head? with | some l => l.record.seq | none => 0),
     single (match s.bills.log.getLast? with | some l => l.record.seq | none => 0),
     single (s.bills.counter.getD 0), single (s.bills.highestOffered.getD 0),
     put 0 1 s.store.state.code
       ||| put 1 1 (if s.req.bringUp = some .storeFault then 0
          else (List.finRange 48).countP fun i => match s.store.places.commits[i] with
            | .holds _ => true
            | _ => false)
       ||| put 2 1 s.store.queue.length
       ||| put 4 2 (s.store.line.map fun x => match x with | .one _ => 1 | .pair _ _ => 2).sum])) ∧
  (∀ (s : State) (r : Request) (b : BringUp), s.serving 17 r → s.req.bringUp = some b → exec .status s = .next (s.replied r .ok
    [put 0 1 s.msgs.room.state.code ||| put 1 1 (flag s.msgs.room.suspended) ||| put 2 1 b.code ||| put 3 1 s.store.state.code
       ||| put 4 1 s.purchases.entries.length ||| put 5 1 s.bills.log.length
       ||| put 6 1 (min s.msgs.policy.hotelCeiling s.lock.guestCeiling) ||| put 7 1 s.lock.grants.length,
     put 0 4 (s.events.hotelTime.getD 0) ||| put 4 4 s.events.uptime,
     put 0 4 s.msgs.room.stay ||| put 4 4 s.msgs.room.cap,
     put 0 4 s.msgs.room.spent ||| put 4 4 s.purchases.held,
     put 0 2 (match s.lock.lockout with | some e => e - s.events.uptime | none => 0) ||| put 2 2 s.msgs.dropped
       ||| put 4 2 (s.slots.validTags 0 + s.slots.validTags 1 + s.slots.validTags 2 + s.slots.validTags 3)
       ||| put 6 1 (192 - s.keys.countState .free) ||| put 7 1 (flag s.events.hotelTime.isSome)]))

/-! ### Records written into the anchor page -/

/-- The answer record and index words 3 and 4, the notice and index word 4, the bill notice and index word 5: what is issued, which
indices rise, and what else changes; while a condition fails nothing does (R12, R139, R140, R171, R174, R181; log 22). A bill notice
waits until the START notice has been written (R19, R177). A notice's words give its type and its flag's content (R173, R181). With no
answer ready, no flag pending, no binding or no DUE record, nothing happens (log 7). The codes of named values are R181's. -/
def Obligations.RecordsWritten : Prop :=
  (∀ (s : State) (a : Answer) (h : Option Nat), s.settled → s.req.service = .answering a h →
    let q := s.req
    let record := [put 0 2 a.kind.toNat ||| put 2 2 a.tag.toNat ||| put 4 2 a.outcome.code, a.results.getD 0 0#64,
      a.results.getD 1 0#64, a.results.getD 2 0#64, a.results.getD 3 0#64, a.results.getD 4 0#64, a.results.getD 5 0#64, 0#64]
    let t : State := { s with
      path := s.path.issue [.record (0x400 + 64 * (q.answerProduce.toNat % 16)) record,
        .index .requestConsume (q.requestConsume + 1), .index .answerProduce (q.answerProduce + 1)]
      req := { q with requestConsume := q.requestConsume + 1, answerProduce := q.answerProduce + 1, service := .idle } }
    (s.path.canIssue = true → h = none → exec .answerRecordWrite s = .next t) ∧
    (∀ handle, s.path.canIssue = true → h = some handle → exec .answerRecordWrite s = .next (t.beginCommit .part handle)) ∧
    (s.path.canIssue = false → exec .answerRecordWrite s = .next s)) ∧
  (∀ (s : State) (n : Notice) (rest : List Notice), s.settled → s.req.notices = n :: rest →
    let q := s.req
    let may := q.startUp = .running ∧ q.service = .idle ∧ (q.answerProduce - q.answerConsume).toNat < 16 ∧ s.path.canIssue = true
    let content : List Word := match n with
      | .start code serial room store =>
        [put 0 1 1, put 0 1 code.code ||| put 1 1 room.code ||| put 2 1 store.code, put 0 6 serial.toNat]
      | .room =>
        [put 0 1 2, put 0 1 s.msgs.room.state.code ||| put 1 1 (if s.msgs.room.suspended then 1 else 0), put 0 4 s.msgs.room.stay]
      | .purchase handle event state reason charge seq =>
        [put 0 1 3, put 0 1 handle ||| put 1 1 state.code ||| put 2 1 reason.code ||| put 3 1 (if seq.isSome then 1 else 0)
           ||| put 4 2 charge, put 0 4 event.toNat ||| put 4 4 (match seq with | some x => x | none => 0)]
    (may → exec .noticeWrite s = .next { s with
      path := s.path.issue [.record (0x400 + 64 * (q.answerProduce.toNat % 16)) (put 0 2 0x00FF :: content ++ List.replicate 4 0#64),
        .index .answerProduce (q.answerProduce + 1)]
      req := { q with answerProduce := q.answerProduce + 1, notices := rest } }) ∧
    (¬may → exec .noticeWrite s = .next s)) ∧
  (∀ (s : State) (b : Binding) (l : LogRecord), s.settled → s.msgs.room.binding = some b →
    s.bills.log.find? (fun l => l.offer = .due) = some l →
    let q := s.req
    let r := l.record
    let fields := [put 0 1 (if l.offeredBefore then 2 else 1) ||| put 2 2 b.room.toNat, put 0 4 r.seq, put 0 4 r.stay,
      put 0 4 r.event.toNat, put 0 4 r.title.toNat, put 0 2 r.charge, put 0 4 r.hotel]
    let tag := fields.foldl (fun t w => mix (t ^^^ w ^^^ b.roomKey.k2)) b.roomKey.k1
    let may := q.startUp = .running ∧ (∀ code serial room store, Notice.start code serial room store ∉ q.notices) ∧
      s.msgs.room.state ≠ .unbound ∧ (q.billProduce - q.billConsume).toNat < 16 ∧ s.path.canIssue = true
    (may → exec .billNoticeWrite s = .next { s with
      path := s.path.issue [.record (0x800 + 64 * (q.billProduce.toNat % 16)) (fields ++ [tag]),
        .index .billProduce (q.billProduce + 1)]
      req := { q with billProduce := q.billProduce + 1 }
      bills := { s.bills with
        log := s.bills.log.map fun m =>
          if m.record.seq = r.seq then { m with offer := OfferState.offered s.events.uptime, offeredBefore := true } else m
        highestOffered := some (match s.bills.highestOffered with | none => r.seq | some x => max x r.seq) } }) ∧
    (¬may → exec .billNoticeWrite s = .next s)) ∧
  (∀ s : State, s.settled →
    ((∀ a h, s.req.service ≠ .answering a h) → exec .answerRecordWrite s = .next s) ∧
    (s.req.notices = [] → exec .noticeWrite s = .next s) ∧
    ((s.msgs.room.binding = none ∨ ∀ l ∈ s.bills.log, l.offer ≠ .due) → exec .billNoticeWrite s = .next s)) ∧
  ([AnswerCode.ok, .unknownRequest, .badArgument, .wrongState, .suspended, .ringBusy, .ringNotAttached, .overlap, .noSlots, .noTime,
      .noEvent, .eventOver, .notForSale, .locked, .alreadyBought, .listFull, .billingUnavailable, .overCap, .notFound, .tooLate,
      .noPin, .wrongPin, .pinLockout].map AnswerCode.code = List.range 23 ∧
    [RoomState.unbound, .vacant, .occupied, .checkout].map RoomState.code = [0, 1, 2, 3] ∧
    [StoreState.good, .faulted].map StoreState.code = [0, 1] ∧
    [BringUp.good, .storeRecovered, .storeFault, .identityFault].map BringUp.code = [0, 1, 2, 3] ∧
    [PurchaseState.held, .committing, .committed].map PurchaseState.code = [1, 2, 3] ∧
    [NoticeState.committing, .committed, .gone].map NoticeState.code = [2, 3, 4] ∧
    [Origin.taken, .rebuilt].map Origin.code = [0, 1] ∧
    [Reason.commitBegun, .committed, .cancelled, .eventEnded, .storeFault, .checkout].map Reason.code = [1, 2, 3, 4, 5, 6])

/-! ### Head-end messages -/

/-- A message passes exactly when its address kind and kind are known, its body is at most 12 words, its address matches, it verifies
under the key of its address kind, its kind may be carried by it, and its serial is accepted (R149 to R153). -/
def Obligations.HeadChecksDecide : Prop :=
  ∀ (u : MessageUnit) (m : Message) (k : MsgKind),
    u.check m = some k ↔ ∃ a key, m.addressKind = some a ∧ m.kind = some k ∧ m.bodyLength ≤ 12 ∧
      (match a with
        | .device => ∃ d, u.identity = some d ∧ d.serial = m.deviceSerial ∧ key = d.key
        | .room => ∃ b, u.room.binding = some b ∧ b.room = m.address16 ∧ key = b.roomKey
        | .group => ∃ b, u.room.binding = some b ∧ b.groups &&& m.address16 ≠ 0#16 ∧ key = b.hotelKey
        | .all => ∃ b, u.room.binding = some b ∧ key = b.hotelKey) ∧
      ((List.range 14).map m.word).foldl (fun t w => mix (t ^^^ w ^^^ key.k2)) key.k1 = m.word 14 ∧
      (match k.scope with
        | .device => a = .device ∧ u.serials.device < m.serial
        | .room => a = .room ∧ (u.serials.room < m.serial ∨
            (k = .unbind ∧ u.serials.room = 4294967295 ∧ m.serial = 4294967295))
        | .broadcast => a = .group ∨ a = .all)

/-- MESSAGE_AT_HEAD: with no message to deal with nothing happens; one that fails a check leaves without effect; one that passes is
applied as the row of its kind applies it, and no other kind's row touches it (log 11). A message that passes in a room state its kind is
not applied in consumes its serial and does nothing else. A message that has been applied leaves at once when no write it offered stands
in the waiting line, and otherwise stays at the head, marked as applied (R148, R153, R154). -/
def Obligations.HeadMessageDealtWith : Prop :=
  ((∀ (s : State), s.settled → s.msgs.headMessage = none →
    exec .messageAtHead s = .next s ∧ ∀ k : MsgKind, exec k.row s = .next s) ∧
  (∀ (s : State) (m : Message), s.settled → s.msgs.headMessage = some m → s.msgs.check m = none →
    exec .messageAtHead s = .next s.headGone ∧ ∀ k : MsgKind, exec k.row s = .next s) ∧
  (∀ (s : State) (m : Message) (k : MsgKind), s.settled → s.msgs.headMessage = some m → s.msgs.check m = some k →
    exec .messageAtHead s = exec k.row s ∧ ∀ k' : MsgKind, k' ≠ k → exec k'.row s = .next s)) ∧
  ((∀ (s : State) (m : Message) (k : MsgKind), s.heading k m → k.scope = .room →
    (match k with
      | .checkIn => s.msgs.room.state ≠ .vacant
      | .unbind => s.msgs.room.state ≠ .vacant ∨ s.bills.log ≠ []
      | .checkOut => s.msgs.room.state ≠ .occupied
      | .setCap => s.msgs.room.state ≠ .occupied ∧ s.msgs.room.state ≠ .checkout
      | _ => s.msgs.room.state = .unbound) →
    exec k.row s = .next (s.roomSerial m.serial).leaveOrWait) ∧
  (∀ (s : State) (m : Message), s.heading .bind m → s.msgs.room.state ≠ .unbound →
    exec .bind s = .next
      ({ s with
          msgs := { s.msgs with serials := { s.msgs.serials with device := m.serial } }
          store := s.store.offer .head (.serials (some { s.msgs.serials with device := m.serial })) }.leaveOrWait))) ∧
  (∀ s : State,
    let offered := ∃ x ∈ s.store.line, ∃ q ∈ x.writes, q.heads = true
    (¬offered → s.leaveOrWait = { s with msgs := { s.msgs with intake := s.msgs.intake.drop 1, headApplied := false } }) ∧
    (offered → s.leaveOrWait = { s with msgs := { s.msgs with headApplied := true } }))

/-- KEY, SERVICE_MAP and TIME: a count above 4 or 8 is ignored whole, entries are applied in body order, hotel time never falls. A key
entry out of range is dropped, otherwise its decrypted key is installed, staged or already there. A map entry withdraws a service, is
dropped for a field out of range, keeps a known service's counters, or joins a table of fewer than 128 (R33 to R36, R41 to R43, R95).
The installation is that of the key pool, with the clearing of references after a stamp wrap (R48, R52). -/
def Obligations.BroadcastsApplied : Prop :=
  ((∀ (s : State) (m : Message) (b : Binding), s.heading .key m → s.msgs.room.binding = some b →
    let n := bytesAt (m.body 0) 0 1
    (n ≤ 4 → exec .key s = .next ((List.range n).foldl (applyKeyEntry m b.hotelKey.k1) s).headGone) ∧
    (4 < n → exec .key s = .next s.headGone)) ∧
  (∀ (s : State) (m : Message), s.heading .serviceMap m →
    let n := bytesAt (m.body 0) 0 1
    (n ≤ 8 → exec .serviceMap s = .next
      { s with slots := (List.range n).foldl (fun t j => t.applyMapEntry (m.body (1 + j))) s.slots }.headGone) ∧
    (8 < n → exec .serviceMap s = .next s.headGone)) ∧
  (∀ (s : State) (m : Message), s.heading .time m →
    let v := bytesAt (m.body 0) 0 4
    exec .time s = .next { s with events := { s.events with hotelTime :=
      match s.events.hotelTime with | none => some v | some h => some (max h v) } }.headGone)) ∧
  (∀ (m : Message) (k1 : Word) (s : State) (j : Nat),
    let set := bytesAt (m.body (1 + 2 * j)) 0 1
    let phase := bytesAt (m.body (1 + 2 * j)) 1 1
    let key := m.body (2 + 2 * j) ^^^ mix (k1 ^^^ BitVec.ofNat 64 (set * 256 + phase * 16 + j) ^^^ m.word 1)
    ((63 < set ∨ 1 < phase) → applyKeyEntry m k1 s j = s) ∧
    (∀ h : set < 64, phase ≤ 1 →
      let ks : Fin 64 := ⟨set, h⟩
      let p : Phase := if phase = 0 then .p0 else .p1
      ((s.keys.slot ks p).current = none → applyKeyEntry m k1 s j =
        { s with keys := (s.keys.install ks p key).1, slots := s.slots.clearRefs (s.keys.install ks p key).2 }) ∧
      (∀ i, (s.keys.slot ks p).current = some i →
        (s.keys.pool[i].key = key → applyKeyEntry m k1 s j = s) ∧
        (s.keys.pool[i].key ≠ key → applyKeyEntry m k1 s j =
          { s with keys := s.keys.setSlot ks p ⟨some i, some key⟩ })))) ∧
  (∀ (t : SlotTable) (w : Word),
    let n := bytesAt w 0 2
    let inRange := n ≤ 4095 ∧ bytesAt w 3 1 ≤ 2 ∧ bytesAt w 4 1 ≤ 31 ∧ bytesAt w 5 1 ≤ 63 ∧ bytesAt w 6 1 ≤ 7
    (w.getLsbD 16 = true → t.applyMapEntry w = { t with services := t.services.filter fun e => e.service.toNat != n }) ∧
    (w.getLsbD 16 = false → ¬inRange → t.applyMapEntry w = t) ∧
    (w.getLsbD 16 = false → inRange → ∃ new : ServiceEntry,
      new.service.toNat = n ∧ new.cls.code = bytesAt w 3 1 ∧ new.tier = bytesAt w 4 1 ∧ new.keySet.val = bytesAt w 5 1 ∧
      new.rating = bytesAt w 6 1 ∧ new.expected = none ∧ new.discontinuities = 0 ∧
      (t.service new.service = none → t.services.length < 128 →
        t.applyMapEntry w = { t with services := t.services ++ [new] }) ∧
      (t.service new.service = none → 128 ≤ t.services.length → t.applyMapEntry w = t) ∧
      ((t.service new.service).isSome = true → t.applyMapEntry w = { t with services := t.services.map fun old =>
        if old.service = new.service then { new with expected := old.expected, discontinuities := old.discontinuities } else old })))

/-- SLATE: a half joins the staging of its load number or restarts it, and two halves make the in-use copy; an index or half out of
range is ignored whole; the message leaves and nothing else changes (R71, R72). -/
def Obligations.SlateApplied : Prop :=
  ∀ (s : State) (m : Message), s.heading .slate m →
    let i := bytesAt (m.body 0) 0 1
    let half := bytesAt (m.body 0) 1 1
    let n := BitVec.ofNat 8 (bytesAt (m.body 0) 2 1)
    ((i = 0 ∨ 7 < i ∨ 1 < half) → exec .slate s = .next s.headGone) ∧
    (∀ h : 1 ≤ i ∧ i ≤ 7, half ≤ 1 →
      let old := s.slates.slates[i - 1]'(by omega)
      let kept : Staging := match old.staging with
        | some g => if g.load = n then g else ⟨n, none, none⟩
        | none => ⟨n, none, none⟩
      let new : Staging :=
        { load := n, half0 := if half = 0 then some m.slateBytes else kept.half0
          half1 := if half = 1 then some m.slateBytes else kept.half1 }
      let inUse := match new.half0, new.half1 with
        | some b0, some b1 => some (⟨n, b1 ++ b0⟩ : LoadedSlate)
        | _, _ => old.inUse
      exec .slate s = .next
        { s with slates := { s.slates with slates := s.slates.slates.set (i - 1) ⟨inUse, some new⟩ (by omega) } }.headGone)

/-- EVENT: its announcements are applied in body order, a count above 2 is ignored whole, and an announcement is dropped for a service above
4095, a rating above 7 or a flag above 1, its duration and price clamped (R100, R180). -/
def Obligations.EventApplied : Prop :=
  (∀ (s : State) (m : Message), s.heading .event m →
    let n := bytesAt (m.body 0) 0 1
    (2 < n → exec .event s = .next s.headGone) ∧
    (n ≤ 2 → exec .event s = .next
      ((List.range n).foldl (fun s j => match m.announcement j with | none => s | some a => s.announce a) s).leaveOrWait)) ∧
  (∀ (m : Message) (j : Nat),
    let w3 := m.body (3 + 3 * j)
    let bad := 4095 < bytesAt w3 0 2 ∨ 7 < bytesAt w3 3 1 ∨ 1 < bytesAt w3 6 1 ∨ 1 < bytesAt w3 7 1
    (bad → m.announcement j = none) ∧
    (¬bad → ∃ a, m.announcement j = some a ∧
      a.id.toNat = bytesAt (m.body (1 + 3 * j)) 0 4 ∧ a.title.toNat = bytesAt (m.body (1 + 3 * j)) 4 4 ∧
      a.service.toNat = bytesAt w3 0 2 ∧ a.tag.toNat = bytesAt w3 2 1 ∧ a.start = bytesAt (m.body (2 + 3 * j)) 0 4 ∧
      a.duration = max 60 (min 28800 (bytesAt (m.body (2 + 3 * j)) 4 4)) ∧ a.price = min 50000 (bytesAt w3 4 2) ∧
      a.rating = bytesAt w3 3 1 ∧ a.purchasable = decide (bytesAt w3 6 1 = 1) ∧ a.freeLook = decide (bytesAt w3 7 1 = 1) ∧
      a.used = 0 ∧ a.seen = false))

/-- An announcement is disposed of by the first that applies of an update (R101), a drop because it is over (R102), the reuse of a
service number and event tag (R103), and a new entry or the displacement of the latest-starting unprotected one (R104). A new entry
stands last, and one that takes another's place stands there (log 25). -/
def Obligations.AnnouncementsDisposed : Prop :=
  ∀ (s : State) (a : EventEntry),
    let isOver (e : EventEntry) : Prop := ∃ h, s.events.hotelTime = some h ∧ e.start + e.duration ≤ h
    let isProtected (e : EventEntry) : Prop := (∃ p ∈ s.purchases.entries, p.event = e.id) ∨ 0 < e.used
    let updated (l : List EventEntry) : List EventEntry :=
      l.map fun e => if e.id = a.id then { a with used := e.used, seen := e.seen } else e
    let inPlaceOf (o : EventEntry) : List EventEntry := s.events.entries.map fun e => if e.id = o.id then a else e
    (∀ old, s.events.byId a.id = some old →
      (s.events.otherByTag a.id a.service a.tag = none →
        s.announce a = { s with events := { s.events with entries := updated s.events.entries } }) ∧
      (∀ o, s.events.otherByTag a.id a.service a.tag = some o →
        (¬isProtected o → s.announce a =
          { s with events := { s.events with entries := updated (s.events.entries.filter (·.id != o.id)) } }) ∧
        (isProtected o → isOver o → s.announce a =
          { s.endPurchase .head o.id with
            events := { s.events with entries := updated (s.events.entries.filter (·.id != o.id)) } }) ∧
        (isProtected o → ¬isOver o → s.announce a = s))) ∧
    (s.events.byId a.id = none →
      (isOver a → s.announce a = s.endPurchase .head a.id) ∧
      (¬isOver a →
        (∀ o, s.events.byTag a.service a.tag = some o →
          (¬isProtected o → s.announce a = { s with events := { s.events with entries := inPlaceOf o } }) ∧
          (isProtected o → isOver o → s.announce a =
            { s.endPurchase .head o.id with events := { s.events with entries := inPlaceOf o } }) ∧
          (isProtected o → ¬isOver o → s.announce a = s)) ∧
        (s.events.byTag a.service a.tag = none →
          (s.events.entries.length < 48 →
            s.announce a = { s with events := { s.events with entries := s.events.entries ++ [a] } }) ∧
          (48 ≤ s.events.entries.length → (∀ e ∈ s.events.entries, isProtected e) → s.announce a = s) ∧
          (48 ≤ s.events.entries.length → (∃ e ∈ s.events.entries, ¬isProtected e) →
            ∃ o ∈ s.events.entries, ¬isProtected o ∧
              s.announce a = { s with events := { s.events with entries := inPlaceOf o } } ∧
              ∀ e ∈ s.events.entries, ¬isProtected e →
                e.start < o.start ∨ (e.start = o.start ∧ o.id.toNat ≤ e.id.toNat)))))

/-- BIND, UNBIND and HOTEL_KEY in the states they are applied in: the binding, the policy, the lock unit, the serials, the writes in their
order, and the ROOM notice (R42, R91, R155, R156, R164). The room tier mask stays as it stood through both, which is log 34's choice. The
message then leaves or waits for its writes (R148; log 23). -/
def Obligations.BindingMessagesApplied : Prop :=
  (∀ (s : State) (m : Message) (d : Identity), s.heading .bind m → s.msgs.identity = some d → s.msgs.room.state = .unbound →
    let part (j : Nat) : Word := m.body (1 + j) ^^^ mix (d.key.k1 ^^^ BitVec.ofNat 64 j ^^^ m.word 1)
    let b : Binding := ⟨BitVec.ofNat 16 (bytesAt (m.body 0) 0 2), BitVec.ofNat 16 (bytesAt (m.body 0) 2 2),
      ⟨part 0, part 1⟩, ⟨part 2, part 3⟩⟩
    let serials : Serials := { s.msgs.serials with device := m.serial }
    let room : Room := { s.msgs.room with binding := some b, state := .vacant, suspended := false, cap := 0, spent := 0 }
    let record : RoomRecord := ⟨.vacant, false, s.msgs.room.stay, 0, 0, 7, none, 0, s.bills.counter.getD 0 + 8⟩
    let t : State :=
      { s with
        msgs := { s.msgs with room := room, policy := Policy.defaults, serials := serials }
        lock := ⟨7, none, 0, none, []⟩
        store := (((s.store.offer .head (.serials (some serials))).offer .head (.binding (some b))).offer .head
          (.policy (some Policy.defaults))).offer .head (.room (some record))
        req := { s.req with notices := raiseIn .room s.req.notices } }
    exec .bind s = .next t.leaveOrWait) ∧
  (∀ (s : State) (m : Message), s.heading .unbind m → s.msgs.room.state = .vacant → s.bills.log = [] →
    let serials : Serials := { s.msgs.serials with room := 0 }
    let room : Room := { s.msgs.room with binding := none, state := .unbound, suspended := false }
    let record : RoomRecord :=
      ⟨.unbound, false, s.msgs.room.stay, s.msgs.room.cap, s.msgs.room.spent, 7, none, 0, s.bills.counter.getD 0 + 8⟩
    let t : State :=
      { s with
        msgs := { s.msgs with room := room, policy := Policy.defaults, serials := serials }
        lock := ⟨7, none, 0, none, []⟩
        purchases := { s.purchases with titles := [] }
        store := ((((s.store.offer .head (.serials (some serials))).offer .head (.binding none)).offer .head (.policy none)).offer .head
          (.titles none)).offer .head (.room (some record))
        req := { s.req with notices := raiseIn .room s.req.notices } }
    exec .unbind s = .next t.leaveOrWait) ∧
  (∀ (s : State) (m : Message) (b : Binding), s.heading .hotelKey m → s.msgs.room.state ≠ .unbound →
    s.msgs.room.binding = some b →
    let part (j : Nat) : Word := m.body j ^^^ mix (b.roomKey.k1 ^^^ BitVec.ofNat 64 j ^^^ m.word 1)
    let b' : Binding := { b with hotelKey := ⟨part 0, part 1⟩ }
    let s1 := s.roomSerial m.serial
    exec .hotelKey s = .next
      ({ s1 with
          msgs := { s1.msgs with room := { s.msgs.room with binding := some b' } }
          store := s1.store.offer .head (.binding (some b')) }.leaveOrWait))

/-- CHECK_IN begins a stay. CHECK_OUT releases the HELD entries, starts the checkout timer and leaves the room in CHECKOUT while the drain
does not hold; when it holds the room enters VACANT at once (R91, R98, R110, R126, R136, R157 to R160). Entering VACANT, the entries
leave in list order with reason CHECKOUT, the places of their acknowledged records are freed, and the writes are offered in the order
of R160. -/
def Obligations.CheckInAndOutApplied : Prop :=
  (∀ (s : State) (m : Message), s.heading .checkIn m → s.msgs.room.state = .vacant →
    let stay := if s.msgs.room.stay < 4294967295 then s.msgs.room.stay + 1 else s.msgs.room.stay
    let cap := min (bytesAt (m.body 0) 0 4) 10000000
    let ceiling := min (bytesAt (m.body 0) 4 1) 7
    let s1 := s.roomSerial m.serial
    let record : RoomRecord := ⟨.occupied, s.msgs.room.suspended, stay, cap, 0, ceiling, none, 0, s.bills.counter.getD 0 + 8⟩
    let room : Room := { s.msgs.room with
      stay := stay, cap := cap, spent := 0, tiers := BitVec.ofNat 32 (bytesAt (m.body 1) 0 4), state := .occupied }
    let t : State :=
      { s1 with
        msgs := { s1.msgs with room := room }
        lock := ⟨ceiling, none, 0, none, []⟩
        store := s1.store.offer .head (.room (some record))
        req := { s.req with notices := raiseIn .room s.req.notices } }
    exec .checkIn s = .next t.leaveOrWait) ∧
  (∀ (s : State) (m : Message), s.heading .checkOut m → s.msgs.room.state = .occupied → s.purchases.handlesDistinct →
    let s1 := s.roomSerial m.serial
    let gone := s.purchases.entries.filter (·.state == .held)
    let notices := gone.foldl (fun l e => raiseIn (.purchase e.handle e.event .gone .checkout e.charge e.seq) l) s.req.notices
    let t : State :=
      { s1 with
        msgs := { s1.msgs with room := { s.msgs.room with
          state := .checkout, checkout := some ⟨s.events.uptime + s.msgs.policy.checkoutTimeout, false⟩ } }
        purchases := { s.purchases with entries := s.purchases.entries.filter (·.state != .held) }
        store := s1.store.offer .head (.room (some { s.roomRecord with state := .checkout }))
        req := { s.req with notices := raiseIn .room notices } }
    let drains := (∀ e ∈ s.purchases.entries, e.state ≠ .committing) ∧ ∀ l ∈ s.bills.log, l.record.stay ≠ s.msgs.room.stay
    (¬drains → exec .checkOut s = .next t.leaveOrWait) ∧
    (drains → exec .checkOut s = .next (t.enterVacant .head).leaveOrWait)) ∧
  (∀ (s : State) (c : Caller),
    let freed := s.purchases.entries.filterMap fun e => match e.seq with
      | some n => if ∀ l ∈ s.bills.log, l.record.seq ≠ n then s.store.placeOf n else none
      | none => none
    let notices := s.purchases.entries.foldl
      (fun l e => raiseIn (.purchase e.handle e.event .gone .checkout e.charge e.seq) l) s.req.notices
    s.enterVacant c = { s with
      msgs := { s.msgs with room := { s.msgs.room with
        state := .vacant, cap := 0, spent := 0, tiers := 0#32, checkout := none } }
      lock := ⟨7, none, 0, none, []⟩
      purchases := { s.purchases with entries := [], titles := [] }
      events := { s.events with entries := s.events.entries.map fun v => { v with used := 0 } }
      store := ((freed.foldl (fun st i => st.offer c (.commit i none)) s.store).offer c (.titles (some []))).offer c
        (.room (some ⟨.vacant, s.msgs.room.suspended, s.msgs.room.stay, 0, 0, 7, none, 0, s.bills.counter.getD 0 + 8⟩))
      req := { s.req with notices := raiseIn .room notices } })

/-- SET_CAP, ENTITLE, SUSPEND, RESUME and CLEAR_PIN in the states they are applied in (R90, R161 to R163). -/
def Obligations.StayMessagesApplied : Prop :=
  (∀ (s : State) (m : Message), s.heading .setCap m →
    (s.msgs.room.state = .occupied ∨ s.msgs.room.state = .checkout) →
    let cap := max (min (bytesAt (m.body 0) 0 4) 10000000) (s.msgs.room.spent + s.purchases.held)
    let s1 := s.roomSerial m.serial
    exec .setCap s = .next
      ({ s1 with
          msgs := { s1.msgs with room := { s.msgs.room with cap := cap } }
          store := s1.store.offer .head (.room (some { s.roomRecord with cap := cap })) }.leaveOrWait)) ∧
  (∀ (s : State) (m : Message), s.heading .entitle m → s.msgs.room.state ≠ .unbound →
    let s1 := s.roomSerial m.serial
    exec .entitle s = .next
      ({ s1 with msgs := { s1.msgs with room := { s.msgs.room with
          tiers := BitVec.ofNat 32 (bytesAt (m.body 0) 0 4) } } }.leaveOrWait)) ∧
  (∀ (s : State) (m : Message) (k : MsgKind) (v : Bool), (k = .suspend ∧ v = true ∨ k = .resume ∧ v = false) → s.heading k m →
    s.msgs.room.state ≠ .unbound →
    let s1 := s.roomSerial m.serial
    (s.msgs.room.suspended = v → exec k.row s = .next s1.leaveOrWait) ∧
    (s.msgs.room.suspended ≠ v → exec k.row s = .next
      ({ s1 with
          msgs := { s1.msgs with room := { s.msgs.room with suspended := v } }
          store := s1.store.offer .head (.room (some { s.roomRecord with suspended := v }))
          req := { s.req with notices := raiseIn .room s.req.notices } }.leaveOrWait))) ∧
  (∀ (s : State) (m : Message), s.heading .clearPin m → s.msgs.room.state ≠ .unbound →
    let s1 := s.roomSerial m.serial
    exec .clearPin s = .next
      ({ s1 with
          lock := ⟨s.lock.guestCeiling, none, 0, none, []⟩
          store := s1.store.offer .head (.room (some { s.roomRecord with pin := none, failures := 0 })) }.leaveOrWait))

/-- POLICY takes every field, clamped, offers its write, and begins the commits of the HELD entries watched to the new threshold, in list
order (R118, R165, R166). BILL_ACK covering at most the highest sequence offered removes the records at or below it, offering a ROOM
write and then for each removed record its place rewritten acknowledged, or freed when no COMMITTED entry carries it; otherwise it
removes none; then the drain is tested (R142, R143, R159). -/
def Obligations.PolicyAndBillAckApplied : Prop :=
  (∀ (s : State) (m : Message), s.heading .policy m → s.msgs.room.state ≠ .unbound →
    let s1 := s.roomSerial m.serial
    let t : State :=
      { s1 with
        msgs := { s1.msgs with policy := m.policy }
        store := s1.store.offer .head (.policy (some m.policy)) }
    let due := s.purchases.entries.filter fun e => e.state == .held && decide (m.policy.threshold ≤ e.watched)
    exec .policy s = .next ((due.map (·.handle)).foldl (fun s h => s.beginCommit .head h) t).leaveOrWait ∧
    ((∀ e ∈ s.purchases.entries, e.state = .held → e.watched < m.policy.threshold) → exec .policy s = .next t.leaveOrWait)) ∧
  (∀ m : Message,
    let p := m.policy
    let step := bytesAt (m.body 1) 2 2
    let away (x : Nat) : Nat := (step - x) + (x - step)
    p.hotelCeiling = min 7 (bytesAt (m.body 0) 0 1) ∧ p.floor = min 100 (bytesAt (m.body 0) 1 1) ∧
      p.threshold = min 1800 (bytesAt (m.body 0) 2 2) ∧ p.allowance = min 600 (bytesAt (m.body 0) 4 2) ∧
      p.grace = min 1800 (bytesAt (m.body 0) 6 2) ∧ p.factor = min 250 (bytesAt (m.body 1) 0 2) ∧
      p.step ∈ [1, 5, 10, 25, 50, 100] ∧
      (∀ x ∈ [1, 5, 10, 25, 50, 100], away p.step < away x ∨ (away p.step = away x ∧ p.step ≤ x)) ∧
      p.maximum = min 65535 (bytesAt (m.body 1) 4 4) ∧ p.resendInterval = max 30 (min 3600 (bytesAt (m.body 2) 0 2)) ∧
      p.checkoutTimeout = max 60 (min 7200 (bytesAt (m.body 2) 2 2)) ∧ p.lockoutBase = max 15 (min 300 (bytesAt (m.body 2) 4 2)) ∧
      p.readers.toNat = bytesAt (m.body 2) 6 2 ∧ p.vacantTiers.toNat = bytesAt (m.body 3) 0 4) ∧
  (∀ (s : State) (m : Message), s.heading .billAck m → s.msgs.room.state ≠ .unbound →
    let n := bytesAt (m.body 0) 0 4
    let covered := s.bills.highestOffered.any fun h => decide (n ≤ h)
    let s1 := s.roomSerial m.serial
    let removed := s.bills.log.filter fun l => decide (l.record.seq ≤ n)
    let acknowledge (st : Store) (l : LogRecord) : Store := match st.placeOf l.record.seq with
      | none => st
      | some i =>
        if ∃ e ∈ s.purchases.entries, e.state = .committed ∧ e.seq = some l.record.seq then
          st.offer .head (.commit i (some { l.record with acked := true }))
        else st.offer .head (.commit i none)
    let t : State :=
      if covered then
        { s1 with
          bills := { s.bills with log := s.bills.log.filter fun l => decide (n < l.record.seq) }
          store := if removed = [] then s1.store
            else removed.foldl acknowledge (s1.store.offer .head (.room (some s.roomRecord))) }
      else s1
    (t.drains → exec .billAck s = .next (t.enterVacant .head).leaveOrWait) ∧
    (¬t.drains → exec .billAck s = .next t.leaveOrWait))

/-! ### The parts of a tick, the meter and the ends of events -/

/-- TICK: uptime and known hotel time rise by one, staying at their last value. The meter walks the entries in the table's order (log
25): the marks up to and with the first entry that has ended are folded in turn, and what is owed then is, for each entry that has
ended, its end and the folds up to and with the next one that has, and behind them the other parts of the tick. With no entry ended
every mark is folded; before the end of start-up nothing happens. The fold of a mark raises an unbought event's free look while it is
allowed, or the watched seconds of a HELD or COMMITTED purchase entry, begins the commit of a HELD one that reaches the threshold, and
clears the mark (R93, R94, R97 to R99, R118; log 10). -/
def Obligations.TickAdvancesAndFolds : Prop :=
  ((∀ s : State, s.settled → s.events.timerRunning = false → exec .tick s = .next s) ∧
  (∀ s : State, s.settled → s.events.timerRunning = true →
    let next (t : Nat) : Nat := if t < 4294967295 then t + 1 else t
    let events : EventUnit := { s.events with
      uptime := next s.events.uptime
      hotelTime := match s.events.hotelTime with | some h => some (next h) | none => none }
    let isOver (e : EventEntry) : Bool := match events.hotelTime with | some h => decide (e.start + e.duration ≤ h) | none => false
    let walk := meterPlan (s.events.entries.map fun e => (e.id, isOver e))
    exec .tick s = .next { ({ s with events := events } : State).foldMarks walk.1 with
      owed := (walk.2.map fun p => .eventEnd p.1 p.2) ++
        [.grantExpiry, .lockoutExpiry, .resendDue, .rebuiltEntryLimit, .checkoutExpiry] }) ∧
  (∀ l : List (BitVec 32 × Bool), (∀ x ∈ l, x.2 = false) → meterPlan l = (l.map (·.1), [])) ∧
  (∀ (front rest : List (BitVec 32 × Bool)) (id : BitVec 32), (∀ x ∈ front, x.2 = false) →
    meterPlan (front ++ (id, true) :: rest) = (front.map (·.1) ++ [id], (id, (meterPlan rest).1) :: (meterPlan rest).2)) ∧
  (∀ s : State, s.foldMarks [] = s) ∧
  (∀ (s : State) (id : BitVec 32) (ids : List (BitVec 32)), s.foldMarks (id :: ids) = (s.foldMark id).foldMarks ids) ∧
  (∀ s : State, s.settled → s.events.timerRunning = true → s.events.uptime ≤ 4294967295 →
    ∃ t, exec .tick s = .next t ∧ t.events.uptime = min 4294967295 (s.events.uptime + 1) ∧
      (∀ h, s.events.hotelTime = some h → h ≤ 4294967295 → t.events.hotelTime = some (min 4294967295 (h + 1))) ∧
      (s.events.hotelTime = none → t.events.hotelTime = none) ∧
      t.mem = s.mem ∧ t.path = s.path ∧ t.slots = s.slots ∧ t.keys = s.keys ∧ t.slates = s.slates ∧
      (let ended := t.events.entries.filter fun e => t.events.hasEnded e
       t.owed.filterMap (fun o => match o with | .eventEnd id _ => some id | _ => none) = ended.map (·.id) ∧
        t.owed.drop ended.length = [.grantExpiry, .lockoutExpiry, .resendDue, .rebuiltEntryLimit, .checkoutExpiry]) ∧
      ((∀ e ∈ s.events.entries, t.events.hasEnded e = false) →
        t.owed = [.grantExpiry, .lockoutExpiry, .resendDue, .rebuiltEntryLimit, .checkoutExpiry] ∧
        ∀ e ∈ t.events.entries, e.seen = false))) ∧
  (∀ (s : State) (id : BitVec 32) (v : EventEntry), s.events.byId id = some v →
    let cleared : EventUnit := { s.events with entries := s.events.entries.map fun x => if x.id = id then { x with seen := false } else x }
    let s1 : State := { s with events := cleared }
    let rise (w : Nat) : Nat := if w < 65535 then w + 1 else w
    let watched (e : PurchaseEntry) : State :=
      { s1 with purchases := { s.purchases with entries := s.purchases.entries.map fun x =>
        if x.handle = e.handle then { x with watched := rise e.watched } else x } }
    (v.seen = false → s.foldMark id = s1) ∧
    (v.seen = true → s.purchases.byEvent id = none →
      s.foldMark id =
        if s.msgs.room.state = .occupied ∧ v.freeLook = true ∧ v.used < s.msgs.policy.allowance then
          { s with events := { s.events with entries := s.events.entries.map fun x =>
            if x.id = id then { x with seen := false, used := x.used + 1 } else x } }
        else s1) ∧
    (∀ e, v.seen = true → s.purchases.byEvent id = some e →
      (e.state = .committing → s.foldMark id = s1) ∧
      (e.state = .committed ∨ (e.state = .held ∧ rise e.watched < s.msgs.policy.threshold) → s.foldMark id = watched e) ∧
      (e.state = .held → s.msgs.policy.threshold ≤ rise e.watched →
        s.foldMark id = (watched e).beginCommit .part e.handle)))

/-- EVENT_END ends the entry owed and goes on folding behind it. An event's end removes its entry, and its purchase entry: a HELD one
leaves, a COMMITTING one is marked, a COMMITTED one leaves, its place freed when its record has been acknowledged (R99, R125, R136;
logs 10 and 31). -/
def Obligations.EventsEnded : Prop :=
  (∀ (s : State) (id : BitVec 32) (next : List (BitVec 32)) (os : List Owed), s.owed = .eventEnd id next :: os →
    exec .eventEnd s = .next { (s.endEvent .part id).foldMarks next with owed := os }) ∧
  (∀ s : State, (∀ id next, Owed.eventEnd id next ∉ s.owed) → exec .eventEnd s = .next s) ∧
  (∀ (s : State) (c : Caller) (id : BitVec 32),
    let rest : EventUnit := { s.events with entries := s.events.entries.filter fun x => x.id != id }
    (s.purchases.byEvent id = none → s.endEvent c id = { s with events := rest }) ∧
    (∀ e, s.purchases.byEvent id = some e →
      let gone : State := { s with
        events := rest
        purchases := { s.purchases with entries := s.purchases.entries.filter fun x => x.handle != e.handle }
        req := { s.req with notices := raiseIn (.purchase e.handle e.event .gone .eventEnded e.charge e.seq) s.req.notices } }
      (e.state = .held → s.endEvent c id = gone) ∧
      (e.state = .committing → s.endEvent c id = { s with
        events := rest
        purchases := { s.purchases with entries := s.purchases.entries.map fun x =>
          if x.handle = e.handle then { x with endNoted := true } else x } }) ∧
      (e.state = .committed →
        (e.seq = none → s.endEvent c id = gone) ∧
        (∀ n, e.seq = some n → (∃ l ∈ s.bills.log, l.record.seq = n) → s.endEvent c id = gone) ∧
        (∀ n i, e.seq = some n → (∀ l ∈ s.bills.log, l.record.seq ≠ n) → s.store.placeOf n = some i →
          s.endEvent c id = { gone with store := s.store.offer c (.commit i none) }))))

/-- What is owed is done part by part, in its order, each as its row does it. The row of a part that is owed behind others does those first,
and one that is not owed does nothing (log 10). Every other command but RESET does all that is owed first. The other rows that are parts of
a tick, and COMMIT_PAIR_OFFER, each first among what is owed (R78, R80, R93, R130, R135, R141, R159, R160; logs 10 and 27). Rebuilt entries at
their limit leave with their notices, the places of acknowledged records among theirs being freed (R130, R136), in list order, which is
log 37's choice. At the checkout expiry the room enters VACANT as it does from the drain. -/
def Obligations.OwedPartsDone : Prop :=
  (∀ (c : Instr) (s : State), c.settlesFirst = true → exec c s = exec c s.settle) ∧ (∀ s : State, s.settle.owed = []) ∧
  (∀ s : State, s.owed = [] → s.settle = s) ∧
  (∀ (s : State) (o : Owed) (os : List Owed), s.owed = o :: os →
    ∃ u, exec o.row s = .next u ∧ u.owed = os ∧ s.settle = u.settle ∧ ∀ p : Owed, p.row ≠ o.row →
      ((∃ x ∈ os, x.row = p.row) → exec p.row s = exec p.row u) ∧ ((∀ x ∈ os, x.row ≠ p.row) → exec p.row s = .next s)) ∧
  (∀ s : State, s.settled → exec .grantExpiry s = .next s ∧ exec .lockoutExpiry s = .next s ∧ exec .resendDue s = .next s ∧
    exec .rebuiltEntryLimit s = .next s ∧ exec .checkoutExpiry s = .next s ∧ exec .commitPairOffer s = .next s) ∧
  (∀ (s : State) (os : List Owed), s.owed = .grantExpiry :: os →
    exec .grantExpiry s = .next { s with
      owed := os, lock := { s.lock with grants := s.lock.grants.filter fun g => decide (s.events.uptime < g.expiry) } }) ∧
  (∀ (s : State) (os : List Owed), s.owed = .lockoutExpiry :: os →
    exec .lockoutExpiry s = .next { s with
      owed := os
      lock := { s.lock with lockout := match s.lock.lockout with
        | some e => if e ≤ s.events.uptime then none else some e
        | none => none } }) ∧
  (∀ (s : State) (os : List Owed), s.owed = .resendDue :: os →
    exec .resendDue s = .next { s with
      owed := os
      bills := { s.bills with log := s.bills.log.map fun l => match l.offer with
        | .due => l
        | .offered u => if u + s.msgs.policy.resendInterval ≤ s.events.uptime then { l with offer := .due }
            else l } }) ∧
  (∀ (s : State) (os : List Owed), s.owed = .rebuiltEntryLimit :: os → s.purchases.handlesDistinct →
    let atLimit (e : PurchaseEntry) : Bool :=
      decide (e.origin = .rebuilt) && (match s.events.hotelTime with | some h => decide (e.taken + 28800 ≤ h) | none => false)
        && s.events.entries.all fun v => v.id != e.event
    let leaving := s.purchases.entries.filter atLimit
    let freed := leaving.filterMap fun e => match e.seq with
      | some n => if ∀ l ∈ s.bills.log, l.record.seq ≠ n then s.store.placeOf n else none
      | none => none
    let notices := leaving.foldl (fun l e => raiseIn (.purchase e.handle e.event .gone .eventEnded e.charge e.seq) l) s.req.notices
    exec .rebuiltEntryLimit s = .next { s with
      owed := os
      purchases := { s.purchases with entries := s.purchases.entries.filter fun e => !atLimit e }
      store := freed.foldl (fun st i => st.offer .part (.commit i none)) s.store
      req := { s.req with notices := notices } }) ∧
  (∀ (s : State) (os : List Owed), s.owed = .checkoutExpiry :: os →
    ((s.msgs.room.state ≠ .checkout ∨ ∀ c, s.msgs.room.checkout = some c → s.events.uptime < c.expiry) →
      exec .checkoutExpiry s = .next { s with owed := os }) ∧
    (∀ c, s.msgs.room.state = .checkout → s.msgs.room.checkout = some c → c.expiry ≤ s.events.uptime →
      ((∃ e ∈ s.purchases.entries, e.state = .committing) → exec .checkoutExpiry s = .next { s with
        owed := os
        msgs := { s.msgs with room := { s.msgs.room with checkout := some { c with expired := true } } } }) ∧
      ((∀ e ∈ s.purchases.entries, e.state ≠ .committing) →
        let t := ({ s with
          owed := os
          msgs := { s.msgs with room := { s.msgs.room with checkout := some { c with expired := true } } } } : State).enterVacant .part
        exec .checkoutExpiry s = .next t ∧ t.owed = os ∧
        t.msgs = { s.msgs with room := { s.msgs.room with
          state := .vacant, cap := 0, spent := 0, tiers := 0#32, checkout := none } } ∧
        t.purchases = { s.purchases with entries := [], titles := [] } ∧
        t.events = { s.events with entries := s.events.entries.map fun v => { v with used := 0 } } ∧
        t.lock = ⟨7, none, 0, none, []⟩ ∧ t.bills = s.bills))) ∧
  (∀ (s : State) (os : List Owed) (r : CommitRecord) (rest : List CommitRecord) (i : Fin 48), s.owed = .commitPairOffer :: os →
    s.purchases.heldPairs = r :: rest → s.store.freePlace = some i →
    exec .commitPairOffer s = .next { s with
      owed := os
      purchases := { s.purchases with heldPairs := rest }
      store := s.store.offerPair .part (.room (some s.roomRecord)) (.commit i (some r)) })

/-! ### Commits -/

/-- The commit of a HELD entry begins. At charge 0 it is COMMITTED at once and its title joins, unless the list has it already (log 20);
the charges of the other HELD entries that carry the title are cleared and they are COMMITTED with it, their notices first (log 30).
Otherwise, in a GOOD store with a number to give, it is COMMITTING under the next number, its record carrying hotel time, or 0 while that
is unknown (log 29), and its two writes are offered, or held for want of a place. In a FAULTED store it leaves with reason STORE_FAULT,
and the room leaves CHECKOUT when that was what it waited for. An exhausted counter makes the store FAULTED; the started write is
abandoned then, its place as it was (log 18), what waits for a write goes on, and the COMMITTING entries leave with reason STORE_FAULT in
list order and the entry whose commit began behind them (log 32), without a number, the drain being tested then (R110, R118 to R123, R127,
R134, R135, R137, R159). -/
def Obligations.CommitBegins : Prop :=
  ∀ (s : State) (c : Caller) (h : Nat) (e : PurchaseEntry), s.purchases.byHandle h = some e → e.state = .held →
    let become (e' : PurchaseEntry) : List PurchaseEntry := s.purchases.entries.map fun x => if x.handle = h then e' else x
    let noticed (st : NoticeState) (r : Reason) (seq : Option Nat) : RequestUnit :=
      { s.req with notices := raiseIn (.purchase h e.event st r e.charge seq) s.req.notices }
    (e.charge = 0 → e.title ∈ s.purchases.titles → s.beginCommit c h = { s with
      purchases := { s.purchases with entries := become { e with state := .committed } }
      req := noticed .committed .committed e.seq }) ∧
    (e.charge = 0 → e.title ∉ s.purchases.titles → s.purchases.handlesDistinct →
      let titles := if s.purchases.titles.length < 16 then s.purchases.titles ++ [e.title]
        else s.purchases.titles.drop 1 ++ [e.title]
      let notices := (s.purchases.entries.filter fun x => x.handle ≠ h ∧ x.state = .held ∧ x.title = e.title).foldl
        (fun l x => raiseIn (.purchase x.handle x.event .committed .committed 0 x.seq) l) s.req.notices
      s.beginCommit c h = { s with
        purchases := { s.purchases with
          entries := s.purchases.entries.map fun x =>
            if x.handle = h then { e with state := .committed }
            else if x.state = .held ∧ x.title = e.title then { x with charge := 0, state := .committed }
            else x
          titles := titles }
        store := s.store.offer c (.titles (some titles))
        req := { s.req with notices := raiseIn (.purchase h e.event .committed .committed 0 e.seq) notices } }) ∧
    (∀ n, e.charge ≠ 0 → s.store.state = .good → s.bills.counter = some n → n < 4294967280 →
      let entries := become { e with state := .committing, seq := some n }
      let record : CommitRecord := ⟨n, s.msgs.room.stay, e.event, e.title, e.charge, s.events.hotelTime.getD 0, false⟩
      let room : RoomRecord := { s.roomRecord with reserve := n + 9 }
      (∀ i, s.purchases.heldPairs = [] → s.store.freePlace = some i → s.beginCommit c h = { s with
        purchases := { s.purchases with entries := entries }
        bills := { s.bills with counter := some (n + 1) }
        store := s.store.offerPair c (.room (some room)) (.commit i (some record))
        req := noticed .committing .commitBegun (some n) }) ∧
      ((s.purchases.heldPairs ≠ [] ∨ s.store.freePlace = none) → s.beginCommit c h = { s with
        purchases := { s.purchases with entries := entries, heldPairs := s.purchases.heldPairs ++ [record] }
        bills := { s.bills with counter := some (n + 1) }
        req := noticed .committing .commitBegun (some n) })) ∧
    (e.charge ≠ 0 → s.store.state = .faulted →
      let t : State := { s with
        purchases := { s.purchases with entries := s.purchases.entries.filter fun x => x.handle != h }
        req := noticed .gone .storeFault e.seq }
      (t.drainsAtCommitEnd → s.beginCommit c h = t.enterVacant c) ∧ (¬t.drainsAtCommitEnd → s.beginCommit c h = t)) ∧
    (∀ n, e.charge ≠ 0 → s.store.state = .good → s.bills.counter = some n → 4294967280 ≤ n → s.purchases.handlesDistinct →
      let lost (a : Answer) : Answer := { a with results := if a.outcome = .ok then a.results ++ [single 0] else a.results }
      let failed := s.purchases.entries.filter fun x => x.state = .committing
      let notices := raiseIn (.purchase h e.event .gone .storeFault e.charge e.seq)
        (failed.foldl (fun l x => raiseIn (.purchase x.handle x.event .gone .storeFault x.charge x.seq) l) s.req.notices)
      let t : State := { s with
        store := { s.store with state := .faulted, queue := [], line := [] }
        purchases := { s.purchases with
          entries := s.purchases.entries.filter fun x => x.state ≠ .committing ∧ x.handle ≠ h, heldPairs := [] }
        msgs := if s.msgs.headApplied then { s.msgs with intake := s.msgs.intake.drop 1, headApplied := false } else s.msgs
        req := match s.req.service with
          | .waiting a true => { s.req with notices := notices, service := .answering (lost a) none }
          | .waiting a false => { s.req with notices := notices, service := .answering a none }
          | _ => { s.req with notices := notices } }
      (t.drainsAtCommitEnd → s.beginCommit c h = t.enterVacant c) ∧ (¬t.drainsAtCommitEnd → s.beginCommit c h = t)) ∧
    (∀ n, e.charge ≠ 0 → s.store.state = .good → s.bills.counter = some n → 4294967280 ≤ n →
      (s.beginCommit c h).store = { s.store with state := .faulted, queue := [], line := [] } ∧
      (s.beginCommit c h).bills = s.bills ∧
      ∀ x ∈ (s.beginCommit c h).purchases.entries, x.state ≠ .committing ∧ x.handle ≠ h)

/-- The COMMIT place write of a commit has completed and verified: its record joins the log as DUE, the entry becomes COMMITTED and spent
rises. A title not yet in the list joins it and clears the charges of the HELD entries that carry it, their notices first (log 30); one
that is in the list already does neither and offers no TITLES write, which is log 20's reading of R121. The writes are offered, and an
entry whose event has ended leaves. In CHECKOUT the end of the commit is then tested for the drain (R121, R123, R125, R138, R159). -/
def Obligations.CommitCompletes : Prop :=
  ∀ (s : State) (q : QueuedWrite) (queue : List QueuedWrite) (i : Fin 48) (r : CommitRecord) (e : PurchaseEntry),
    s.settled → s.store.queue = q :: queue → q.write = .commit i (some r) → r.acked = false →
    s.purchases.committing r.seq = some e → s.purchases.handlesDistinct →
    let isNew : Bool := !s.purchases.titles.contains e.title
    let waived (x : PurchaseEntry) : Bool := isNew && x.state == .held && x.title == e.title
    let become (x : PurchaseEntry) : PurchaseEntry :=
      if x.handle = e.handle then { e with state := .committed }
      else if waived x then { x with charge := 0, state := .committed } else x
    let titles := if s.purchases.titles.contains e.title then s.purchases.titles
      else if s.purchases.titles.length < 16 then s.purchases.titles ++ [e.title]
      else s.purchases.titles.drop 1 ++ [e.title]
    let store : Store := { s.store with
      queue := queue, places := { s.store.places with commits := s.store.places.commits.set i (.holds r) } }
    let store1 := store.offer .part (.room (some { s.roomRecord with spent := s.msgs.room.spent + e.charge }))
    let cleared := (s.purchases.entries.filter waived).foldl
      (fun l x => raiseIn (.purchase x.handle x.event .committed .committed 0 x.seq) l) s.req.notices
    let committed := raiseIn (.purchase e.handle e.event .committed .committed e.charge e.seq) cleared
    let gone := raiseIn (.purchase e.handle e.event .gone .eventEnded e.charge e.seq) committed
    let t : State := { s with
      bills := { s.bills with log := s.bills.log ++ [⟨r, .due, false⟩] }
      purchases := { s.purchases with
        entries := if e.endNoted then (s.purchases.entries.map become).filter fun x => x.handle != e.handle
          else s.purchases.entries.map become
        titles := titles }
      msgs := { s.msgs with room := { s.msgs.room with spent := s.msgs.room.spent + e.charge } }
      store := if isNew then store1.offer .part (.titles (some titles)) else store1
      req := { s.req with notices := if e.endNoted then gone else committed } }
    (t.drainsAtCommitEnd → exec (.storeWriteComplete .verified) s = .next (t.enterVacant .part)) ∧
    (¬t.drainsAtCommitEnd → exec (.storeWriteComplete .verified) s = .next t)

/-! ### The retained store -/

/-- An offer to a FAULTED store changes nothing; in a GOOD one it replaces the content of the queued write for its place that has not
been started, or of the waiting one, and a request or the head message that offered it waits on that write from then on; or it joins the
queue while it has room and nothing waits, or else the waiting line (R82, R132 to R134). The place for a commit is the lowest that is
empty and named by no write (R135); the place of a record is the lowest that holds its number (log 31). The ROOM and COMMIT writes of a
commit's start join the queue together while it can take both and nothing waits, or stand in the line as one pair; where the ROOM write
replaces the content of one that has not been started, the COMMIT write is offered alone (R119, R132, R133). -/
def Obligations.StoreOffersTaken : Prop :=
  (∀ (st : Store) (c : Caller) (w : StoreWrite),
    let queued (q : QueuedWrite) : QueuedWrite :=
      if q.write.samePlace w then { q with write := w, answers := q.answers || decide (c = .setting) } else q
    let waiting (q : QueuedWrite) : QueuedWrite :=
      if q.write.samePlace w then
        ⟨w, q.answers || decide (c = .setting), q.admits || decide (c = .unlock), q.heads || decide (c = .head)⟩
      else q
    (st.state = .faulted → st.offer c w = st) ∧
    (st.state = .good →
      ((∃ q ∈ st.queue.drop 1, q.write.samePlace w = true) →
        st.offer c w = { st with queue := st.queue.take 1 ++ (st.queue.drop 1).map queued }) ∧
      ((∀ q ∈ st.queue.drop 1, q.write.samePlace w = false) → st.inLine w = true →
        st.offer c w = { st with line := st.line.map fun x => match x with
          | .one q => .one (waiting q)
          | .pair r p => .pair (waiting r) (waiting p) }) ∧
      ((∀ q ∈ st.queue.drop 1, q.write.samePlace w = false) → st.inLine w = false →
        (st.line = [] → st.queue.length < 8 →
          st.offer c w = { st with queue := st.queue ++ [⟨w, decide (c = .setting), false, false⟩] }) ∧
        ((st.line ≠ [] ∨ 8 ≤ st.queue.length) → st.offer c w = { st with
          line := st.line ++ [.one ⟨w, decide (c = .setting), decide (c = .unlock), decide (c = .head)⟩] }))) ∧
    (st.offer c w).places = st.places ∧ (st.offer c w).state = st.state ∧
    (st.inLine w = true ↔ ∃ x ∈ st.line, ∃ q ∈ x.writes, q.write.samePlace w = true)) ∧
  (∀ (st : Store) (c : Caller) (room : Option RoomRecord) (i : Fin 48) (r : CommitRecord),
    let pair := st.offerPair c (.room room) (.commit i (some r))
    let named := (∃ q ∈ st.queue.drop 1, q.write.samePlace (.room room) = true) ∨ st.inLine (.room room) = true
    (st.state = .faulted → pair = st) ∧
    (st.state = .good →
      (named → pair = (st.offer c (.room room)).offer c (.commit i (some r))) ∧
      (¬named → st.line = [] → st.queue.length < 7 → pair = { st with
        queue := st.queue ++ [⟨.room room, decide (c = .setting), false, false⟩,
          ⟨.commit i (some r), decide (c = .setting), false, false⟩] }) ∧
      (¬named → (st.line ≠ [] ∨ 7 ≤ st.queue.length) → pair = { st with
        line := st.line ++ [.pair ⟨.room room, decide (c = .setting), decide (c = .unlock), decide (c = .head)⟩
          ⟨.commit i (some r), decide (c = .setting), decide (c = .unlock), decide (c = .head)⟩] }))) ∧
  (∀ (st : Store) (i : Fin 48),
    let names (j : Fin 48) : Prop :=
      ∃ q ∈ st.queue ++ st.line.flatMap LineItem.writes, ∃ r, q.write = .commit j r
    let free (j : Fin 48) : Prop := st.places.commits[j] = .empty ∧ ¬names j
    st.freePlace = some i ↔ free i ∧ ∀ j, j < i → ¬free j) ∧
  (∀ (st : Store) (n : Nat) (i : Fin 48),
    let holds (j : Fin 48) : Prop := ∃ r, st.places.commits[j] = .holds r ∧ r.seq = n
    st.placeOf n = some i ↔ holds i ∧ ∀ j, j < i → ¬holds j)

/-- A store write that ends verified has its place written and its waiting request answered; one that fails makes the store FAULTED with its
queue and line gone, its place former or damaged, and what waited going on. The COMMITTING entries leave then, in list order, each with
its notice GONE and STORE_FAULT and the number it was given, all else of the list and the spent total standing; in CHECKOUT the end of
the commits is then tested for the drain (R122, R134, R159). The line moves when the queue has room for its front (R82, R133 to R135; logs
23 and 27). A write's end while the queue is empty changes nothing (log 7). -/
def Obligations.StoreWritesEnd : Prop :=
  (∀ (s : State) (v : Verify), s.settled → s.store.queue = [] → exec (.storeWriteComplete v) s = .next s) ∧
  (∀ (s : State) (q : QueuedWrite) (rest : List QueuedWrite), s.settled → s.store.queue = q :: rest →
    s.req.startUp ≠ .awaitingRoom → (∀ i r, q.write = .commit i (some r) → r.acked = true) →
    let kept (a : Answer) : Answer := { a with results := if a.outcome = .ok then a.results ++ [single 1] else a.results }
    exec (.storeWriteComplete .verified) s = .next { s with
      store := { s.store with queue := rest, places := s.store.places.write q.write }
      owed := match q.write with
        | .commit _ none => if s.purchases.heldPairs = [] then [] else [.commitPairOffer]
        | _ => []
      req := match q.write, q.answers, s.req.service with
        | .room _, true, .waiting a true => { s.req with service := .answering (kept a) none }
        | _, _, _ => s.req }) ∧
  (∀ (s : State) (q : QueuedWrite) (rest : List QueuedWrite) (v : Verify), s.settled → s.store.queue = q :: rest → v ≠ .verified →
    let places := if v = .failedDamaged then s.store.places.damage q.write else s.store.places
    let lost (a : Answer) : Answer := { a with results := if a.outcome = .ok then a.results ++ [single 0] else a.results }
    (∃ t, exec (.storeWriteComplete v) s = .next t ∧ t.store = ⟨places, .faulted, [], []⟩ ∧
      ∀ e ∈ t.purchases.entries, e.state ≠ .committing) ∧
    ((∀ e ∈ s.purchases.entries, e.state ≠ .committing) → s.req.startUp ≠ .awaitingRoom →
      exec (.storeWriteComplete v) s = .next { s with
        store := ⟨places, .faulted, [], []⟩
        purchases := { s.purchases with heldPairs := [] }
        msgs := if s.msgs.headApplied then { s.msgs with intake := s.msgs.intake.drop 1, headApplied := false } else s.msgs
        req := match s.req.service with
          | .waiting a true => { s.req with service := .answering (lost a) none }
          | .waiting a false => { s.req with service := .answering a none }
          | _ => s.req }) ∧
    ((∃ e ∈ s.purchases.entries, e.state = .committing) → s.purchases.handlesDistinct → s.req.startUp ≠ .awaitingRoom →
      let failed := s.purchases.entries.filter fun e => e.state = .committing
      let notices := failed.foldl (fun l e => raiseIn (.purchase e.handle e.event .gone .storeFault e.charge e.seq) l) s.req.notices
      let u : State := { s with
        store := ⟨places, .faulted, [], []⟩
        purchases := { s.purchases with entries := s.purchases.entries.filter fun e => e.state ≠ .committing, heldPairs := [] }
        msgs := if s.msgs.headApplied then { s.msgs with intake := s.msgs.intake.drop 1, headApplied := false } else s.msgs
        req := match s.req.service with
          | .waiting a true => { s.req with notices := notices, service := .answering (lost a) none }
          | .waiting a false => { s.req with notices := notices, service := .answering a none }
          | _ => { s.req with notices := notices } }
      (u.drainsAtCommitEnd → exec (.storeWriteComplete v) s = .next (u.enterVacant .part)) ∧
      (¬u.drainsAtCommitEnd → exec (.storeWriteComplete v) s = .next u))) ∧
  (∀ s : State, s.settled →
    let st : Store := match s.store.line with
      | [] => s.store
      | .one q :: rest => if s.store.queue.length < 8 then
          { s.store with queue := s.store.queue ++ [{ q with admits := false, heads := false }], line := rest } else s.store
      | .pair q p :: rest => if s.store.queue.length < 7 then
          { s.store with
            queue := s.store.queue ++ [{ q with admits := false, heads := false }, { p with admits := false, heads := false }]
            line := rest }
          else s.store
    exec .storeWaitingLineAdvance s = .next { s with
      store := st
      req := match s.req.service with
        | .waiting a false => if st.line.any (·.any (·.admits)) then s.req else { s.req with service := .answering a none }
        | _ => s.req
      msgs := if s.msgs.headApplied = true ∧ st.line.any (·.any (·.heads)) = false then
          { s.msgs with intake := s.msgs.intake.drop 1, headApplied := false } else s.msgs })

/-! ### Reset and start-up -/

/-- RESET gives every block its reset values (logs 5 and 6 where the spec gives none) and samples the straps; the places of the store
keep their contents, and of a write under way exactly the bytes memory had performed stand (R7, R20, R176; logs 2 and 14). The reset
values the spec gives are spelled out: the own index writes of 0 to words 3, 4 and 5 in that order and no other transaction, no windows
and no tags, the six indices 0, the part STARTING with no bring-up code, uptime 0 and hotel time unknown, every pool entry FREE and no
key, every slate unloaded, the control ring not watched, the attention line deasserted, and the tables, lists, queues and logs that a
reset empties (R13, R19, R53, R74, R93, R94, R109, R144, R147, R163, R168). -/
def Obligations.ResetTaken : Prop :=
  ∀ (s : State) (straps : BitVec 4) (performed : BitVec 128),
    ∃ mem, exec (.reset straps performed) s = .next { State.reset with
        pending := s.pending, mem := mem
        path := { State.reset.path with straps := straps }
        store := ⟨s.store.places, .good, [], []⟩ } ∧
      (s.path.underWay = none → mem = s.mem) ∧
      (∀ g, s.path.underWay = some g → g.writes s.path.anchorBase = none → mem = s.mem) ∧
      (∀ g a ws, s.memOk → s.path.underWay = some g → g.writes s.path.anchorBase = some (a, ws) →
        (∀ c, c < a ∨ a + 8 * ws.length ≤ c → mem.get c = s.mem.get c) ∧
        (∀ j i x, ws[j]? = some x → i < 8 → mem.get (a + 8 * j + i) =
          if x.enables.getLsbD i = true ∧ performed.getLsbD (8 * j + i) = true then byteOf x.data i
          else s.mem.get (a + 8 * j + i))) ∧
      (let p := State.reset.path
       p.own = [.index .requestConsume 0#16, .index .answerProduce 0#16, .index .billProduce 0#16] ∧ p.toIssue = [] ∧ p.pSide = [] ∧
        p.ownWait = 0 ∧ p.underWay = none ∧ p.control = none ∧ ∀ ring : Fin 4, p.streams[ring] = none ∧ State.reset.slots.tags[ring] = []) ∧
      (let q := State.reset.req
       q.startUp = .scanning ∧ q.bringUp = none ∧ q.requestProduce = 0#16 ∧ q.requestConsume = 0#16 ∧ q.answerProduce = 0#16 ∧
        q.answerConsume = 0#16 ∧ q.billProduce = 0#16 ∧ q.billConsume = 0#16 ∧ q.writtenAnswer = 0#16 ∧ q.writtenBill = 0#16 ∧
        q.startGranted = false ∧ q.service = .idle ∧ q.notices = []) ∧
      (let k := State.reset.keys
       (∀ i : Fin 192, k.pool[i].state = .free ∧ k.pool[i].stamp = 0#16 ∧ k.pool[i].refs = 0) ∧
        (∀ (ks : Fin 64) (ph : Phase), k.slot ks ph = ⟨none, none⟩) ∧ k.retireOrder = [] ∧ k.reclaims = 0) ∧
      (∀ i : Fin 7, State.reset.slates.slates[i] = ⟨none, none⟩) ∧ State.reset.slots.services = [] ∧
      State.reset.lock.grants = [] ∧ State.reset.lock.lockout = none ∧ State.reset.events = ⟨0, false, none, []⟩ ∧
      State.reset.purchases.entries = [] ∧ State.reset.purchases.nextHandle = 1 ∧ State.reset.purchases.heldPairs = [] ∧
      State.reset.bills.log = [] ∧ State.reset.bills.highestOffered = none ∧ State.reset.msgs.watching = false ∧
      State.reset.msgs.intake = [] ∧ State.reset.msgs.dropped = 0 ∧ State.reset.msgs.room.tiers = 0#32 ∧
      State.reset.msgs.room.checkout = none ∧
      (∀ u, exec (.reset straps performed) s = .next u → u.attention = false)

/-- The start-up scan: a store that cannot be read ends start-up at once; otherwise each marked place fails its check, and goes on
failing it until it is written, which is log 35's choice; an empty or failed IDENTITY gives IDENTITY_FAULT (log 14), the counter and the
log are those of R145, and the writes offered are the ROOM write, carrying the record found with its reserve replaced or, of an empty or
failed place, the record R145 gives, and behind it an empty write for each failed place but IDENTITY, in place order (log 15); they are
the first 8 of the queue, the others waiting; nothing else changes (R132, R133, R144, R145, R178). A scan's end outside the scan changes
nothing (log 7). -/
def Obligations.ScanEnds : Prop :=
  (∀ (s : State) (scan : ScanEnd), s.settled → s.req.startUp ≠ .scanning → exec (.startUpScanComplete scan) s = .next s) ∧
  (∀ s : State, s.settled → s.req.startUp = .scanning →
    exec (.startUpScanComplete .unreadable) s = .next { s with
      store := { s.store with state := .faulted }
      bills := { s.bills with counter := none, log := [] }
      msgs := { s.msgs with identity := none, room := Room.reset, policy := Policy.defaults, serials := ⟨0, 0⟩ }
      lock := ⟨7, none, 0, none, []⟩
      purchases := ⟨[], 1, [], []⟩
      events := { s.events with uptime := 0, timerRunning := true }
      req := { s.req with
        startUp := .running, scanned := none, bringUp := some .storeFault
        notices := raiseIn (.start .storeFault 0#48 .unbound .faulted) s.req.notices } }) ∧
  (∀ (s : State) (failed : BitVec 54), s.settled → s.req.startUp = .scanning → s.store.queue = [] → s.store.line = [] →
    ∃ (t : State) (n top topStay : Nat) (room : RoomRecord), exec (.startUpScanComplete (.read failed)) s = .next t ∧
      t = { s with
        store := t.store
        bills := { s.bills with counter := t.bills.counter, log := t.bills.log }
        req := { s.req with startUp := .awaitingRoom, scanned := t.req.scanned, bringUp := t.req.bringUp } } ∧
      t.store.places = s.store.places.scan failed ∧ t.store.state = .good ∧ t.bills.counter = some n ∧
      (let p := s.store.places.scan failed
       let records := p.commits.toList.filterMap Place.found
       let place {α : Type} (x : Place α) (w : StoreWrite) : List StoreWrite := match x with
         | .damaged => [w]
         | _ => []
       let empties := place p.binding (.binding none) ++ place p.room (.room none) ++ place p.policy (.policy none) ++
         place p.serials (.serials none) ++ place p.titles (.titles none) ++
         (List.finRange 48).flatMap fun i => place p.commits[i] (.commit i none)
       let writes := (StoreWrite.room (some room) :: empties).map fun w => (⟨w, false, false, false⟩ : QueuedWrite)
       t.store.queue = writes.take 8 ∧ t.store.line = (writes.drop 8).map .one ∧
       (∀ r ∈ records, r.seq ≤ top) ∧ (top = 0 ∨ ∃ r ∈ records, r.seq = top) ∧
       (∀ r ∈ records, r.stay ≤ topStay) ∧ (topStay = 0 ∨ ∃ r ∈ records, r.stay = topStay) ∧
       n = min 4294967280 (max (match p.room with | .holds r => r.reserve | _ => 1) (top + 1)) ∧
       room = (match p.room with
         | .holds r => { r with reserve := n + 8 }
         | _ => ⟨.unbound, false, topStay, 0, 0, 7, none, 0, n + 8⟩) ∧
       t.req.scanned = some ⟨p.identity.found, p.binding.found, p.room.found, p.policy.found, p.serials.found, p.titles.found,
         records⟩ ∧
       (p.identity.found = none → t.req.bringUp = some .identityFault) ∧
       (p.identity.found.isSome = true → (p.anyFailed = true → t.req.bringUp = some .storeRecovered) ∧
         (p.anyFailed = false → t.req.bringUp = some .good)) ∧
       t.bills.log.Pairwise (fun l l' => l.record.seq ≤ l'.record.seq) ∧
       (t.bills.log.map (·.record)).Perm (records.filter fun r => r.acked = false) ∧
       ∀ l ∈ t.bills.log, l.offer = .due ∧ l.offeredBefore = true))

/-- The end of the ROOM write of start-up ends start-up, whether it verifies or fails; when it fails, the store is FAULTED before, and the
bring-up code stays. The part is RUNNING, uptime is 0 and counts, the room state, the serials and the policy follow from what was
recovered, the purchase list, titles, spent and cap are rebuilt from the commit records of the stay, a room in CHECKOUT is tested for the
drain, and the START notice is the first, the others being those of the entry to VACANT (R129, R153, R159, R167, R173, R176 to R178; log
33). Without a ROOM record the suspended flag is clear and the stay number the highest of the commit records, or 0; where the room comes
up UNBOUND, the number is 0 when IDENTITY failed (log 16) and the ROOM record's or the highest otherwise (log 17). Nothing else changes,
but what a failed write brings about. The writes offered then, in order, are a
ROOM write when R129 raised spent or the cap, a freeing write for each acknowledged record that no rebuilt entry stands behind, in
sequence order (R136, R145; log 21), and, when the drain holds, those of the entry to VACANT (R160); a FAULTED store takes none. -/
def Obligations.StartUpEnds : Prop :=
  ∀ (s : State) (q : QueuedWrite) (rest : List QueuedWrite) (record : RoomRecord) (x : Scanned) (code : BringUp) (v : Verify),
    s.settled → s.store.queue = q :: rest → q.write = .room (some record) → s.req.startUp = .awaitingRoom → s.req.scanned = some x →
    s.req.bringUp = some code → s.req.notices = [] → s.purchases.entries = [] →
    ∃ t, exec (.storeWriteComplete v) s = .next t ∧
      let highest (n : Nat) : Prop := (∀ c ∈ x.commits, c.stay ≤ n) ∧ (n = 0 ∨ ∃ c ∈ x.commits, c.stay = n)
      let other : Prop := t.events.entries = s.events.entries ∧ t.req.notices.tail = []
      t.req.startUp = .running ∧ t.req.scanned = none ∧
      t.req.bringUp = some code ∧ t.msgs.identity = x.identity ∧ t.events.uptime = 0 ∧ t.events.timerRunning = true ∧
      t.msgs.room.tiers = 0#32 ∧ (v = .verified → t.store.state = s.store.state) ∧
      (v ≠ .verified → t.store.state = .faulted ∧ t.store.queue = [] ∧ t.store.line = []) ∧
      t.req.notices.head? = some (.start code (match x.identity with | some d => d.serial | none => 0#48)
        t.msgs.room.state t.store.state) ∧
      (t.pending = s.pending ∧ t.owed = [] ∧ t.mem = s.mem ∧ t.path = s.path ∧ t.slots = s.slots ∧ t.keys = s.keys ∧
        t.slates = s.slates ∧ t.bills = s.bills ∧ t.events.hotelTime = s.events.hotelTime ∧
        t.req.requestProduce = s.req.requestProduce ∧ t.req.requestConsume = s.req.requestConsume ∧
        t.req.answerProduce = s.req.answerProduce ∧ t.req.answerConsume = s.req.answerConsume ∧
        t.req.billProduce = s.req.billProduce ∧ t.req.billConsume = s.req.billConsume ∧
        t.req.writtenAnswer = s.req.writtenAnswer ∧ t.req.writtenBill = s.req.writtenBill ∧ t.req.startGranted = s.req.startGranted ∧
        (s.req.service = .idle → t.req.service = .idle) ∧ t.msgs.watching = s.msgs.watching ∧ t.msgs.dropped = s.msgs.dropped ∧
        ((v = .verified ∨ s.msgs.headApplied = false) → t.msgs.intake = s.msgs.intake ∧ t.msgs.headApplied = s.msgs.headApplied)) ∧
      ((x.identity = none ∨ x.binding = none) → t.msgs.room.state = .unbound ∧ t.msgs.room.binding = none ∧
        t.msgs.policy = Policy.defaults ∧ t.lock = ⟨7, none, 0, none, []⟩ ∧ t.purchases = ⟨[], 1, [], []⟩ ∧
        t.msgs.room.cap = 0 ∧ t.msgs.room.spent = 0 ∧ t.msgs.room.checkout = none ∧
        t.msgs.room.suspended = (match x.room with | some r => r.suspended | none => false) ∧ other) ∧
      (x.identity = none → t.msgs.room.stay = 0) ∧
      (∀ d, x.identity = some d → x.binding = none →
        (∀ r, x.room = some r → t.msgs.room.stay = r.stay) ∧ (x.room = none → highest t.msgs.room.stay)) ∧
      (x.identity = none → t.msgs.serials = ⟨0, 0⟩) ∧
      (∀ d, x.identity = some d → x.binding = none → t.msgs.serials = ⟨(x.serials.getD ⟨0, 0⟩).device, 0⟩) ∧
      (∀ d b, x.identity = some d → x.binding = some b → t.msgs.room.binding = some b ∧
        t.msgs.policy = x.policy.getD Policy.defaults ∧ t.msgs.serials = x.serials.getD ⟨0, 0⟩ ∧
        (x.room = none → t.msgs.room.state = .vacant ∧ t.lock = ⟨7, none, 0, none, []⟩ ∧ t.purchases = ⟨[], 1, [], []⟩ ∧
          t.msgs.room.cap = 0 ∧ t.msgs.room.spent = 0 ∧ t.msgs.room.checkout = none ∧ t.msgs.room.suspended = false ∧
          highest t.msgs.room.stay ∧ other) ∧
        (∀ r, x.room = some r → t.msgs.room.suspended = r.suspended ∧ t.msgs.room.stay = r.stay ∧
          ((r.state = .unbound ∨ r.state = .vacant) → t.msgs.room.state = .vacant ∧ t.lock = ⟨7, none, 0, none, []⟩ ∧
            t.purchases = ⟨[], 1, [], []⟩ ∧ t.msgs.room.cap = 0 ∧ t.msgs.room.spent = 0 ∧ t.msgs.room.checkout = none ∧ other) ∧
          (let mine := x.commits.filter fun c => c.stay = r.stay
           let charges := (mine.map (·.charge)).sum
           let rebuilt : Prop := t.lock = ⟨r.guestCeiling, r.pin, r.failures,
              if r.failures < 3 then none
              else some (min 3840 (t.msgs.policy.lockoutBase * 2 ^ (r.failures - 3))), []⟩ ∧
             t.msgs.room.spent = max r.spent charges ∧ t.msgs.room.cap = max r.cap (max r.spent charges) ∧ other ∧
             ∃ l : List CommitRecord, l.Perm mine ∧ l.Pairwise (fun a b => a.seq ≤ b.seq) ∧
               t.purchases = ⟨(l.drop (l.length - 8)).mapIdx fun i c =>
                   ⟨i + 1, c.event, c.title, .committed, c.charge, 0, some c.seq, c.hotel, .rebuilt, false⟩,
                 min 8 l.length + 1, x.titles.getD [], []⟩
           (r.state = .occupied → t.msgs.room.state = .occupied ∧ t.msgs.room.checkout = none ∧ rebuilt) ∧
           (r.state = .checkout → (∃ l ∈ s.bills.log, l.record.stay = r.stay) →
             t.msgs.room.state = .checkout ∧ t.msgs.room.checkout = some ⟨t.msgs.policy.checkoutTimeout, false⟩ ∧ rebuilt) ∧
           (r.state = .checkout → (∀ l ∈ s.bills.log, l.record.stay ≠ r.stay) →
             t.msgs.room.state = .vacant ∧ t.msgs.room.checkout = none ∧ t.lock = ⟨7, none, 0, none, []⟩ ∧
             t.purchases.entries = [] ∧ t.purchases.titles = [] ∧ t.purchases.heldPairs = [] ∧
             t.msgs.room.cap = 0 ∧ t.msgs.room.spent = 0 ∧
             t.events.entries = (s.events.entries.map fun w => { w with used := 0 }) ∧
             ∃ l : List CommitRecord, l.Perm mine ∧ l.Pairwise (fun a b => a.seq ≤ b.seq) ∧
               t.purchases.nextHandle = min 8 l.length + 1 ∧
               t.req.notices.tail = raiseIn .room (((l.drop (l.length - 8)).mapIdx fun i c =>
                 Notice.purchase (i + 1) c.event .gone .checkout c.charge (some c.seq)).foldl (fun l n => raiseIn n l) []))))) ∧
      (v = .verified → ∃ all : List CommitRecord, all.Perm x.commits ∧ all.Pairwise (fun a b => a.seq ≤ b.seq) ∧
        (let reserve := s.bills.counter.getD 0 + 8
         let st : Store := { s.store with queue := rest, places := { s.store.places with room := .holds record } }
         let free (st : Store) (c : CommitRecord) : Store :=
           if ∀ l ∈ s.bills.log, l.record.seq ≠ c.seq then
             match st.placeOf c.seq with | some i => st.offer .part (.commit i none) | none => st
           else st
         let acked := all.filter (·.acked)
         ((x.identity = none ∨ x.binding = none ∨ (∀ r, x.room = some r → r.state = .unbound ∨ r.state = .vacant)) →
           t.store = acked.foldl free st) ∧
         (∀ d b r, x.identity = some d → x.binding = some b → x.room = some r → (r.state = .occupied ∨ r.state = .checkout) →
           let mine := x.commits.filter fun c => c.stay = r.stay
           let spent := max r.spent (mine.map (·.charge)).sum
           let cap := max r.cap spent
           let st1 := if spent = r.spent ∧ cap = r.cap then st
             else st.offer .part (.room (some ⟨r.state, r.suspended, r.stay, cap, spent, r.guestCeiling, r.pin, r.failures, reserve⟩))
           (t.msgs.room.state ≠ .vacant →
             t.store = (acked.filter fun c => t.purchases.entries.all fun e => e.seq != some c.seq).foldl free st1) ∧
           (t.msgs.room.state = .vacant → ∃ l : List CommitRecord, l.Perm mine ∧ l.Pairwise (fun a b => a.seq ≤ b.seq) ∧
             (let rebuilt := l.drop (l.length - 8)
              let st2 := (acked.filter fun c => rebuilt.all fun q => q.seq != c.seq).foldl free st1
              t.store = ((rebuilt.foldl free st2).offer .part (.titles (some []))).offer .part
                (.room (some ⟨.vacant, r.suspended, r.stay, 0, 0, 7, none, 0, reserve⟩)))))))
end

