-- ==== Sys2Proof/Laws/State.lean ====
section
/-! SUPPORT. What each operation on the state leaves unchanged: one lemma for each field and operation. -/

namespace Sys2Proof.Machine

variable (s : State)

/-! `State.raise` -/

@[simp] theorem State.raise_pending (n : Notice) : (s.raise n).pending = s.pending := rfl
@[simp] theorem State.raise_owed (n : Notice) : (s.raise n).owed = s.owed := rfl
@[simp] theorem State.raise_mem (n : Notice) : (s.raise n).mem = s.mem := rfl
@[simp] theorem State.raise_path (n : Notice) : (s.raise n).path = s.path := rfl
@[simp] theorem State.raise_slots (n : Notice) : (s.raise n).slots = s.slots := rfl
@[simp] theorem State.raise_keys (n : Notice) : (s.raise n).keys = s.keys := rfl
@[simp] theorem State.raise_slates (n : Notice) : (s.raise n).slates = s.slates := rfl
@[simp] theorem State.raise_lock (n : Notice) : (s.raise n).lock = s.lock := rfl
@[simp] theorem State.raise_events (n : Notice) : (s.raise n).events = s.events := rfl
@[simp] theorem State.raise_purchases (n : Notice) : (s.raise n).purchases = s.purchases := rfl
@[simp] theorem State.raise_bills (n : Notice) : (s.raise n).bills = s.bills := rfl
@[simp] theorem State.raise_store (n : Notice) : (s.raise n).store = s.store := rfl
@[simp] theorem State.raise_msgs (n : Notice) : (s.raise n).msgs = s.msgs := rfl

/-! `State.answer` -/

@[simp] theorem State.answer_pending (r : Request) (c : AnswerCode) (ws : List Word) : (s.answer r c ws).pending = s.pending := rfl
@[simp] theorem State.answer_owed (r : Request) (c : AnswerCode) (ws : List Word) : (s.answer r c ws).owed = s.owed := rfl
@[simp] theorem State.answer_mem (r : Request) (c : AnswerCode) (ws : List Word) : (s.answer r c ws).mem = s.mem := rfl
@[simp] theorem State.answer_path (r : Request) (c : AnswerCode) (ws : List Word) : (s.answer r c ws).path = s.path := rfl
@[simp] theorem State.answer_slots (r : Request) (c : AnswerCode) (ws : List Word) : (s.answer r c ws).slots = s.slots := rfl
@[simp] theorem State.answer_keys (r : Request) (c : AnswerCode) (ws : List Word) : (s.answer r c ws).keys = s.keys := rfl
@[simp] theorem State.answer_slates (r : Request) (c : AnswerCode) (ws : List Word) : (s.answer r c ws).slates = s.slates := rfl
@[simp] theorem State.answer_lock (r : Request) (c : AnswerCode) (ws : List Word) : (s.answer r c ws).lock = s.lock := rfl
@[simp] theorem State.answer_events (r : Request) (c : AnswerCode) (ws : List Word) : (s.answer r c ws).events = s.events := rfl
@[simp] theorem State.answer_purchases (r : Request) (c : AnswerCode) (ws : List Word) : (s.answer r c ws).purchases = s.purchases := rfl
@[simp] theorem State.answer_bills (r : Request) (c : AnswerCode) (ws : List Word) : (s.answer r c ws).bills = s.bills := rfl
@[simp] theorem State.answer_store (r : Request) (c : AnswerCode) (ws : List Word) : (s.answer r c ws).store = s.store := rfl
@[simp] theorem State.answer_msgs (r : Request) (c : AnswerCode) (ws : List Word) : (s.answer r c ws).msgs = s.msgs := rfl

/-! `State.answerAtWrite` -/

@[simp] theorem State.answerAtWrite_pending (r : Request) (c : AnswerCode) (ws : List Word) : (s.answerAtWrite r c ws).pending = s.pending := by unfold State.answerAtWrite; split <;> rfl
@[simp] theorem State.answerAtWrite_owed (r : Request) (c : AnswerCode) (ws : List Word) : (s.answerAtWrite r c ws).owed = s.owed := by unfold State.answerAtWrite; split <;> rfl
@[simp] theorem State.answerAtWrite_mem (r : Request) (c : AnswerCode) (ws : List Word) : (s.answerAtWrite r c ws).mem = s.mem := by unfold State.answerAtWrite; split <;> rfl
@[simp] theorem State.answerAtWrite_path (r : Request) (c : AnswerCode) (ws : List Word) : (s.answerAtWrite r c ws).path = s.path := by unfold State.answerAtWrite; split <;> rfl
@[simp] theorem State.answerAtWrite_slots (r : Request) (c : AnswerCode) (ws : List Word) : (s.answerAtWrite r c ws).slots = s.slots := by unfold State.answerAtWrite; split <;> rfl
@[simp] theorem State.answerAtWrite_keys (r : Request) (c : AnswerCode) (ws : List Word) : (s.answerAtWrite r c ws).keys = s.keys := by unfold State.answerAtWrite; split <;> rfl
@[simp] theorem State.answerAtWrite_slates (r : Request) (c : AnswerCode) (ws : List Word) : (s.answerAtWrite r c ws).slates = s.slates := by unfold State.answerAtWrite; split <;> rfl
@[simp] theorem State.answerAtWrite_lock (r : Request) (c : AnswerCode) (ws : List Word) : (s.answerAtWrite r c ws).lock = s.lock := by unfold State.answerAtWrite; split <;> rfl
@[simp] theorem State.answerAtWrite_events (r : Request) (c : AnswerCode) (ws : List Word) : (s.answerAtWrite r c ws).events = s.events := by unfold State.answerAtWrite; split <;> rfl
@[simp] theorem State.answerAtWrite_purchases (r : Request) (c : AnswerCode) (ws : List Word) : (s.answerAtWrite r c ws).purchases = s.purchases := by unfold State.answerAtWrite; split <;> rfl
@[simp] theorem State.answerAtWrite_bills (r : Request) (c : AnswerCode) (ws : List Word) : (s.answerAtWrite r c ws).bills = s.bills := by unfold State.answerAtWrite; split <;> rfl
@[simp] theorem State.answerAtWrite_store (r : Request) (c : AnswerCode) (ws : List Word) : (s.answerAtWrite r c ws).store = s.store := by unfold State.answerAtWrite; split <;> rfl
@[simp] theorem State.answerAtWrite_msgs (r : Request) (c : AnswerCode) (ws : List Word) : (s.answerAtWrite r c ws).msgs = s.msgs := by unfold State.answerAtWrite; split <;> rfl

/-! `State.answerOnceQueued` -/

@[simp] theorem State.answerOnceQueued_pending (r : Request) (c : AnswerCode) (ws : List Word) : (s.answerOnceQueued r c ws).pending = s.pending := by unfold State.answerOnceQueued; split <;> rfl
@[simp] theorem State.answerOnceQueued_owed (r : Request) (c : AnswerCode) (ws : List Word) : (s.answerOnceQueued r c ws).owed = s.owed := by unfold State.answerOnceQueued; split <;> rfl
@[simp] theorem State.answerOnceQueued_mem (r : Request) (c : AnswerCode) (ws : List Word) : (s.answerOnceQueued r c ws).mem = s.mem := by unfold State.answerOnceQueued; split <;> rfl
@[simp] theorem State.answerOnceQueued_path (r : Request) (c : AnswerCode) (ws : List Word) : (s.answerOnceQueued r c ws).path = s.path := by unfold State.answerOnceQueued; split <;> rfl
@[simp] theorem State.answerOnceQueued_slots (r : Request) (c : AnswerCode) (ws : List Word) : (s.answerOnceQueued r c ws).slots = s.slots := by unfold State.answerOnceQueued; split <;> rfl
@[simp] theorem State.answerOnceQueued_keys (r : Request) (c : AnswerCode) (ws : List Word) : (s.answerOnceQueued r c ws).keys = s.keys := by unfold State.answerOnceQueued; split <;> rfl
@[simp] theorem State.answerOnceQueued_slates (r : Request) (c : AnswerCode) (ws : List Word) : (s.answerOnceQueued r c ws).slates = s.slates := by unfold State.answerOnceQueued; split <;> rfl
@[simp] theorem State.answerOnceQueued_lock (r : Request) (c : AnswerCode) (ws : List Word) : (s.answerOnceQueued r c ws).lock = s.lock := by unfold State.answerOnceQueued; split <;> rfl
@[simp] theorem State.answerOnceQueued_events (r : Request) (c : AnswerCode) (ws : List Word) : (s.answerOnceQueued r c ws).events = s.events := by unfold State.answerOnceQueued; split <;> rfl
@[simp] theorem State.answerOnceQueued_purchases (r : Request) (c : AnswerCode) (ws : List Word) : (s.answerOnceQueued r c ws).purchases = s.purchases := by unfold State.answerOnceQueued; split <;> rfl
@[simp] theorem State.answerOnceQueued_bills (r : Request) (c : AnswerCode) (ws : List Word) : (s.answerOnceQueued r c ws).bills = s.bills := by unfold State.answerOnceQueued; split <;> rfl
@[simp] theorem State.answerOnceQueued_store (r : Request) (c : AnswerCode) (ws : List Word) : (s.answerOnceQueued r c ws).store = s.store := by unfold State.answerOnceQueued; split <;> rfl
@[simp] theorem State.answerOnceQueued_msgs (r : Request) (c : AnswerCode) (ws : List Word) : (s.answerOnceQueued r c ws).msgs = s.msgs := by unfold State.answerOnceQueued; split <;> rfl

/-! `State.answerPurchase` -/

@[simp] theorem State.answerPurchase_pending (r : Request) (c h : Nat) : (s.answerPurchase r c h).pending = s.pending := rfl
@[simp] theorem State.answerPurchase_owed (r : Request) (c h : Nat) : (s.answerPurchase r c h).owed = s.owed := rfl
@[simp] theorem State.answerPurchase_mem (r : Request) (c h : Nat) : (s.answerPurchase r c h).mem = s.mem := rfl
@[simp] theorem State.answerPurchase_path (r : Request) (c h : Nat) : (s.answerPurchase r c h).path = s.path := rfl
@[simp] theorem State.answerPurchase_slots (r : Request) (c h : Nat) : (s.answerPurchase r c h).slots = s.slots := rfl
@[simp] theorem State.answerPurchase_keys (r : Request) (c h : Nat) : (s.answerPurchase r c h).keys = s.keys := rfl
@[simp] theorem State.answerPurchase_slates (r : Request) (c h : Nat) : (s.answerPurchase r c h).slates = s.slates := rfl
@[simp] theorem State.answerPurchase_lock (r : Request) (c h : Nat) : (s.answerPurchase r c h).lock = s.lock := rfl
@[simp] theorem State.answerPurchase_events (r : Request) (c h : Nat) : (s.answerPurchase r c h).events = s.events := rfl
@[simp] theorem State.answerPurchase_purchases (r : Request) (c h : Nat) : (s.answerPurchase r c h).purchases = s.purchases := rfl
@[simp] theorem State.answerPurchase_bills (r : Request) (c h : Nat) : (s.answerPurchase r c h).bills = s.bills := rfl
@[simp] theorem State.answerPurchase_store (r : Request) (c h : Nat) : (s.answerPurchase r c h).store = s.store := rfl
@[simp] theorem State.answerPurchase_msgs (r : Request) (c h : Nat) : (s.answerPurchase r c h).msgs = s.msgs := rfl

/-! `State.fetchDone` -/

@[simp] theorem State.fetchDone_pending : (s.fetchDone).pending = s.pending := rfl
@[simp] theorem State.fetchDone_owed : (s.fetchDone).owed = s.owed := rfl
@[simp] theorem State.fetchDone_mem : (s.fetchDone).mem = s.mem := rfl
@[simp] theorem State.fetchDone_slots : (s.fetchDone).slots = s.slots := rfl
@[simp] theorem State.fetchDone_keys : (s.fetchDone).keys = s.keys := rfl
@[simp] theorem State.fetchDone_slates : (s.fetchDone).slates = s.slates := rfl
@[simp] theorem State.fetchDone_lock : (s.fetchDone).lock = s.lock := rfl
@[simp] theorem State.fetchDone_events : (s.fetchDone).events = s.events := rfl
@[simp] theorem State.fetchDone_purchases : (s.fetchDone).purchases = s.purchases := rfl
@[simp] theorem State.fetchDone_bills : (s.fetchDone).bills = s.bills := rfl
@[simp] theorem State.fetchDone_store : (s.fetchDone).store = s.store := rfl
@[simp] theorem State.fetchDone_msgs : (s.fetchDone).msgs = s.msgs := rfl
@[simp] theorem State.fetchDone_req : (s.fetchDone).req = s.req := rfl

/-! `State.enqueue` -/

@[simp] theorem State.enqueue_pending (c : Carried) : (s.enqueue c).pending = s.pending := rfl
@[simp] theorem State.enqueue_owed (c : Carried) : (s.enqueue c).owed = s.owed := rfl
@[simp] theorem State.enqueue_mem (c : Carried) : (s.enqueue c).mem = s.mem := rfl
@[simp] theorem State.enqueue_slots (c : Carried) : (s.enqueue c).slots = s.slots := rfl
@[simp] theorem State.enqueue_keys (c : Carried) : (s.enqueue c).keys = s.keys := rfl
@[simp] theorem State.enqueue_slates (c : Carried) : (s.enqueue c).slates = s.slates := rfl
@[simp] theorem State.enqueue_lock (c : Carried) : (s.enqueue c).lock = s.lock := rfl
@[simp] theorem State.enqueue_events (c : Carried) : (s.enqueue c).events = s.events := rfl
@[simp] theorem State.enqueue_purchases (c : Carried) : (s.enqueue c).purchases = s.purchases := rfl
@[simp] theorem State.enqueue_bills (c : Carried) : (s.enqueue c).bills = s.bills := rfl
@[simp] theorem State.enqueue_store (c : Carried) : (s.enqueue c).store = s.store := rfl
@[simp] theorem State.enqueue_msgs (c : Carried) : (s.enqueue c).msgs = s.msgs := rfl
@[simp] theorem State.enqueue_req (c : Carried) : (s.enqueue c).req = s.req := rfl

/-! `State.issue` -/

@[simp] theorem State.issue_pending (l : List OwnTxn) : (s.issue l).pending = s.pending := rfl
@[simp] theorem State.issue_owed (l : List OwnTxn) : (s.issue l).owed = s.owed := rfl
@[simp] theorem State.issue_mem (l : List OwnTxn) : (s.issue l).mem = s.mem := rfl
@[simp] theorem State.issue_slots (l : List OwnTxn) : (s.issue l).slots = s.slots := rfl
@[simp] theorem State.issue_keys (l : List OwnTxn) : (s.issue l).keys = s.keys := rfl
@[simp] theorem State.issue_slates (l : List OwnTxn) : (s.issue l).slates = s.slates := rfl
@[simp] theorem State.issue_lock (l : List OwnTxn) : (s.issue l).lock = s.lock := rfl
@[simp] theorem State.issue_events (l : List OwnTxn) : (s.issue l).events = s.events := rfl
@[simp] theorem State.issue_purchases (l : List OwnTxn) : (s.issue l).purchases = s.purchases := rfl
@[simp] theorem State.issue_bills (l : List OwnTxn) : (s.issue l).bills = s.bills := rfl
@[simp] theorem State.issue_store (l : List OwnTxn) : (s.issue l).store = s.store := rfl
@[simp] theorem State.issue_msgs (l : List OwnTxn) : (s.issue l).msgs = s.msgs := rfl
@[simp] theorem State.issue_req (l : List OwnTxn) : (s.issue l).req = s.req := rfl

/-! `State.grantPSide` -/

@[simp] theorem State.grantPSide_pending (c : Carried) (l : List Carried) (n : Nat) : (s.grantPSide c l n).pending = s.pending := rfl
@[simp] theorem State.grantPSide_owed (c : Carried) (l : List Carried) (n : Nat) : (s.grantPSide c l n).owed = s.owed := rfl
@[simp] theorem State.grantPSide_mem (c : Carried) (l : List Carried) (n : Nat) : (s.grantPSide c l n).mem = s.mem := rfl
@[simp] theorem State.grantPSide_slots (c : Carried) (l : List Carried) (n : Nat) : (s.grantPSide c l n).slots = s.slots := rfl
@[simp] theorem State.grantPSide_keys (c : Carried) (l : List Carried) (n : Nat) : (s.grantPSide c l n).keys = s.keys := rfl
@[simp] theorem State.grantPSide_slates (c : Carried) (l : List Carried) (n : Nat) : (s.grantPSide c l n).slates = s.slates := rfl
@[simp] theorem State.grantPSide_lock (c : Carried) (l : List Carried) (n : Nat) : (s.grantPSide c l n).lock = s.lock := rfl
@[simp] theorem State.grantPSide_events (c : Carried) (l : List Carried) (n : Nat) : (s.grantPSide c l n).events = s.events := rfl
@[simp] theorem State.grantPSide_purchases (c : Carried) (l : List Carried) (n : Nat) : (s.grantPSide c l n).purchases = s.purchases := rfl
@[simp] theorem State.grantPSide_bills (c : Carried) (l : List Carried) (n : Nat) : (s.grantPSide c l n).bills = s.bills := rfl
@[simp] theorem State.grantPSide_store (c : Carried) (l : List Carried) (n : Nat) : (s.grantPSide c l n).store = s.store := rfl
@[simp] theorem State.grantPSide_msgs (c : Carried) (l : List Carried) (n : Nat) : (s.grantPSide c l n).msgs = s.msgs := rfl
@[simp] theorem State.grantPSide_req (c : Carried) (l : List Carried) (n : Nat) : (s.grantPSide c l n).req = s.req := rfl

/-! `State.grantOwn` -/

@[simp] theorem State.grantOwn_pending (o : OwnTxn) (l : List OwnTxn) : (s.grantOwn o l).pending = s.pending := rfl
@[simp] theorem State.grantOwn_owed (o : OwnTxn) (l : List OwnTxn) : (s.grantOwn o l).owed = s.owed := rfl
@[simp] theorem State.grantOwn_mem (o : OwnTxn) (l : List OwnTxn) : (s.grantOwn o l).mem = s.mem := rfl
@[simp] theorem State.grantOwn_slots (o : OwnTxn) (l : List OwnTxn) : (s.grantOwn o l).slots = s.slots := rfl
@[simp] theorem State.grantOwn_keys (o : OwnTxn) (l : List OwnTxn) : (s.grantOwn o l).keys = s.keys := rfl
@[simp] theorem State.grantOwn_slates (o : OwnTxn) (l : List OwnTxn) : (s.grantOwn o l).slates = s.slates := rfl
@[simp] theorem State.grantOwn_lock (o : OwnTxn) (l : List OwnTxn) : (s.grantOwn o l).lock = s.lock := rfl
@[simp] theorem State.grantOwn_events (o : OwnTxn) (l : List OwnTxn) : (s.grantOwn o l).events = s.events := rfl
@[simp] theorem State.grantOwn_purchases (o : OwnTxn) (l : List OwnTxn) : (s.grantOwn o l).purchases = s.purchases := rfl
@[simp] theorem State.grantOwn_bills (o : OwnTxn) (l : List OwnTxn) : (s.grantOwn o l).bills = s.bills := rfl
@[simp] theorem State.grantOwn_store (o : OwnTxn) (l : List OwnTxn) : (s.grantOwn o l).store = s.store := rfl
@[simp] theorem State.grantOwn_msgs (o : OwnTxn) (l : List OwnTxn) : (s.grantOwn o l).msgs = s.msgs := rfl

/-! `State.performWrite` -/

@[simp] theorem State.performWrite_pending (g : Granted) : (s.performWrite g).pending = s.pending := rfl
@[simp] theorem State.performWrite_owed (g : Granted) : (s.performWrite g).owed = s.owed := rfl
@[simp] theorem State.performWrite_slots (g : Granted) : (s.performWrite g).slots = s.slots := rfl
@[simp] theorem State.performWrite_keys (g : Granted) : (s.performWrite g).keys = s.keys := rfl
@[simp] theorem State.performWrite_slates (g : Granted) : (s.performWrite g).slates = s.slates := rfl
@[simp] theorem State.performWrite_lock (g : Granted) : (s.performWrite g).lock = s.lock := rfl
@[simp] theorem State.performWrite_events (g : Granted) : (s.performWrite g).events = s.events := rfl
@[simp] theorem State.performWrite_purchases (g : Granted) : (s.performWrite g).purchases = s.purchases := rfl
@[simp] theorem State.performWrite_bills (g : Granted) : (s.performWrite g).bills = s.bills := rfl
@[simp] theorem State.performWrite_store (g : Granted) : (s.performWrite g).store = s.store := rfl
@[simp] theorem State.performWrite_msgs (g : Granted) : (s.performWrite g).msgs = s.msgs := rfl
@[simp] theorem State.performWrite_req (g : Granted) : (s.performWrite g).req = s.req := rfl

/-! `State.mapPurchase` -/

@[simp] theorem State.mapPurchase_pending (h : Nat) (f : PurchaseEntry → PurchaseEntry) : (s.mapPurchase h f).pending = s.pending := rfl
@[simp] theorem State.mapPurchase_owed (h : Nat) (f : PurchaseEntry → PurchaseEntry) : (s.mapPurchase h f).owed = s.owed := rfl
@[simp] theorem State.mapPurchase_mem (h : Nat) (f : PurchaseEntry → PurchaseEntry) : (s.mapPurchase h f).mem = s.mem := rfl
@[simp] theorem State.mapPurchase_path (h : Nat) (f : PurchaseEntry → PurchaseEntry) : (s.mapPurchase h f).path = s.path := rfl
@[simp] theorem State.mapPurchase_slots (h : Nat) (f : PurchaseEntry → PurchaseEntry) : (s.mapPurchase h f).slots = s.slots := rfl
@[simp] theorem State.mapPurchase_keys (h : Nat) (f : PurchaseEntry → PurchaseEntry) : (s.mapPurchase h f).keys = s.keys := rfl
@[simp] theorem State.mapPurchase_slates (h : Nat) (f : PurchaseEntry → PurchaseEntry) : (s.mapPurchase h f).slates = s.slates := rfl
@[simp] theorem State.mapPurchase_lock (h : Nat) (f : PurchaseEntry → PurchaseEntry) : (s.mapPurchase h f).lock = s.lock := rfl
@[simp] theorem State.mapPurchase_events (h : Nat) (f : PurchaseEntry → PurchaseEntry) : (s.mapPurchase h f).events = s.events := rfl
@[simp] theorem State.mapPurchase_bills (h : Nat) (f : PurchaseEntry → PurchaseEntry) : (s.mapPurchase h f).bills = s.bills := rfl
@[simp] theorem State.mapPurchase_store (h : Nat) (f : PurchaseEntry → PurchaseEntry) : (s.mapPurchase h f).store = s.store := rfl
@[simp] theorem State.mapPurchase_msgs (h : Nat) (f : PurchaseEntry → PurchaseEntry) : (s.mapPurchase h f).msgs = s.msgs := rfl
@[simp] theorem State.mapPurchase_req (h : Nat) (f : PurchaseEntry → PurchaseEntry) : (s.mapPurchase h f).req = s.req := rfl

/-! `State.removePurchase` -/

@[simp] theorem State.removePurchase_pending (h : Nat) : (s.removePurchase h).pending = s.pending := rfl
@[simp] theorem State.removePurchase_owed (h : Nat) : (s.removePurchase h).owed = s.owed := rfl
@[simp] theorem State.removePurchase_mem (h : Nat) : (s.removePurchase h).mem = s.mem := rfl
@[simp] theorem State.removePurchase_path (h : Nat) : (s.removePurchase h).path = s.path := rfl
@[simp] theorem State.removePurchase_slots (h : Nat) : (s.removePurchase h).slots = s.slots := rfl
@[simp] theorem State.removePurchase_keys (h : Nat) : (s.removePurchase h).keys = s.keys := rfl
@[simp] theorem State.removePurchase_slates (h : Nat) : (s.removePurchase h).slates = s.slates := rfl
@[simp] theorem State.removePurchase_lock (h : Nat) : (s.removePurchase h).lock = s.lock := rfl
@[simp] theorem State.removePurchase_events (h : Nat) : (s.removePurchase h).events = s.events := rfl
@[simp] theorem State.removePurchase_bills (h : Nat) : (s.removePurchase h).bills = s.bills := rfl
@[simp] theorem State.removePurchase_store (h : Nat) : (s.removePurchase h).store = s.store := rfl
@[simp] theorem State.removePurchase_msgs (h : Nat) : (s.removePurchase h).msgs = s.msgs := rfl
@[simp] theorem State.removePurchase_req (h : Nat) : (s.removePurchase h).req = s.req := rfl

/-! `State.takePurchase` -/

@[simp] theorem State.takePurchase_pending (v : EventEntry) (c h : Nat) : (s.takePurchase v c h).pending = s.pending := rfl
@[simp] theorem State.takePurchase_owed (v : EventEntry) (c h : Nat) : (s.takePurchase v c h).owed = s.owed := rfl
@[simp] theorem State.takePurchase_mem (v : EventEntry) (c h : Nat) : (s.takePurchase v c h).mem = s.mem := rfl
@[simp] theorem State.takePurchase_path (v : EventEntry) (c h : Nat) : (s.takePurchase v c h).path = s.path := rfl
@[simp] theorem State.takePurchase_slots (v : EventEntry) (c h : Nat) : (s.takePurchase v c h).slots = s.slots := rfl
@[simp] theorem State.takePurchase_keys (v : EventEntry) (c h : Nat) : (s.takePurchase v c h).keys = s.keys := rfl
@[simp] theorem State.takePurchase_slates (v : EventEntry) (c h : Nat) : (s.takePurchase v c h).slates = s.slates := rfl
@[simp] theorem State.takePurchase_lock (v : EventEntry) (c h : Nat) : (s.takePurchase v c h).lock = s.lock := rfl
@[simp] theorem State.takePurchase_events (v : EventEntry) (c h : Nat) : (s.takePurchase v c h).events = s.events := rfl
@[simp] theorem State.takePurchase_bills (v : EventEntry) (c h : Nat) : (s.takePurchase v c h).bills = s.bills := rfl
@[simp] theorem State.takePurchase_store (v : EventEntry) (c h : Nat) : (s.takePurchase v c h).store = s.store := rfl
@[simp] theorem State.takePurchase_msgs (v : EventEntry) (c h : Nat) : (s.takePurchase v c h).msgs = s.msgs := rfl
@[simp] theorem State.takePurchase_req (v : EventEntry) (c h : Nat) : (s.takePurchase v c h).req = s.req := rfl

/-! `State.offer` -/

@[simp] theorem State.offer_pending (c : Caller) (w : StoreWrite) : (s.offer c w).pending = s.pending := rfl
@[simp] theorem State.offer_owed (c : Caller) (w : StoreWrite) : (s.offer c w).owed = s.owed := rfl
@[simp] theorem State.offer_mem (c : Caller) (w : StoreWrite) : (s.offer c w).mem = s.mem := rfl
@[simp] theorem State.offer_path (c : Caller) (w : StoreWrite) : (s.offer c w).path = s.path := rfl
@[simp] theorem State.offer_slots (c : Caller) (w : StoreWrite) : (s.offer c w).slots = s.slots := rfl
@[simp] theorem State.offer_keys (c : Caller) (w : StoreWrite) : (s.offer c w).keys = s.keys := rfl
@[simp] theorem State.offer_slates (c : Caller) (w : StoreWrite) : (s.offer c w).slates = s.slates := rfl
@[simp] theorem State.offer_lock (c : Caller) (w : StoreWrite) : (s.offer c w).lock = s.lock := rfl
@[simp] theorem State.offer_events (c : Caller) (w : StoreWrite) : (s.offer c w).events = s.events := rfl
@[simp] theorem State.offer_purchases (c : Caller) (w : StoreWrite) : (s.offer c w).purchases = s.purchases := rfl
@[simp] theorem State.offer_bills (c : Caller) (w : StoreWrite) : (s.offer c w).bills = s.bills := rfl
@[simp] theorem State.offer_msgs (c : Caller) (w : StoreWrite) : (s.offer c w).msgs = s.msgs := rfl
@[simp] theorem State.offer_req (c : Caller) (w : StoreWrite) : (s.offer c w).req = s.req := rfl

/-! `State.offerRoom` -/

@[simp] theorem State.offerRoom_pending (c : Caller) : (s.offerRoom c).pending = s.pending := rfl
@[simp] theorem State.offerRoom_owed (c : Caller) : (s.offerRoom c).owed = s.owed := rfl
@[simp] theorem State.offerRoom_mem (c : Caller) : (s.offerRoom c).mem = s.mem := rfl
@[simp] theorem State.offerRoom_path (c : Caller) : (s.offerRoom c).path = s.path := rfl
@[simp] theorem State.offerRoom_slots (c : Caller) : (s.offerRoom c).slots = s.slots := rfl
@[simp] theorem State.offerRoom_keys (c : Caller) : (s.offerRoom c).keys = s.keys := rfl
@[simp] theorem State.offerRoom_slates (c : Caller) : (s.offerRoom c).slates = s.slates := rfl
@[simp] theorem State.offerRoom_lock (c : Caller) : (s.offerRoom c).lock = s.lock := rfl
@[simp] theorem State.offerRoom_events (c : Caller) : (s.offerRoom c).events = s.events := rfl
@[simp] theorem State.offerRoom_purchases (c : Caller) : (s.offerRoom c).purchases = s.purchases := rfl
@[simp] theorem State.offerRoom_bills (c : Caller) : (s.offerRoom c).bills = s.bills := rfl
@[simp] theorem State.offerRoom_msgs (c : Caller) : (s.offerRoom c).msgs = s.msgs := rfl
@[simp] theorem State.offerRoom_req (c : Caller) : (s.offerRoom c).req = s.req := rfl

/-! `State.clearLock` -/

@[simp] theorem State.clearLock_pending : (s.clearLock).pending = s.pending := rfl
@[simp] theorem State.clearLock_owed : (s.clearLock).owed = s.owed := rfl
@[simp] theorem State.clearLock_mem : (s.clearLock).mem = s.mem := rfl
@[simp] theorem State.clearLock_path : (s.clearLock).path = s.path := rfl
@[simp] theorem State.clearLock_slots : (s.clearLock).slots = s.slots := rfl
@[simp] theorem State.clearLock_keys : (s.clearLock).keys = s.keys := rfl
@[simp] theorem State.clearLock_slates : (s.clearLock).slates = s.slates := rfl
@[simp] theorem State.clearLock_events : (s.clearLock).events = s.events := rfl
@[simp] theorem State.clearLock_purchases : (s.clearLock).purchases = s.purchases := rfl
@[simp] theorem State.clearLock_bills : (s.clearLock).bills = s.bills := rfl
@[simp] theorem State.clearLock_store : (s.clearLock).store = s.store := rfl
@[simp] theorem State.clearLock_msgs : (s.clearLock).msgs = s.msgs := rfl
@[simp] theorem State.clearLock_req : (s.clearLock).req = s.req := rfl

/-! `State.pinFailure` -/

@[simp] theorem State.pinFailure_pending : (s.pinFailure).pending = s.pending := rfl
@[simp] theorem State.pinFailure_owed : (s.pinFailure).owed = s.owed := rfl
@[simp] theorem State.pinFailure_mem : (s.pinFailure).mem = s.mem := rfl
@[simp] theorem State.pinFailure_path : (s.pinFailure).path = s.path := rfl
@[simp] theorem State.pinFailure_slots : (s.pinFailure).slots = s.slots := rfl
@[simp] theorem State.pinFailure_keys : (s.pinFailure).keys = s.keys := rfl
@[simp] theorem State.pinFailure_slates : (s.pinFailure).slates = s.slates := rfl
@[simp] theorem State.pinFailure_events : (s.pinFailure).events = s.events := rfl
@[simp] theorem State.pinFailure_purchases : (s.pinFailure).purchases = s.purchases := rfl
@[simp] theorem State.pinFailure_bills : (s.pinFailure).bills = s.bills := rfl
@[simp] theorem State.pinFailure_store : (s.pinFailure).store = s.store := rfl
@[simp] theorem State.pinFailure_msgs : (s.pinFailure).msgs = s.msgs := rfl
@[simp] theorem State.pinFailure_req : (s.pinFailure).req = s.req := rfl

/-! `State.setPinTo` -/

@[simp] theorem State.setPinTo_pending (p : Pin) (n : Nat) : (s.setPinTo p n).pending = s.pending := rfl
@[simp] theorem State.setPinTo_owed (p : Pin) (n : Nat) : (s.setPinTo p n).owed = s.owed := rfl
@[simp] theorem State.setPinTo_mem (p : Pin) (n : Nat) : (s.setPinTo p n).mem = s.mem := rfl
@[simp] theorem State.setPinTo_path (p : Pin) (n : Nat) : (s.setPinTo p n).path = s.path := rfl
@[simp] theorem State.setPinTo_slots (p : Pin) (n : Nat) : (s.setPinTo p n).slots = s.slots := rfl
@[simp] theorem State.setPinTo_keys (p : Pin) (n : Nat) : (s.setPinTo p n).keys = s.keys := rfl
@[simp] theorem State.setPinTo_slates (p : Pin) (n : Nat) : (s.setPinTo p n).slates = s.slates := rfl
@[simp] theorem State.setPinTo_events (p : Pin) (n : Nat) : (s.setPinTo p n).events = s.events := rfl
@[simp] theorem State.setPinTo_purchases (p : Pin) (n : Nat) : (s.setPinTo p n).purchases = s.purchases := rfl
@[simp] theorem State.setPinTo_bills (p : Pin) (n : Nat) : (s.setPinTo p n).bills = s.bills := rfl
@[simp] theorem State.setPinTo_store (p : Pin) (n : Nat) : (s.setPinTo p n).store = s.store := rfl
@[simp] theorem State.setPinTo_msgs (p : Pin) (n : Nat) : (s.setPinTo p n).msgs = s.msgs := rfl
@[simp] theorem State.setPinTo_req (p : Pin) (n : Nat) : (s.setPinTo p n).req = s.req := rfl

/-! `State.setCeiling` -/

@[simp] theorem State.setCeiling_pending (v : Nat) : (s.setCeiling v).pending = s.pending := rfl
@[simp] theorem State.setCeiling_owed (v : Nat) : (s.setCeiling v).owed = s.owed := rfl
@[simp] theorem State.setCeiling_mem (v : Nat) : (s.setCeiling v).mem = s.mem := rfl
@[simp] theorem State.setCeiling_path (v : Nat) : (s.setCeiling v).path = s.path := rfl
@[simp] theorem State.setCeiling_slots (v : Nat) : (s.setCeiling v).slots = s.slots := rfl
@[simp] theorem State.setCeiling_keys (v : Nat) : (s.setCeiling v).keys = s.keys := rfl
@[simp] theorem State.setCeiling_slates (v : Nat) : (s.setCeiling v).slates = s.slates := rfl
@[simp] theorem State.setCeiling_events (v : Nat) : (s.setCeiling v).events = s.events := rfl
@[simp] theorem State.setCeiling_purchases (v : Nat) : (s.setCeiling v).purchases = s.purchases := rfl
@[simp] theorem State.setCeiling_bills (v : Nat) : (s.setCeiling v).bills = s.bills := rfl
@[simp] theorem State.setCeiling_store (v : Nat) : (s.setCeiling v).store = s.store := rfl
@[simp] theorem State.setCeiling_msgs (v : Nat) : (s.setCeiling v).msgs = s.msgs := rfl
@[simp] theorem State.setCeiling_req (v : Nat) : (s.setCeiling v).req = s.req := rfl

/-! `State.grantTo` -/

@[simp] theorem State.grantTo_pending (g : Grant) : (s.grantTo g).pending = s.pending := rfl
@[simp] theorem State.grantTo_owed (g : Grant) : (s.grantTo g).owed = s.owed := rfl
@[simp] theorem State.grantTo_mem (g : Grant) : (s.grantTo g).mem = s.mem := rfl
@[simp] theorem State.grantTo_path (g : Grant) : (s.grantTo g).path = s.path := rfl
@[simp] theorem State.grantTo_slots (g : Grant) : (s.grantTo g).slots = s.slots := rfl
@[simp] theorem State.grantTo_keys (g : Grant) : (s.grantTo g).keys = s.keys := rfl
@[simp] theorem State.grantTo_slates (g : Grant) : (s.grantTo g).slates = s.slates := rfl
@[simp] theorem State.grantTo_events (g : Grant) : (s.grantTo g).events = s.events := rfl
@[simp] theorem State.grantTo_purchases (g : Grant) : (s.grantTo g).purchases = s.purchases := rfl
@[simp] theorem State.grantTo_bills (g : Grant) : (s.grantTo g).bills = s.bills := rfl
@[simp] theorem State.grantTo_store (g : Grant) : (s.grantTo g).store = s.store := rfl
@[simp] theorem State.grantTo_msgs (g : Grant) : (s.grantTo g).msgs = s.msgs := rfl
@[simp] theorem State.grantTo_req (g : Grant) : (s.grantTo g).req = s.req := rfl

/-! `State.removeGrants` -/

@[simp] theorem State.removeGrants_pending : (s.removeGrants).pending = s.pending := rfl
@[simp] theorem State.removeGrants_owed : (s.removeGrants).owed = s.owed := rfl
@[simp] theorem State.removeGrants_mem : (s.removeGrants).mem = s.mem := rfl
@[simp] theorem State.removeGrants_path : (s.removeGrants).path = s.path := rfl
@[simp] theorem State.removeGrants_slots : (s.removeGrants).slots = s.slots := rfl
@[simp] theorem State.removeGrants_keys : (s.removeGrants).keys = s.keys := rfl
@[simp] theorem State.removeGrants_slates : (s.removeGrants).slates = s.slates := rfl
@[simp] theorem State.removeGrants_events : (s.removeGrants).events = s.events := rfl
@[simp] theorem State.removeGrants_purchases : (s.removeGrants).purchases = s.purchases := rfl
@[simp] theorem State.removeGrants_bills : (s.removeGrants).bills = s.bills := rfl
@[simp] theorem State.removeGrants_store : (s.removeGrants).store = s.store := rfl
@[simp] theorem State.removeGrants_msgs : (s.removeGrants).msgs = s.msgs := rfl
@[simp] theorem State.removeGrants_req : (s.removeGrants).req = s.req := rfl

/-! `State.expireGrants` -/

@[simp] theorem State.expireGrants_pending : (s.expireGrants).pending = s.pending := rfl
@[simp] theorem State.expireGrants_owed : (s.expireGrants).owed = s.owed := rfl
@[simp] theorem State.expireGrants_mem : (s.expireGrants).mem = s.mem := rfl
@[simp] theorem State.expireGrants_path : (s.expireGrants).path = s.path := rfl
@[simp] theorem State.expireGrants_slots : (s.expireGrants).slots = s.slots := rfl
@[simp] theorem State.expireGrants_keys : (s.expireGrants).keys = s.keys := rfl
@[simp] theorem State.expireGrants_slates : (s.expireGrants).slates = s.slates := rfl
@[simp] theorem State.expireGrants_events : (s.expireGrants).events = s.events := rfl
@[simp] theorem State.expireGrants_purchases : (s.expireGrants).purchases = s.purchases := rfl
@[simp] theorem State.expireGrants_bills : (s.expireGrants).bills = s.bills := rfl
@[simp] theorem State.expireGrants_store : (s.expireGrants).store = s.store := rfl
@[simp] theorem State.expireGrants_msgs : (s.expireGrants).msgs = s.msgs := rfl
@[simp] theorem State.expireGrants_req : (s.expireGrants).req = s.req := rfl

/-! `State.expireLockout` -/

@[simp] theorem State.expireLockout_pending : (s.expireLockout).pending = s.pending := rfl
@[simp] theorem State.expireLockout_owed : (s.expireLockout).owed = s.owed := rfl
@[simp] theorem State.expireLockout_mem : (s.expireLockout).mem = s.mem := rfl
@[simp] theorem State.expireLockout_path : (s.expireLockout).path = s.path := rfl
@[simp] theorem State.expireLockout_slots : (s.expireLockout).slots = s.slots := rfl
@[simp] theorem State.expireLockout_keys : (s.expireLockout).keys = s.keys := rfl
@[simp] theorem State.expireLockout_slates : (s.expireLockout).slates = s.slates := rfl
@[simp] theorem State.expireLockout_events : (s.expireLockout).events = s.events := rfl
@[simp] theorem State.expireLockout_purchases : (s.expireLockout).purchases = s.purchases := rfl
@[simp] theorem State.expireLockout_bills : (s.expireLockout).bills = s.bills := rfl
@[simp] theorem State.expireLockout_store : (s.expireLockout).store = s.store := rfl
@[simp] theorem State.expireLockout_msgs : (s.expireLockout).msgs = s.msgs := rfl
@[simp] theorem State.expireLockout_req : (s.expireLockout).req = s.req := rfl

/-! `State.logRecord` -/

@[simp] theorem State.logRecord_pending (r : CommitRecord) : (s.logRecord r).pending = s.pending := rfl
@[simp] theorem State.logRecord_owed (r : CommitRecord) : (s.logRecord r).owed = s.owed := rfl
@[simp] theorem State.logRecord_mem (r : CommitRecord) : (s.logRecord r).mem = s.mem := rfl
@[simp] theorem State.logRecord_path (r : CommitRecord) : (s.logRecord r).path = s.path := rfl
@[simp] theorem State.logRecord_slots (r : CommitRecord) : (s.logRecord r).slots = s.slots := rfl
@[simp] theorem State.logRecord_keys (r : CommitRecord) : (s.logRecord r).keys = s.keys := rfl
@[simp] theorem State.logRecord_slates (r : CommitRecord) : (s.logRecord r).slates = s.slates := rfl
@[simp] theorem State.logRecord_lock (r : CommitRecord) : (s.logRecord r).lock = s.lock := rfl
@[simp] theorem State.logRecord_events (r : CommitRecord) : (s.logRecord r).events = s.events := rfl
@[simp] theorem State.logRecord_purchases (r : CommitRecord) : (s.logRecord r).purchases = s.purchases := rfl
@[simp] theorem State.logRecord_store (r : CommitRecord) : (s.logRecord r).store = s.store := rfl
@[simp] theorem State.logRecord_msgs (r : CommitRecord) : (s.logRecord r).msgs = s.msgs := rfl
@[simp] theorem State.logRecord_req (r : CommitRecord) : (s.logRecord r).req = s.req := rfl

/-! `State.resendDue` -/

@[simp] theorem State.resendDue_pending : (s.resendDue).pending = s.pending := rfl
@[simp] theorem State.resendDue_owed : (s.resendDue).owed = s.owed := rfl
@[simp] theorem State.resendDue_mem : (s.resendDue).mem = s.mem := rfl
@[simp] theorem State.resendDue_path : (s.resendDue).path = s.path := rfl
@[simp] theorem State.resendDue_slots : (s.resendDue).slots = s.slots := rfl
@[simp] theorem State.resendDue_keys : (s.resendDue).keys = s.keys := rfl
@[simp] theorem State.resendDue_slates : (s.resendDue).slates = s.slates := rfl
@[simp] theorem State.resendDue_lock : (s.resendDue).lock = s.lock := rfl
@[simp] theorem State.resendDue_events : (s.resendDue).events = s.events := rfl
@[simp] theorem State.resendDue_purchases : (s.resendDue).purchases = s.purchases := rfl
@[simp] theorem State.resendDue_store : (s.resendDue).store = s.store := rfl
@[simp] theorem State.resendDue_msgs : (s.resendDue).msgs = s.msgs := rfl
@[simp] theorem State.resendDue_req : (s.resendDue).req = s.req := rfl

/-! `State.spend` -/

@[simp] theorem State.spend_pending (c : Nat) : (s.spend c).pending = s.pending := rfl
@[simp] theorem State.spend_owed (c : Nat) : (s.spend c).owed = s.owed := rfl
@[simp] theorem State.spend_mem (c : Nat) : (s.spend c).mem = s.mem := rfl
@[simp] theorem State.spend_path (c : Nat) : (s.spend c).path = s.path := rfl
@[simp] theorem State.spend_slots (c : Nat) : (s.spend c).slots = s.slots := rfl
@[simp] theorem State.spend_keys (c : Nat) : (s.spend c).keys = s.keys := rfl
@[simp] theorem State.spend_slates (c : Nat) : (s.spend c).slates = s.slates := rfl
@[simp] theorem State.spend_lock (c : Nat) : (s.spend c).lock = s.lock := rfl
@[simp] theorem State.spend_events (c : Nat) : (s.spend c).events = s.events := rfl
@[simp] theorem State.spend_purchases (c : Nat) : (s.spend c).purchases = s.purchases := rfl
@[simp] theorem State.spend_bills (c : Nat) : (s.spend c).bills = s.bills := rfl
@[simp] theorem State.spend_store (c : Nat) : (s.spend c).store = s.store := rfl
@[simp] theorem State.spend_req (c : Nat) : (s.spend c).req = s.req := rfl

/-! `State.setRoomState` -/

@[simp] theorem State.setRoomState_pending (st : RoomState) : (s.setRoomState st).pending = s.pending := rfl
@[simp] theorem State.setRoomState_owed (st : RoomState) : (s.setRoomState st).owed = s.owed := rfl
@[simp] theorem State.setRoomState_mem (st : RoomState) : (s.setRoomState st).mem = s.mem := rfl
@[simp] theorem State.setRoomState_path (st : RoomState) : (s.setRoomState st).path = s.path := rfl
@[simp] theorem State.setRoomState_slots (st : RoomState) : (s.setRoomState st).slots = s.slots := rfl
@[simp] theorem State.setRoomState_keys (st : RoomState) : (s.setRoomState st).keys = s.keys := rfl
@[simp] theorem State.setRoomState_slates (st : RoomState) : (s.setRoomState st).slates = s.slates := rfl
@[simp] theorem State.setRoomState_lock (st : RoomState) : (s.setRoomState st).lock = s.lock := rfl
@[simp] theorem State.setRoomState_events (st : RoomState) : (s.setRoomState st).events = s.events := rfl
@[simp] theorem State.setRoomState_purchases (st : RoomState) : (s.setRoomState st).purchases = s.purchases := rfl
@[simp] theorem State.setRoomState_bills (st : RoomState) : (s.setRoomState st).bills = s.bills := rfl
@[simp] theorem State.setRoomState_store (st : RoomState) : (s.setRoomState st).store = s.store := rfl
@[simp] theorem State.setRoomState_req (st : RoomState) : (s.setRoomState st).req = s.req := rfl

/-! `State.startCheckoutTimer` -/

@[simp] theorem State.startCheckoutTimer_pending : (s.startCheckoutTimer).pending = s.pending := rfl
@[simp] theorem State.startCheckoutTimer_owed : (s.startCheckoutTimer).owed = s.owed := rfl
@[simp] theorem State.startCheckoutTimer_mem : (s.startCheckoutTimer).mem = s.mem := rfl
@[simp] theorem State.startCheckoutTimer_path : (s.startCheckoutTimer).path = s.path := rfl
@[simp] theorem State.startCheckoutTimer_slots : (s.startCheckoutTimer).slots = s.slots := rfl
@[simp] theorem State.startCheckoutTimer_keys : (s.startCheckoutTimer).keys = s.keys := rfl
@[simp] theorem State.startCheckoutTimer_slates : (s.startCheckoutTimer).slates = s.slates := rfl
@[simp] theorem State.startCheckoutTimer_lock : (s.startCheckoutTimer).lock = s.lock := rfl
@[simp] theorem State.startCheckoutTimer_events : (s.startCheckoutTimer).events = s.events := rfl
@[simp] theorem State.startCheckoutTimer_purchases : (s.startCheckoutTimer).purchases = s.purchases := rfl
@[simp] theorem State.startCheckoutTimer_bills : (s.startCheckoutTimer).bills = s.bills := rfl
@[simp] theorem State.startCheckoutTimer_store : (s.startCheckoutTimer).store = s.store := rfl
@[simp] theorem State.startCheckoutTimer_req : (s.startCheckoutTimer).req = s.req := rfl

/-! `State.removeEvent` -/

@[simp] theorem State.removeEvent_pending (id : BitVec 32) : (s.removeEvent id).pending = s.pending := rfl
@[simp] theorem State.removeEvent_owed (id : BitVec 32) : (s.removeEvent id).owed = s.owed := rfl
@[simp] theorem State.removeEvent_mem (id : BitVec 32) : (s.removeEvent id).mem = s.mem := rfl
@[simp] theorem State.removeEvent_path (id : BitVec 32) : (s.removeEvent id).path = s.path := rfl
@[simp] theorem State.removeEvent_slots (id : BitVec 32) : (s.removeEvent id).slots = s.slots := rfl
@[simp] theorem State.removeEvent_keys (id : BitVec 32) : (s.removeEvent id).keys = s.keys := rfl
@[simp] theorem State.removeEvent_slates (id : BitVec 32) : (s.removeEvent id).slates = s.slates := rfl
@[simp] theorem State.removeEvent_lock (id : BitVec 32) : (s.removeEvent id).lock = s.lock := rfl
@[simp] theorem State.removeEvent_purchases (id : BitVec 32) : (s.removeEvent id).purchases = s.purchases := rfl
@[simp] theorem State.removeEvent_bills (id : BitVec 32) : (s.removeEvent id).bills = s.bills := rfl
@[simp] theorem State.removeEvent_store (id : BitVec 32) : (s.removeEvent id).store = s.store := rfl
@[simp] theorem State.removeEvent_msgs (id : BitVec 32) : (s.removeEvent id).msgs = s.msgs := rfl
@[simp] theorem State.removeEvent_req (id : BitVec 32) : (s.removeEvent id).req = s.req := rfl

/-! `State.updateEvent` -/

@[simp] theorem State.updateEvent_pending (a : EventEntry) : (s.updateEvent a).pending = s.pending := rfl
@[simp] theorem State.updateEvent_owed (a : EventEntry) : (s.updateEvent a).owed = s.owed := rfl
@[simp] theorem State.updateEvent_mem (a : EventEntry) : (s.updateEvent a).mem = s.mem := rfl
@[simp] theorem State.updateEvent_path (a : EventEntry) : (s.updateEvent a).path = s.path := rfl
@[simp] theorem State.updateEvent_slots (a : EventEntry) : (s.updateEvent a).slots = s.slots := rfl
@[simp] theorem State.updateEvent_keys (a : EventEntry) : (s.updateEvent a).keys = s.keys := rfl
@[simp] theorem State.updateEvent_slates (a : EventEntry) : (s.updateEvent a).slates = s.slates := rfl
@[simp] theorem State.updateEvent_lock (a : EventEntry) : (s.updateEvent a).lock = s.lock := rfl
@[simp] theorem State.updateEvent_purchases (a : EventEntry) : (s.updateEvent a).purchases = s.purchases := rfl
@[simp] theorem State.updateEvent_bills (a : EventEntry) : (s.updateEvent a).bills = s.bills := rfl
@[simp] theorem State.updateEvent_store (a : EventEntry) : (s.updateEvent a).store = s.store := rfl
@[simp] theorem State.updateEvent_msgs (a : EventEntry) : (s.updateEvent a).msgs = s.msgs := rfl
@[simp] theorem State.updateEvent_req (a : EventEntry) : (s.updateEvent a).req = s.req := rfl

/-! `State.replaceEvent` -/

@[simp] theorem State.replaceEvent_pending (o : BitVec 32) (a : EventEntry) : (s.replaceEvent o a).pending = s.pending := rfl
@[simp] theorem State.replaceEvent_owed (o : BitVec 32) (a : EventEntry) : (s.replaceEvent o a).owed = s.owed := rfl
@[simp] theorem State.replaceEvent_mem (o : BitVec 32) (a : EventEntry) : (s.replaceEvent o a).mem = s.mem := rfl
@[simp] theorem State.replaceEvent_path (o : BitVec 32) (a : EventEntry) : (s.replaceEvent o a).path = s.path := rfl
@[simp] theorem State.replaceEvent_slots (o : BitVec 32) (a : EventEntry) : (s.replaceEvent o a).slots = s.slots := rfl
@[simp] theorem State.replaceEvent_keys (o : BitVec 32) (a : EventEntry) : (s.replaceEvent o a).keys = s.keys := rfl
@[simp] theorem State.replaceEvent_slates (o : BitVec 32) (a : EventEntry) : (s.replaceEvent o a).slates = s.slates := rfl
@[simp] theorem State.replaceEvent_lock (o : BitVec 32) (a : EventEntry) : (s.replaceEvent o a).lock = s.lock := rfl
@[simp] theorem State.replaceEvent_purchases (o : BitVec 32) (a : EventEntry) : (s.replaceEvent o a).purchases = s.purchases := rfl
@[simp] theorem State.replaceEvent_bills (o : BitVec 32) (a : EventEntry) : (s.replaceEvent o a).bills = s.bills := rfl
@[simp] theorem State.replaceEvent_store (o : BitVec 32) (a : EventEntry) : (s.replaceEvent o a).store = s.store := rfl
@[simp] theorem State.replaceEvent_msgs (o : BitVec 32) (a : EventEntry) : (s.replaceEvent o a).msgs = s.msgs := rfl
@[simp] theorem State.replaceEvent_req (o : BitVec 32) (a : EventEntry) : (s.replaceEvent o a).req = s.req := rfl

/-! `State.startTimer` -/

@[simp] theorem State.startTimer_pending : (s.startTimer).pending = s.pending := rfl
@[simp] theorem State.startTimer_owed : (s.startTimer).owed = s.owed := rfl
@[simp] theorem State.startTimer_mem : (s.startTimer).mem = s.mem := rfl
@[simp] theorem State.startTimer_path : (s.startTimer).path = s.path := rfl
@[simp] theorem State.startTimer_slots : (s.startTimer).slots = s.slots := rfl
@[simp] theorem State.startTimer_keys : (s.startTimer).keys = s.keys := rfl
@[simp] theorem State.startTimer_slates : (s.startTimer).slates = s.slates := rfl
@[simp] theorem State.startTimer_lock : (s.startTimer).lock = s.lock := rfl
@[simp] theorem State.startTimer_purchases : (s.startTimer).purchases = s.purchases := rfl
@[simp] theorem State.startTimer_bills : (s.startTimer).bills = s.bills := rfl
@[simp] theorem State.startTimer_store : (s.startTimer).store = s.store := rfl
@[simp] theorem State.startTimer_msgs : (s.startTimer).msgs = s.msgs := rfl
@[simp] theorem State.startTimer_req : (s.startTimer).req = s.req := rfl

/-! The fields that change -/

@[simp] theorem State.raise_req (n : Notice) : (s.raise n).req = { s.req with notices := raiseIn n s.req.notices } := rfl
@[simp] theorem State.answer_req (r : Request) (c : AnswerCode) (ws : List Word) :
    (s.answer r c ws).req = { s.req with service := .answering ⟨r.kind, r.tag, c, ws⟩ none } := rfl
@[simp] theorem State.fetchDone_path : s.fetchDone.path = { s.path with underWay := none } := rfl
@[simp] theorem State.enqueue_path (c : Carried) : (s.enqueue c).path = { s.path with pSide := s.path.pSide ++ [c] } := rfl
@[simp] theorem State.issue_path (l : List OwnTxn) : (s.issue l).path = s.path.issue l := rfl
@[simp] theorem State.performWrite_mem (g : Granted) : (s.performWrite g).mem = s.mem.perform s.path.anchorBase g := rfl
@[simp] theorem State.performWrite_path (g : Granted) : (s.performWrite g).path = { s.path with underWay := none } := rfl
@[simp] theorem State.mapPurchase_purchases (h : Nat) (f : PurchaseEntry → PurchaseEntry) :
    (s.mapPurchase h f).purchases = s.purchases.mapHandle h f := rfl
@[simp] theorem State.removePurchase_purchases (h : Nat) : (s.removePurchase h).purchases = s.purchases.remove h := rfl
@[simp] theorem State.offer_store (c : Caller) (w : StoreWrite) : (s.offer c w).store = s.store.offer c w := rfl
@[simp] theorem State.offerRoom_store (c : Caller) : (s.offerRoom c).store = s.store.offer c (.room s.roomRecord) := rfl
@[simp] theorem State.clearLock_lock : s.clearLock.lock = LockUnit.cleared := rfl
@[simp] theorem State.removeGrants_lock : s.removeGrants.lock = { s.lock with grants := [] } := rfl
@[simp] theorem State.setRoomState_msgs (st : RoomState) :
    (s.setRoomState st).msgs = { s.msgs with room := { s.msgs.room with state := st } } := rfl
@[simp] theorem State.spend_msgs (c : Nat) :
    (s.spend c).msgs = { s.msgs with room := { s.msgs.room with spent := s.msgs.room.spent + c } } := rfl
@[simp] theorem State.logRecord_bills (r : CommitRecord) :
    (s.logRecord r).bills = { s.bills with log := s.bills.log ++ [{ record := r, offer := .due, offeredBefore := false }] } := rfl

end Sys2Proof.Machine
end

