-- ==== Sys2Proof/Laws/Store.lean ====
section
/-! SUPPORT. The retained store: what an offer, a pair of offers and an advance of the waiting line leave as it was. -/

namespace Sys2Proof.Machine

@[simp] theorem Store.coalesce_state (st : Store) (c : Caller) (w : StoreWrite) : (st.coalesce c w).state = st.state := by
  unfold Store.coalesce; split <;> rfl

@[simp] theorem Store.coalesce_places (st : Store) (c : Caller) (w : StoreWrite) : (st.coalesce c w).places = st.places := by
  unfold Store.coalesce; split <;> rfl

@[simp] theorem Store.coalesce_queue_length (st : Store) (c : Caller) (w : StoreWrite) :
    (st.coalesce c w).queue.length = st.queue.length := by
  unfold Store.coalesce; split <;> simp <;> omega

@[simp] theorem Store.offer_state (st : Store) (c : Caller) (w : StoreWrite) : (st.offer c w).state = st.state := by
  cases h : st.state <;> simp only [Store.offer, h]
  split
  · rw [Store.coalesce_state, h]
  · split <;> rfl

@[simp] theorem Store.offer_places (st : Store) (c : Caller) (w : StoreWrite) : (st.offer c w).places = st.places := by
  cases h : st.state <;> simp only [Store.offer, h]
  split
  · rw [Store.coalesce_places]
  · split <;> rfl

/-- An offer leaves the queue within its capacity. -/
theorem Store.offer_queue (st : Store) (c : Caller) (w : StoreWrite) (h : st.queue.length ≤ Config.storeCapacity) :
    (st.offer c w).queue.length ≤ Config.storeCapacity := by
  cases hs : st.state <;> simp only [Store.offer, hs]
  · split
    · rw [Store.coalesce_queue_length]; exact h
    · split
      · next h2 => simp only [Bool.and_eq_true, decide_eq_true_eq] at h2; simp; omega
      · exact h
  · exact h

@[simp] theorem Store.offer_faulted (st : Store) (c : Caller) (w : StoreWrite) (h : st.state = .faulted) : st.offer c w = st := by
  simp only [Store.offer, h]

@[simp] theorem Store.offerPair_state (st : Store) (c : Caller) (r w : StoreWrite) : (st.offerPair c r w).state = st.state := by
  cases h : st.state <;> simp only [Store.offerPair, h]
  split
  · rw [Store.offer_state, Store.coalesce_state, h]
  · split <;> rfl

@[simp] theorem Store.offerPair_places (st : Store) (c : Caller) (r w : StoreWrite) : (st.offerPair c r w).places = st.places := by
  cases h : st.state <;> simp only [Store.offerPair, h]
  split
  · rw [Store.offer_places, Store.coalesce_places]
  · split <;> rfl

/-- A pair of offers leaves the queue within its capacity. -/
theorem Store.offerPair_queue (st : Store) (c : Caller) (r w : StoreWrite) (h : st.queue.length ≤ Config.storeCapacity) :
    (st.offerPair c r w).queue.length ≤ Config.storeCapacity := by
  cases hs : st.state <;> simp only [Store.offerPair, hs]
  · split
    · exact Store.offer_queue _ _ _ (by rw [Store.coalesce_queue_length]; exact h)
    · split
      · next h2 => simp only [Bool.and_eq_true, decide_eq_true_eq] at h2; simp; omega
      · exact h
  · exact h

/-- The waiting line's advance leaves the queue within its capacity. -/
theorem Store.advance_queue (st : Store) (h : st.queue.length ≤ Config.storeCapacity) :
    st.advance.queue.length ≤ Config.storeCapacity := by
  unfold Store.advance
  split
  · exact h
  · split
    · simp; omega
    · exact h
  · split
    · simp; omega
    · exact h

end Sys2Proof.Machine
end

