-- ==== Sys2Proof/Laws/Bills.lean ====
section
/-! SUPPORT. The new commit records on their way to the store: what an offer, a commit's pair of offers and an advance of the waiting line
do to them (R132, R133, R135). -/

namespace Sys2Proof.Machine

/-- The new commit records of the queue and the waiting line, in the order in which they will be written. -/
def Store.newRecords (st : Store) : List CommitRecord :=
  (st.queue ++ st.line.flatMap LineItem.writes).filterMap (·.write.newRecord?)

/-- The records still to come are those of the store and those of the held pairs. -/
theorem State.recordsToCome_eq (s : State) : s.recordsToCome = s.store.newRecords ++ s.purchases.heldPairs := rfl

/-- A write of the place a ROOM write names carries no new record. -/
theorem StoreWrite.newRecord_room {w v : StoreWrite} {c : Option RoomRecord} (hw : w = .room c) (h : v.samePlace w = true) :
    v.newRecord? = none := by
  subst hw
  cases v <;> first | rfl | cases h

/-- Writes that each carry the record they carried, or none any more. -/
theorem newRecords_map (f : QueuedWrite → QueuedWrite)
    (h : ∀ q, (f q).write.newRecord? = q.write.newRecord? ∨ (f q).write.newRecord? = none) (l : List QueuedWrite) :
    ((l.map f).filterMap (·.write.newRecord?)).Sublist (l.filterMap (·.write.newRecord?)) := by
  induction l with
  | nil => exact .slnil
  | cons q l ih =>
    simp only [List.map_cons, List.filterMap_cons]
    rcases h q with h | h
    · rw [h]
      cases q.write.newRecord?
      · exact ih
      · exact ih.cons_cons _
    · rw [h]
      cases q.write.newRecord?
      · exact ih
      · exact ih.cons _

/-- Writes that each carry the record they carried. -/
theorem newRecords_map_eq (f : QueuedWrite → QueuedWrite) (h : ∀ q, (f q).write.newRecord? = q.write.newRecord?) (l : List QueuedWrite) :
    (l.map f).filterMap (·.write.newRecord?) = l.filterMap (·.write.newRecord?) := by
  rw [List.filterMap_map]
  exact congrArg (fun g => l.filterMap g) (funext h)

/-- The writes of a changed line are the line's writes, each changed. -/
theorem flatMap_writes_map (f : QueuedWrite → QueuedWrite) (l : List LineItem) :
    (l.map (·.map f)).flatMap LineItem.writes = (l.flatMap LineItem.writes).map f := by
  induction l with
  | nil => rfl
  | cons x l ih => cases x <;> simp only [List.map_cons, List.flatMap_cons, List.map_append, ih] <;> rfl

/-- A coalescing write that carries no new record adds none. -/
theorem Store.coalesce_newRecords (st : Store) (c : Caller) (w : StoreWrite) (h : w.newRecord? = none) :
    (st.coalesce c w).newRecords.Sublist st.newRecords := by
  unfold Store.coalesce Store.newRecords
  split
  · dsimp only
    rw [List.filterMap_append, List.filterMap_append, List.filterMap_append]
    refine List.Sublist.append ?_ (.refl _)
    conv => rhs; rw [← List.take_append_drop 1 st.queue, List.filterMap_append]
    refine List.Sublist.append (.refl _) (newRecords_map _ (fun q => ?_) _)
    unfold QueuedWrite.coalesce
    split
    · exact .inr h
    · exact .inl rfl
  · dsimp only
    rw [List.filterMap_append, List.filterMap_append, flatMap_writes_map]
    refine List.Sublist.append (.refl _) (newRecords_map _ (fun q => ?_) _)
    unfold QueuedWrite.coalesceWaiting
    split
    · exact .inr h
    · exact .inl rfl

/-- A coalescing ROOM write leaves the new records as they are. -/
theorem Store.coalesce_room_newRecords (st : Store) (c : Caller) (r : Option RoomRecord) :
    (st.coalesce c (.room r)).newRecords = st.newRecords := by
  unfold Store.coalesce Store.newRecords
  split
  · dsimp only
    rw [List.filterMap_append, List.filterMap_append, List.filterMap_append]
    congr 1
    conv => rhs; rw [← List.take_append_drop 1 st.queue, List.filterMap_append]
    congr 1
    refine newRecords_map_eq _ (fun q => ?_) _
    unfold QueuedWrite.coalesce
    split
    · next h => exact (StoreWrite.newRecord_room rfl h).symm
    · rfl
  · dsimp only
    rw [List.filterMap_append, List.filterMap_append, flatMap_writes_map]
    congr 1
    refine newRecords_map_eq _ (fun q => ?_) _
    unfold QueuedWrite.coalesceWaiting
    split
    · next h => exact (StoreWrite.newRecord_room rfl h).symm
    · rfl

/-- A write that carries no new record, offered, adds none. -/
theorem Store.offer_newRecords (st : Store) (c : Caller) (w : StoreWrite) (h : w.newRecord? = none) :
    (st.offer c w).newRecords.Sublist st.newRecords := by
  cases hs : st.state <;> simp only [Store.offer, hs]
  · split
    · exact st.coalesce_newRecords c w h
    · split
      · next hq =>
        have hl := List.isEmpty_iff.1 (Bool.and_eq_true_iff.1 hq).1
        simp [Store.newRecords, hl, QueuedWrite.fresh, h]
      · simp [Store.newRecords, LineItem.writes, QueuedWrite.freshWaiting, h]
  · exact .refl _

/-- The free COMMIT place is empty and no write names it. -/
theorem Store.freePlace_spec {st : Store} {i : Fin 48} (h : st.freePlace = some i) :
    st.places.commits[i] = .empty ∧ st.names i = false := by
  have := List.find?_some h
  simpa using this

/-- Whether a write of the queue or the line names a place says nothing of the ROOM write's content. -/
theorem Store.coalesce_names (st : Store) (c : Caller) (r : Option RoomRecord) (i : Fin 48) :
    (st.coalesce c (.room r)).names i = st.names i := by
  have h1 : ∀ l : List QueuedWrite, (l.map (QueuedWrite.coalesce c (.room r))).any (fun q => q.write.samePlace (.commit i none)) =
      l.any fun q => q.write.samePlace (.commit i none) := by
    intro l
    rw [List.any_map]
    congr 1; funext q
    simp only [Function.comp, QueuedWrite.coalesce]
    split
    · next h => cases hq : q.write <;> rw [hq] at h <;> first | rfl | cases h
    · rfl
  have h2 : ∀ q : QueuedWrite, (QueuedWrite.coalesceWaiting c (.room r) q).write.samePlace (.commit i none) =
      q.write.samePlace (.commit i none) := by
    intro q
    unfold QueuedWrite.coalesceWaiting
    split
    · next h => cases hq : q.write <;> rw [hq] at h <;> first | rfl | cases h
    · rfl
  unfold Store.coalesce Store.names Store.inLine
  split
  · dsimp only
    rw [List.any_append, h1, ← List.any_append, List.take_append_drop]
  · dsimp only
    rw [List.any_map]
    congr 2; funext x
    cases x <;> simp [LineItem.map, LineItem.any, h2]

/-- A new commit record offered alone, to a GOOD store with a place that no write names, comes last. -/
theorem Store.offer_commit_newRecords (st : Store) (c : Caller) (i : Fin 48) (r : CommitRecord) (hs : st.state = .good)
    (hn : st.names i = false) (hr : r.acked = false) : (st.offer c (.commit i (some r))).newRecords = st.newRecords ++ [r] := by
  have same : ∀ q : QueuedWrite, q.write.samePlace (.commit i (some r)) = q.write.samePlace (.commit i none) := by
    intro q; cases q.write <;> rfl
  simp only [Store.names, Bool.or_eq_false_iff] at hn
  have hq : st.queuedUnstarted (.commit i (some r)) = false := by
    unfold Store.queuedUnstarted
    simp only [same]
    exact List.any_eq_false.2 fun q h => List.any_eq_false.1 hn.1 q (List.mem_of_mem_drop h)
  have hl : st.inLine (.commit i (some r)) = false := by
    have := hn.2
    unfold Store.inLine at this ⊢
    simpa only [same] using this
  have hnew : (StoreWrite.commit i (some r)).newRecord? = some r := by simp [StoreWrite.newRecord?, hr]
  simp only [Store.offer, hs, hq, hl, Bool.or_self, Bool.false_eq_true, if_false]
  split
  · next h =>
    have hline := List.isEmpty_iff.1 (Bool.and_eq_true_iff.1 h).1
    simp [Store.newRecords, hline, QueuedWrite.fresh, hnew]
  · simp [Store.newRecords, LineItem.writes, QueuedWrite.freshWaiting, hnew]

/-- The pair of a commit's start, offered to a GOOD store with a place that no write names: its record comes last. -/
theorem Store.offerPair_newRecords (st : Store) (c : Caller) (room : Option RoomRecord) (i : Fin 48) (r : CommitRecord)
    (hs : st.state = .good) (hn : st.names i = false) (hr : r.acked = false) :
    (st.offerPair c (.room room) (.commit i (some r))).newRecords = st.newRecords ++ [r] := by
  have hnew : (StoreWrite.commit i (some r)).newRecord? = some r := by simp [StoreWrite.newRecord?, hr]
  have hroom : (StoreWrite.room room).newRecord? = none := rfl
  simp only [Store.offerPair, hs]
  split
  · rw [Store.offer_commit_newRecords _ c i r (by rw [Store.coalesce_state, hs]) (by rw [Store.coalesce_names, hn]) hr,
      Store.coalesce_room_newRecords]
  · split
    · next h =>
      have hline := List.isEmpty_iff.1 (Bool.and_eq_true_iff.1 h).1
      simp [Store.newRecords, hline, QueuedWrite.fresh, hnew, hroom]
    · simp [Store.newRecords, LineItem.writes, QueuedWrite.freshWaiting, hnew, hroom]

/-- The advance of the waiting line leaves the new records as they are. -/
theorem Store.advance_newRecords (st : Store) : st.advance.newRecords = st.newRecords := by
  unfold Store.advance
  split
  · rfl
  · next h => split <;> simp [Store.newRecords, h, LineItem.writes, QueuedWrite.joined, List.filterMap_cons]
  · next h => split <;> simp [Store.newRecords, h, LineItem.writes, QueuedWrite.joined, List.filterMap_cons]

end Sys2Proof.Machine
end

