-- ==== Sys2Proof/Laws/Steps.lean ====
section
/-! SUPPORT. What a step is made of: what is owed when nothing is, the effect of a command on a settled state, and the situations in
which the row of a request or of a message kind has its effect. -/

namespace Sys2Proof.Machine

/-- Setting the owed list of a settled state to nothing changes nothing. -/
theorem State.owed_nil {s : State} (h : s.settled) : { s with owed := [] } = s := by
  cases s; simp only [State.settled] at h; subst h; rfl

/-- With nothing owed, settling changes nothing. -/
theorem State.settle_settled {s : State} (h : s.settled) : s.settle = s := by
  have h' : s.owed = [] := h
  rw [State.settle, h', State.settleList]; exact State.owed_nil h

/-- Settling does the first owed part, and then the rest. -/
theorem State.settle_cons {s : State} {o : Owed} {os : List Owed} (h : s.owed = o :: os) : s.settle = (s.doOwed o os).settle := by
  unfold State.settle; rw [h]; rfl

/-- Nothing is owed after settling. -/
theorem State.settleList_owed (l : List Owed) (s : State) : (State.settleList l s).owed = [] := by
  induction l generalizing s with
  | nil => rfl
  | cons o os ih => exact ih _

theorem State.settle_owed (s : State) : s.settle.owed = [] := State.settleList_owed _ _

/-- Settling twice is settling once. -/
theorem State.settle_settle (s : State) : s.settle.settle = s.settle := State.settle_settled (State.settle_owed s)

/-- A command that does what is owed first, on a settled state. -/
theorem act_settled (f : State → State) {s : State} (h : s.settled) : act f s = .next (f s) := by
  rw [act, State.settle_settled h]

/-- A command that does what is owed first has the same effect once that is done. -/
theorem act_settle (f : State → State) (s : State) : act f s.settle = act f s := by rw [act, act, State.settle_settle]

/-- An arrival on a settled state. -/
theorem arrival_accepted {s : State} {t : Txn} (h : s.settled) (ok : t.ok = true) :
    arrival t s = .next (match t with | .write w => s.arriveWrite w | .read r => s.arriveRead r) := by
  cases t <;> simp [arrival, ok, act_settled _ h]

/-- A request row serves the record fetched. -/
theorem State.serveAs_serving {s : State} {code : Nat} {r : Request} (serve : Request → State → State) (h : s.serving code r) :
    s.serveAs code serve = serve r s.fetchDone := by
  rw [State.serveAs, h.2.1]; simp [h.2.2]

/-- The row of a message kind applies the head message. -/
theorem State.dealHeadAs_heading {s : State} {k : MsgKind} {m : Message} (h : s.heading k m) :
    s.dealHeadAs k = s.applyHead k m := by
  rw [State.dealHeadAs, h.2.1]; simp [h.2.2.1]

/-- With no write of the head message in the waiting line, the message leaves. -/
theorem State.leaveOrWait_gone {s : State} (h : s.store.line.any (·.any (·.heads)) = false) : s.leaveOrWait = s.headGone := by
  rw [State.leaveOrWait, if_neg (by simp [h])]; rfl

/-- The row of a message kind, on a settled state. -/
theorem exec_row (k : MsgKind) {s : State} (h : s.settled) : exec k.row s = .next (s.dealHeadAs k) := by
  cases k <;> exact act_settled _ h

/-- The row of a message kind, with a message of that kind at the head that passes. -/
theorem exec_heading {k : MsgKind} {s : State} {m : Message} (h : s.heading k m) : exec k.row s = .next (s.applyHead k m) := by
  rw [exec_row k h.1, State.dealHeadAs_heading h]

end Sys2Proof.Machine
end

