-- ==== Sys2Proof/Laws/Cascade.lean ====
section
/-! SUPPORT. What the operations on events, purchases, commits, the store and the room leave as it was, however far one of them leads:
one relation between the states before and after, kept by every one of them. -/

namespace Sys2Proof.Machine

/-- What every operation that a purchase, a commit, a store write, an event or the drain can lead to leaves as it was, or lets move in
one direction only. -/
structure Cascade (s t : State) : Prop where
  pending   : t.pending = s.pending
  mem       : t.mem = s.mem
  path      : t.path = s.path
  slots     : t.slots = s.slots
  keys      : t.keys = s.keys
  slates    : t.slates = s.slates
  timer     : t.events.timerRunning = s.events.timerRunning
  uptime    : t.events.uptime = s.events.uptime
  hotelTime : t.events.hotelTime = s.events.hotelTime
  events    : t.events.entries.length ≤ s.events.entries.length
  purchases : t.purchases.entries.length ≤ s.purchases.entries.length
  grants    : t.lock.grants.length ≤ s.lock.grants.length
  queue     : s.store.queue.length ≤ Config.storeCapacity → t.store.queue.length ≤ Config.storeCapacity
  intake    : t.msgs.intake.length ≤ s.msgs.intake.length
  watching  : t.msgs.watching = s.msgs.watching
  counter   : ∀ n, s.bills.counter = some n → ∃ n', t.bills.counter = some n' ∧ n ≤ n'
  room      : t.msgs.room.state = s.msgs.room.state ∨ (s.msgs.room.state = .checkout ∧ t.msgs.room.state = .vacant)
  startUp   : t.req.startUp = s.req.startUp

namespace Cascade

theorem refl (s : State) : Cascade s s :=
  ⟨rfl, rfl, rfl, rfl, rfl, rfl, rfl, rfl, rfl, Nat.le_refl _, Nat.le_refl _, Nat.le_refl _, id, Nat.le_refl _, rfl,
    fun n h => ⟨n, h, Nat.le_refl _⟩, .inl rfl, rfl⟩

theorem trans {s t u : State} (h : Cascade s t) (k : Cascade t u) : Cascade s u where
  pending := k.pending.trans h.pending
  mem := k.mem.trans h.mem
  path := k.path.trans h.path
  slots := k.slots.trans h.slots
  keys := k.keys.trans h.keys
  slates := k.slates.trans h.slates
  timer := k.timer.trans h.timer
  uptime := k.uptime.trans h.uptime
  hotelTime := k.hotelTime.trans h.hotelTime
  events := Nat.le_trans k.events h.events
  purchases := Nat.le_trans k.purchases h.purchases
  grants := Nat.le_trans k.grants h.grants
  queue := k.queue ∘ h.queue
  intake := Nat.le_trans k.intake h.intake
  watching := k.watching.trans h.watching
  counter := fun n e => by
    obtain ⟨n', e', l⟩ := h.counter n e
    obtain ⟨n'', e'', l'⟩ := k.counter n' e'
    exact ⟨n'', e'', Nat.le_trans l l'⟩
  room := by
    rcases k.room with a | ⟨a, b⟩ <;> rcases h.room with c | ⟨c, d⟩
    · exact .inl (a.trans c)
    · exact .inr ⟨c, a.trans d⟩
    · exact .inr ⟨c.symm.trans a, b⟩
    · exact .inr ⟨c, b⟩
  startUp := k.startUp.trans h.startUp

/-- A fold of operations, each of them a cascade. -/
theorem fold {α : Type} {f : State → α → State} (hf : ∀ s a, Cascade s (f s a)) (l : List α) (s : State) :
    Cascade s (l.foldl f s) := by
  induction l generalizing s with
  | nil => exact refl s
  | cons a l ih => exact (hf s a).trans (ih _)

/-- One of two operations. -/
theorem ite {p : Prop} [Decidable p] {s t u : State} (h : Cascade s t) (k : Cascade s u) : Cascade s (if p then t else u) := by
  split
  · exact h
  · exact k

variable (s : State)

theorem raise (n : Notice) : Cascade s (s.raise n) := { refl s with }

theorem offer (c : Caller) (w : StoreWrite) : Cascade s (s.offer c w) :=
  { refl s with queue := Store.offer_queue _ _ _ }

theorem offerRoom (c : Caller) : Cascade s (s.offerRoom c) := offer s c _

theorem mapPurchase (h : Nat) (f : PurchaseEntry → PurchaseEntry) : Cascade s (s.mapPurchase h f) :=
  { refl s with purchases := by simp [State.mapPurchase, PurchaseUnit.mapHandle] }

theorem removePurchase (h : Nat) : Cascade s (s.removePurchase h) :=
  { refl s with purchases := List.length_filter_le _ _ }

theorem freeIfAcked (c : Caller) (seq : Option Nat) : Cascade s (s.freeIfAcked c seq) := by
  unfold State.freeIfAcked
  split
  · exact refl s
  · split
    · split
      · exact offer s _ _
      · exact refl s
    · exact refl s

theorem releaseHeld (r : Reason) (e : PurchaseEntry) : Cascade s (s.releaseHeld r e) :=
  (removePurchase s _).trans (raise _ _)

theorem retireCommitted (c : Caller) (r : Reason) (e : PurchaseEntry) : Cascade s (s.retireCommitted c r e) :=
  ((removePurchase s _).trans (raise _ _)).trans (freeIfAcked _ _ _)

theorem retireAll (c : Caller) : Cascade s (s.retireAll c) := fold (fun _ _ => retireCommitted _ _ _ _) _ _

theorem emptyTitles (c : Caller) : Cascade s (s.emptyTitles c) :=
  trans (t := { s with purchases := { s.purchases with titles := [] } }) { refl s with } (offer _ _ _)

theorem enterVacant (c : Caller) (h : s.msgs.room.state = .checkout) : Cascade s (s.enterVacant c) := by
  unfold State.enterVacant
  have h1 := (retireAll s c).trans (emptyTitles _ c)
  refine (trans ?_ ((offerRoom _ c).trans (raise _ _)))
  exact { h1 with
    events := by
      show (List.map _ _).length ≤ _
      rw [List.length_map]; exact h1.events
    grants := Nat.zero_le _
    room := .inr ⟨h, rfl⟩ }

theorem testDrain (c : Caller) : Cascade s (s.testDrain c) := by
  unfold State.testDrain
  split
  · next h => exact enterVacant s c h.1
  · exact refl s

theorem commitEnded (c : Caller) : Cascade s (s.commitEnded c) := by
  unfold State.commitEnded
  split
  · next h => exact enterVacant s c h.1
  · exact testDrain s c

theorem clearCharge (e : PurchaseEntry) : Cascade s (s.clearCharge e) := (mapPurchase s _ _).trans (raise _ _)

theorem addTitle (t : BitVec 32) : Cascade s (s.addTitle t) := by
  unfold State.addTitle
  split
  · exact refl s
  · refine trans (t := { s with purchases := { s.purchases with titles := joinTitle t s.purchases.titles } })
      { refl s with } (fold (fun s e => clearCharge s e) _ _)

theorem offerTitlesIf (c : Caller) (b : Bool) : Cascade s (s.offerTitlesIf c b) := ite (offer s _ _) (refl s)

theorem commitFree (c : Caller) (e : PurchaseEntry) : Cascade s (s.commitFree c e) :=
  (((mapPurchase s _ _).trans (addTitle _ _)).trans (offerTitlesIf _ _ _)).trans (raise _ _)

theorem failCommit (e : PurchaseEntry) : Cascade s (s.failCommit e) := (removePurchase s _).trans (raise _ _)

theorem failCommitting : Cascade s s.failCommitting := fold (fun _ _ => failCommit _ _) _ _

theorem writeEnded_startUp (q : RequestUnit) (b : Bool) : (q.writeEnded b).startUp = q.startUp := by
  unfold RequestUnit.writeEnded; split <;> rfl

theorem writeJoined_startUp (q : RequestUnit) : q.writeJoined.startUp = q.startUp := by
  unfold RequestUnit.writeJoined; split <;> rfl

theorem faultStore : Cascade s s.faultStore := by
  refine { refl s with queue := fun _ => Nat.zero_le _, intake := ?_, watching := ?_, room := .inl ?_, startUp := ?_ }
  · simp only [State.faultStore]
    split
    · simp [MessageUnit.dropHead]
    · exact Nat.le_refl _
  · simp only [State.faultStore]; split <;> rfl
  · simp only [State.faultStore]; split <;> rfl
  · simp only [State.faultStore, writeJoined_startUp, writeEnded_startUp]

theorem storeFault : Cascade s s.storeFault := (faultStore s).trans (failCommitting _)

theorem offerCommit (c : Caller) (r : CommitRecord) : Cascade s (s.offerCommit c r) := by
  unfold State.offerCommit
  split
  · exact { refl s with queue := Store.offerPair_queue _ _ _ _ }
  · exact { refl s with }

theorem commitNumbered (c : Caller) (e : PurchaseEntry) (n : Nat) (h : s.bills.counter = some n) :
    Cascade s (s.commitNumbered c e n) := by
  unfold State.commitNumbered
  refine trans ?_ ((offerCommit _ _ _).trans (raise _ _))
  refine { mapPurchase s _ _ with counter := fun m hm => ⟨n + 1, rfl, ?_⟩ }
  rw [h] at hm; cases hm; exact Nat.le_succ _

theorem commitCharged (c : Caller) (e : PurchaseEntry) : Cascade s (s.commitCharged c e) := by
  unfold State.commitCharged
  split
  · exact (failCommit s _).trans (commitEnded _ _)
  · exact ((storeFault s).trans (failCommit _ _)).trans (commitEnded _ _)
  · next n _ h =>
    split
    · exact commitNumbered s _ _ _ h
    · exact ((storeFault s).trans (failCommit _ _)).trans (commitEnded _ _)

theorem beginCommit (c : Caller) (h : Nat) : Cascade s (s.beginCommit c h) := by
  unfold State.beginCommit
  split
  · exact refl s
  · split
    · exact ite (commitFree s _ _) (commitCharged s _ _)
    · exact refl s
    · exact refl s

theorem completeCommit (r : CommitRecord) : Cascade s (s.completeCommit r) := by
  have h1 : Cascade s (s.logRecord r) := { refl s with }
  unfold State.completeCommit
  dsimp only
  split
  · exact h1
  · next e _ =>
    refine trans ?_ (commitEnded _ _)
    have h2 : Cascade s (((s.logRecord r).mapPurchase e.handle fun _ => { e with state := .committed }).spend e.charge) :=
      (h1.trans (mapPurchase _ _ _)).trans { refl _ with }
    have h3 := (((h2.trans (addTitle _ e.title)).trans (offerRoom _ .part)).trans
      (offerTitlesIf _ .part (!s.purchases.titles.contains e.title))).trans
      (raise _ (PurchaseEntry.notice { e with state := .committed } .committed .committed))
    exact ite (h3.trans (retireCommitted _ _ _ _)) h3

theorem endPurchase (c : Caller) (id : BitVec 32) : Cascade s (s.endPurchase c id) := by
  unfold State.endPurchase
  split
  · exact refl s
  · split
    · exact releaseHeld s _ _
    · exact mapPurchase s _ _
    · exact retireCommitted s _ _ _

theorem endEvent (c : Caller) (id : BitVec 32) : Cascade s (s.endEvent c id) :=
  trans (endPurchase s c id) { refl _ with events := List.length_filter_le _ _ }

theorem offerHeldPair : Cascade s s.offerHeldPair := by
  unfold State.offerHeldPair
  split
  · exact { refl s with queue := Store.offerPair_queue _ _ _ _ }
  · exact refl s

theorem watch (e : PurchaseEntry) : Cascade s (s.watch e) :=
  ite ((mapPurchase s _ _).trans (beginCommit _ _ _)) (mapPurchase s _ _)

theorem mapEvents (id : BitVec 32) (f : EventEntry → EventEntry) : Cascade s { s with events := s.events.mapId id f } :=
  { refl s with events := by simp [EventUnit.mapId] }

theorem freeLookSecond (v : EventEntry) : Cascade s (s.freeLookSecond v) := ite (mapEvents s _ _) (refl s)

theorem foldMark (id : BitVec 32) : Cascade s (s.foldMark id) := by
  have h1 := mapEvents s id fun v => { v with seen := false }
  unfold State.foldMark
  split
  · exact refl s
  · dsimp only
    split
    · split
      · exact h1.trans (freeLookSecond _ _)
      · split
        · exact h1.trans (watch _ _)
        · exact h1
        · exact h1.trans (watch _ _)
    · exact h1

theorem foldMarks (ids : List (BitVec 32)) : Cascade s (s.foldMarks ids) := fold (fun _ _ => foldMark _ _) _ _

theorem expireGrants : Cascade s s.expireGrants := { refl s with grants := List.length_filter_le _ _ }

theorem expireLockout : Cascade s s.expireLockout := { refl s with }

theorem resendDue : Cascade s s.resendDue := { refl s with }

theorem limitRebuilt : Cascade s s.limitRebuilt := fold (fun _ _ => retireCommitted _ _ _ _) _ _

theorem expireCheckout : Cascade s s.expireCheckout := by
  unfold State.expireCheckout
  split
  · next h _ =>
    split
    · dsimp only
      split
      · exact { refl s with }
      · refine trans ?_ (enterVacant _ _ ?_)
        · exact { refl s with }
        · exact h
    · exact refl s
  · exact refl s

/-- What any owed part leaves as it was. -/
theorem runOwed (o : Owed) : Cascade s (s.runOwed o) := by
  cases o with
  | eventEnd id next => exact (endEvent s _ _).trans (foldMarks _ _)
  | grantExpiry => exact expireGrants s
  | lockoutExpiry => exact expireLockout s
  | resendDue => exact resendDue s
  | rebuiltEntryLimit => exact limitRebuilt s
  | checkoutExpiry => exact expireCheckout s
  | commitPairOffer => exact offerHeldPair s

theorem setOwed (l : List Owed) : Cascade s { s with owed := l } := { refl s with }

theorem doOwed (o : Owed) (os : List Owed) : Cascade s (s.doOwed o os) := (runOwed s o).trans (setOwed _ os)

theorem settleList (l : List Owed) : Cascade s (State.settleList l s) := by
  induction l generalizing s with
  | nil => exact setOwed s []
  | cons o os ih => exact (doOwed s o os).trans (ih _)

/-- What settling leaves as it was. -/
theorem settle : Cascade s s.settle := settleList s _

theorem runThrough (p : Owed → Bool) (l : List Owed) : Cascade s (State.runThrough p l s) := by
  induction l generalizing s with
  | nil => exact setOwed s []
  | cons o os ih =>
    unfold State.runThrough
    split
    · exact doOwed s o os
    · exact (doOwed s o os).trans (ih _)

/-- What the row of an owed part leaves as it was. -/
theorem takeOwed (p : Owed → Bool) : Cascade s (s.takeOwed p) := ite (runThrough s _ _) (refl s)

end Cascade

end Sys2Proof.Machine
end

