-- ==== Sys2Proof/Laws/Memory.lean ====
section
/-! SUPPORT. The memory: reading after writing, the canonical form, and what performing a granted transaction leaves unchanged. -/

namespace Sys2Proof.Machine

/-! ### One byte -/

theorem Memory.wfFrom_mono {lo lo' : Nat} {m : Memory} (h : lo' ≤ lo) (hw : Memory.wfFrom lo m = true) :
    Memory.wfFrom lo' m = true := by
  cases m with
  | nil => rfl
  | cons c m =>
    obtain ⟨k, b⟩ := c
    simp only [Memory.wfFrom, Bool.and_eq_true, decide_eq_true_eq] at hw ⊢
    exact ⟨⟨Nat.le_trans h hw.1.1, hw.1.2⟩, hw.2⟩

/-- An address below the lower bound of a memory reads as unlisted. -/
theorem Memory.get_below {lo a : Nat} {m : Memory} (h : Memory.wfFrom lo m = true) (ha : a < lo) :
    Memory.get m a = Memory.unlisted := by
  induction m generalizing lo with
  | nil => rfl
  | cons c m ih =>
    obtain ⟨k, b⟩ := c
    simp only [Memory.wfFrom, Bool.and_eq_true, decide_eq_true_eq] at h
    have hk : k ≠ a := by omega
    simp only [Memory.get, if_neg hk]
    exact ih h.2 (by omega)

/-- Storing a byte keeps the canonical form. -/
theorem Memory.wfFrom_set {lo a : Nat} {m : Memory} (b : Byte) (h : Memory.wfFrom lo m = true) (ha : lo ≤ a) :
    Memory.wfFrom lo (Memory.set m a b) = true := by
  induction m generalizing lo with
  | nil =>
    unfold Memory.set
    split
    · rfl
    · next hb => simp [Memory.wfFrom, ha, hb]
  | cons c m ih =>
    obtain ⟨k, c⟩ := c
    simp only [Memory.wfFrom, Bool.and_eq_true, decide_eq_true_eq] at h
    unfold Memory.set
    split
    · next hlt =>
      split
      · simp [Memory.wfFrom, h]
      · next hb => simp [Memory.wfFrom, ha, hb, h, Nat.succ_le_of_lt hlt]
    · split
      · next heq =>
        split
        · exact Memory.wfFrom_mono (by omega) h.2
        · next hb => simp [Memory.wfFrom, hb, heq, h.1.1, h.2]
      · simp only [Memory.wfFrom, Bool.and_eq_true, decide_eq_true_eq]
        exact ⟨h.1, ih h.2 (by omega)⟩

theorem Memory.wf_set {a : Nat} {m : Memory} (b : Byte) (h : m.wf = true) : Memory.wf (Memory.set m a b) = true :=
  Memory.wfFrom_set b h (Nat.zero_le a)

/-- Any other address reads as before. -/
theorem Memory.get_set_other {a c : Nat} (m : Memory) (b : Byte) (h : c ≠ a) :
    Memory.get (Memory.set m a b) c = Memory.get m c := by
  induction m with
  | nil =>
    unfold Memory.set
    split
    · rfl
    · simp [Memory.get, Ne.symm h]
  | cons d m ih =>
    obtain ⟨k, d⟩ := d
    unfold Memory.set
    split
    · split
      · rfl
      · simp [Memory.get, Ne.symm h]
    · split
      · next heq =>
        split
        · simp [Memory.get, show k ≠ c from fun e => h (by omega)]
        · simp [Memory.get, Ne.symm h, show k ≠ c from fun e => h (by omega)]
      · simp [Memory.get, ih]

/-- The address just stored to reads as the byte stored. -/
theorem Memory.get_set_same_from {lo a : Nat} {m : Memory} (b : Byte) (h : Memory.wfFrom lo m = true) :
    Memory.get (Memory.set m a b) a = b := by
  induction m generalizing lo with
  | nil =>
    unfold Memory.set
    split
    · next hb => rw [hb]; rfl
    · simp [Memory.get]
  | cons d m ih =>
    obtain ⟨k, d⟩ := d
    simp only [Memory.wfFrom, Bool.and_eq_true, decide_eq_true_eq] at h
    unfold Memory.set
    split
    · next hlt =>
      split
      · next hb =>
        rw [hb]
        simp only [Memory.get, if_neg (show k ≠ a by omega)]
        exact Memory.get_below h.2 (by omega)
      · simp [Memory.get]
    · split
      · next heq =>
        split
        · next hb => rw [hb]; exact Memory.get_below h.2 (by omega)
        · simp [Memory.get]
      · next hne =>
        simp only [Memory.get, if_neg (show k ≠ a by omega)]
        exact ih h.2

theorem Memory.get_set_same {a : Nat} {m : Memory} (b : Byte) (h : m.wf = true) : Memory.get (Memory.set m a b) a = b :=
  Memory.get_set_same_from b h

/-! ### Words -/

/-- One byte of a word's store. -/
def Memory.setByteOf (w : WriteWord) (a : Nat) (m : Memory) (i : Nat) : Memory :=
  if w.enables.getLsbD i then Memory.set m (a + i) (byteOf w.data i) else m

theorem Memory.setWord_eq (m : Memory) (a : Nat) (w : WriteWord) :
    m.setWord a w = (List.range 8).foldl (Memory.setByteOf w a) m := rfl

theorem Memory.wf_setByteOf {m : Memory} (w : WriteWord) (a i : Nat) (h : m.wf = true) :
    Memory.wf (Memory.setByteOf w a m i) = true := by
  unfold Memory.setByteOf
  split
  · exact Memory.wf_set _ h
  · exact h

theorem Memory.wf_setBytes {m : Memory} (w : WriteWord) (a : Nat) (l : List Nat) (h : m.wf = true) :
    Memory.wf (l.foldl (Memory.setByteOf w a) m) = true := by
  induction l generalizing m with
  | nil => exact h
  | cons i l ih => exact ih (Memory.wf_setByteOf w a i h)

/-- Storing a word keeps the canonical form. -/
theorem Memory.wf_setWord {m : Memory} (a : Nat) (w : WriteWord) (h : m.wf = true) : Memory.wf (m.setWord a w) = true :=
  Memory.wf_setBytes w a _ h

/-- Storing words keeps the canonical form. -/
theorem Memory.wf_setWords {m : Memory} (a : Nat) (ws : List WriteWord) (h : m.wf = true) :
    Memory.wf (m.setWords a ws) = true := by
  induction ws generalizing m a with
  | nil => exact h
  | cons w ws ih => exact ih _ (Memory.wf_setWord a w h)

/-- A byte of a memory after bytes `l` of a word have been stored. -/
theorem Memory.get_setBytes {m : Memory} (w : WriteWord) (a c : Nat) (l : List Nat) (h : m.wf = true) :
    Memory.get (l.foldl (Memory.setByteOf w a) m) c
      = if a ≤ c ∧ (c - a) ∈ l ∧ w.enables.getLsbD (c - a) = true then byteOf w.data (c - a) else Memory.get m c := by
  induction l generalizing m with
  | nil => simp
  | cons i l ih =>
    rw [List.foldl_cons, ih (Memory.wf_setByteOf w a i h)]
    unfold Memory.setByteOf
    by_cases hc : c = a + i
    · subst hc
      have e : a + i - a = i := by omega
      by_cases hen : w.enables.getLsbD i = true
      · simp only [e, hen, if_true, List.mem_cons, true_or, and_true, Nat.le_add_right, true_and]
        split
        · rfl
        · exact Memory.get_set_same _ h
      · simp [e, hen]
    · have hne : ¬ (a ≤ c ∧ c - a = i) := by omega
      have hget : Memory.get (if w.enables.getLsbD i = true then Memory.set m (a + i) (byteOf w.data i) else m) c
          = Memory.get m c := by
        split
        · exact Memory.get_set_other m _ hc
        · rfl
      rw [hget]
      by_cases hac : a ≤ c
      · have : c - a ≠ i := fun e => hne ⟨hac, e⟩
        simp [hac, this]
      · simp [hac]

/-- Every byte after a word is stored: the enabled bytes of the word are its own, all others read as before. -/
theorem Memory.get_setWord {m : Memory} (w : WriteWord) (a c : Nat) (h : m.wf = true) :
    Memory.get (m.setWord a w) c
      = if a ≤ c ∧ c < a + 8 ∧ w.enables.getLsbD (c - a) = true then byteOf w.data (c - a) else Memory.get m c := by
  rw [Memory.setWord_eq, Memory.get_setBytes w a c _ h]
  have : (c - a ∈ List.range 8) ↔ c - a < 8 := List.mem_range
  by_cases hac : a ≤ c
  · have e : (c - a < 8) = (c < a + 8) := propext (by omega)
    simp only [this, e]
  · simp [hac]

/-- An address outside the words stored reads as before. -/
theorem Memory.get_setWords_outside {m : Memory} (a c : Nat) (ws : List WriteWord) (h : m.wf = true)
    (hc : c < a ∨ a + 8 * ws.length ≤ c) : Memory.get (m.setWords a ws) c = Memory.get m c := by
  induction ws generalizing m a with
  | nil => rfl
  | cons w ws ih =>
    simp only [List.length_cons] at hc
    simp only [Memory.setWords]
    rw [ih (a + 8) (Memory.wf_setWord a w h) (by omega), Memory.get_setWord w a c h]
    rw [if_neg]
    omega

/-! ### Performing a granted transaction -/

/-- Performing a granted transaction keeps the canonical form. -/
theorem Memory.wf_perform {m : Memory} (base : Nat) (g : Granted) (h : m.wf = true) : Memory.wf (m.perform base g) = true := by
  unfold Memory.perform
  split
  · exact Memory.wf_setWords _ _ h
  · exact h

/-- A transaction performed in part keeps the canonical form. -/
theorem Memory.wf_performPart {m : Memory} (base : Nat) (performed : BitVec 128) (g : Granted) (h : m.wf = true) :
    Memory.wf (m.performPart base performed g) = true := by
  unfold Memory.performPart
  split
  · exact Memory.wf_setWords _ _ h
  · exact h

/-- A granted transaction that writes nothing leaves the memory as it is. -/
theorem Memory.perform_read (m : Memory) (base : Nat) (g : Granted) (h : g.writes base = none) : m.perform base g = m := by
  simp [Memory.perform, h]

end Sys2Proof.Machine
end

