-- ==== Sys2Proof/Laws/Portions.lean ====
section
/-! SUPPORT. The portions of a transaction: a burst within one region is one portion, every portion lies in a region of one of its
words, and a burst that passes into another region has the portions of its two parts (R3). -/

namespace Sys2Proof.Machine

/-- A run of words of one region, numbered upwards, is one portion. -/
theorem groupPortions_run (g : Region) (len : Nat) (j k : Nat) (h : 0 < len) :
    groupPortions j ((List.range' k len).map fun i => (g, i)) = [⟨g, k, j, len⟩] := by
  induction len generalizing j k with
  | zero => exact absurd h (Nat.lt_irrefl 0)
  | succ n ih =>
    rw [List.range'_succ, List.map_cons, groupPortions]
    cases n with
    | zero => rfl
    | succ m => rw [ih (j + 1) (k + 1) (Nat.succ_pos m)]; simp

/-- A burst whose words lie in one region, from its word `k` on, is one portion. -/
theorem PathUnit.portions_single (p : PathUnit) (addr : BitVec 32) (len : Nat) (g : Region) (k : Nat) (hlen : 0 < len)
    (h : ∀ j, j < len → p.locate (addr.toNat + 8 * j) = (g, k + j)) : p.portions addr len = [⟨g, k, 0, len⟩] := by
  rw [PathUnit.portions, ← groupPortions_run g len 0 k hlen]
  congr 1
  apply List.ext_getElem
  · simp
  · intro i h1 _
    have hi : i < len := by simpa using h1
    simp [h i hi]

/-- The region of every portion is the region of one of the words. -/
theorem groupPortions_region (l : List (Region × Nat)) (j : Nat) : ∀ q ∈ groupPortions j l, ∃ x ∈ l, x.1 = q.region := by
  induction l generalizing j with
  | nil => intro q h; cases h
  | cons x l ih =>
    obtain ⟨g, k⟩ := x
    intro q hq
    have hi := ih (j + 1)
    rw [groupPortions] at hq
    cases hp : groupPortions (j + 1) l with
    | nil =>
      rw [hp] at hq
      simp only [List.mem_singleton] at hq
      exact ⟨(g, k), List.mem_cons_self, by rw [hq]⟩
    | cons r rs =>
      rw [hp] at hq hi
      dsimp only at hq
      split at hq
      · next hg =>
        rcases List.mem_cons.1 hq with h | h
        · exact ⟨(g, k), List.mem_cons_self, by rw [h]; exact hg.symm⟩
        · obtain ⟨x, hx, he⟩ := hi q (List.mem_cons_of_mem _ h)
          exact ⟨x, List.mem_cons_of_mem _ hx, he⟩
      · rcases List.mem_cons.1 hq with h | h
        · exact ⟨(g, k), List.mem_cons_self, by rw [h]⟩
        · obtain ⟨x, hx, he⟩ := hi q h
          exact ⟨x, List.mem_cons_of_mem _ hx, he⟩

/-- The region of every portion of a burst is the region of one of its words. -/
theorem PathUnit.portions_region (p : PathUnit) (addr : BitVec 32) (len : Nat) :
    ∀ q ∈ p.portions addr len, ∃ j, j < len ∧ (p.locate (addr.toNat + 8 * j)).1 = q.region := by
  intro q hq
  obtain ⟨x, hx, he⟩ := groupPortions_region _ _ q hq
  obtain ⟨j, hj, rfl⟩ := List.mem_map.1 hx
  exact ⟨j, List.mem_range.1 hj, he⟩

/-- A burst is at least one word. -/
theorem burstOk_pos {addr : BitVec 32} {len : Nat} (h : burstOk addr len = true) : 0 < len := by
  simp only [burstOk, Bool.and_eq_true, decide_eq_true_eq] at h
  omega

/-! ### A burst that passes from one region into another (R3) -/

/-- A portion whose place in the transaction is `m` words later. -/
def Portion.shift (m : Nat) (q : Portion) : Portion := { q with start := q.start + m }

/-- Words that stand `m` places later make the same portions, `m` places later. -/
theorem groupPortions_shift (m : Nat) (l : List (Region × Nat)) (j : Nat) :
    groupPortions (j + m) l = (groupPortions j l).map (Portion.shift m) := by
  induction l generalizing j with
  | nil => rfl
  | cons x l ih =>
    obtain ⟨g, k⟩ := x
    have hi := ih (j + 1)
    rw [Nat.add_right_comm] at hi
    rw [groupPortions, groupPortions, hi]
    cases groupPortions (j + 1) l with
    | nil => rfl
    | cons q qs =>
      simp only [List.map_cons]
      by_cases h : q.region = g
      · rw [if_pos (show (Portion.shift m q).region = g from h), if_pos h]; rfl
      · rw [if_neg (show ¬(Portion.shift m q).region = g from h), if_neg h]; rfl

/-- The first portion lies in the region of the first word. -/
theorem groupPortions_head (g : Region) (k j : Nat) (l : List (Region × Nat)) :
    ∃ q qs, groupPortions j ((g, k) :: l) = q :: qs ∧ q.region = g := by
  rw [groupPortions]
  cases groupPortions (j + 1) l with
  | nil => exact ⟨_, _, rfl, rfl⟩
  | cons q qs =>
    dsimp only
    split
    · next h => exact ⟨_, _, rfl, h⟩
    · exact ⟨_, _, rfl, rfl⟩

/-- Where the region changes, a new portion begins. -/
theorem groupPortions_append (g : Region) (k : Nat) (back front : List (Region × Nat)) (j : Nat) (h0 : front ≠ [])
    (h : ∀ x, front.getLast? = some x → x.1 ≠ g) :
    groupPortions j (front ++ (g, k) :: back) = groupPortions j front ++ groupPortions (j + front.length) ((g, k) :: back) := by
  induction front generalizing j with
  | nil => exact absurd rfl h0
  | cons x l ih =>
    obtain ⟨g1, k1⟩ := x
    cases l with
    | nil =>
      have hg : g1 ≠ g := h (g1, k1) rfl
      obtain ⟨q, qs, e, hq⟩ := groupPortions_head g k (j + 1) back
      simp only [List.cons_append, List.nil_append, List.length_cons, List.length_nil, Nat.zero_add]
      rw [groupPortions, e]
      dsimp only
      rw [if_neg (by rw [hq]; exact hg.symm)]
      rfl
    | cons y l =>
      have hi := ih (j + 1) (by simp) fun x hx => h x (by rw [List.getLast?_cons_cons]; exact hx)
      obtain ⟨q, qs, e, _⟩ := groupPortions_head y.1 y.2 (j + 1) l
      have hr : groupPortions j ((g1, k1) :: y :: l) = (match groupPortions (j + 1) (y :: l) with
        | [] => [⟨g1, k1, j, 1⟩]
        | q :: qs => if q.region = g1 then { q with first := k1, start := j, count := q.count + 1 } :: qs
            else ⟨g1, k1, j, 1⟩ :: q :: qs) := rfl
      rw [hr, List.cons_append, groupPortions, hi, show (y :: l) = (y.1, y.2) :: l from rfl, e, List.cons_append]
      dsimp only
      have hj : j + 1 + (y :: l).length = j + ((g1, k1) :: y :: l).length := by simp; omega
      split <;> rw [hj] <;> rfl

/-- Every portion holds a word, and its words are words of the transaction. -/
theorem groupPortions_bound (l : List (Region × Nat)) (j : Nat) :
    ∀ q ∈ groupPortions j l, j ≤ q.start ∧ 0 < q.count ∧ q.start + q.count ≤ j + l.length := by
  induction l generalizing j with
  | nil => intro q h; cases h
  | cons x l ih =>
    intro q hq
    obtain ⟨g, k⟩ := x
    have hi := ih (j + 1)
    rw [groupPortions] at hq
    have hstart : ∀ r rs, groupPortions (j + 1) l = r :: rs → r.start = j + 1 := by
      intro r rs h
      cases l with
      | nil => cases h
      | cons y l =>
        rw [groupPortions] at h
        split at h
        · cases h; rfl
        · split at h <;> cases h <;> rfl
    cases hp : groupPortions (j + 1) l with
    | nil =>
      rw [hp] at hq
      simp only [List.mem_singleton] at hq
      subst hq; simp
    | cons r rs =>
      rw [hp] at hq hi
      have h5 := hstart r rs hp
      have h6 := hi r List.mem_cons_self
      dsimp only at hq
      simp only [List.length_cons]
      split at hq
      · rcases List.mem_cons.1 hq with rfl | hq
        · simp only; omega
        · have := hi q (List.mem_cons_of_mem _ hq); omega
      · rcases List.mem_cons.1 hq with rfl | hq
        · simp only; omega
        · have := hi q hq; omega

/-- A list of words cut where the region changes. The place `f` of a word stays general, so that the kernel never unfolds it. -/
theorem groupPortions_split (f : Nat → Region × Nat) (a len m : Nat) (h0 : 0 < m) (h1 : m < len)
    (hb : (f (a + 8 * (m - 1))).1 ≠ (f (a + 8 * m)).1) :
    groupPortions 0 ((List.range len).map fun j => f (a + 8 * j)) = groupPortions 0 ((List.range m).map fun j => f (a + 8 * j)) ++
      (groupPortions 0 ((List.range (len - m)).map fun j => f (a + 8 * m + 8 * j))).map (Portion.shift m) := by
  rw [← groupPortions_shift, Nat.zero_add]
  obtain ⟨d, rfl⟩ : ∃ d, len = m + (d + 1) := ⟨len - m - 1, by omega⟩
  rw [show m + (d + 1) - m = d + 1 by omega, List.range_add, List.map_append, List.map_map]
  have e2 : (List.range (d + 1)).map ((fun j => f (a + 8 * j)) ∘ (fun x => m + x)) =
      (List.range (d + 1)).map fun j => f (a + 8 * m + 8 * j) :=
    List.map_congr_left fun j _ => congrArg f (show a + 8 * (m + j) = a + 8 * m + 8 * j by omega)
  rw [e2, List.range_succ_eq_map, List.map_cons, Nat.mul_zero, Nat.add_zero]
  generalize List.map (fun j => f (a + 8 * m + 8 * j)) (List.map Nat.succ (List.range d)) = rest
  generalize f (a + 8 * m) = x at hb ⊢
  obtain ⟨g, k⟩ := x
  have hlast : ∀ x, ((List.range m).map fun j => f (a + 8 * j)).getLast? = some x → x.1 ≠ g := by
    intro x hx
    rw [List.getLast?_map, List.getLast?_range, if_neg (by omega)] at hx
    cases hx; exact hb
  rw [groupPortions_append g k rest _ 0 (by simp; omega) hlast, List.length_map, List.length_range, Nat.zero_add]

/-- A burst is 1 to 16 words on a word boundary within the address space. -/
theorem burstOk_iff {addr : BitVec 32} {len : Nat} :
    burstOk addr len = true ↔ 1 ≤ len ∧ len ≤ 16 ∧ addr.toNat % 8 = 0 ∧ addr.toNat + 8 * len ≤ 2 ^ 32 := by
  simp only [burstOk, Bool.and_eq_true, decide_eq_true_eq]
  omega

/-- A burst that passes into another region before its word `m`: its portions are those of its first `m` words and those of the others,
and both parts are bursts (R3). -/
theorem PathUnit.portions_split (p : PathUnit) (addr : BitVec 32) (len m : Nat) (h0 : 0 < m) (h1 : m < len) (hok : burstOk addr len = true)
    (hb : (p.locate (addr.toNat + 8 * (m - 1))).1 ≠ (p.locate (addr.toNat + 8 * m)).1) :
    p.portions addr len =
      p.portions addr m ++ (p.portions (BitVec.ofNat 32 (addr.toNat + 8 * m)) (len - m)).map (Portion.shift m) ∧
    burstOk addr m = true ∧ burstOk (BitVec.ofNat 32 (addr.toNat + 8 * m)) (len - m) = true := by
  obtain ⟨a1, a2, a3, a4⟩ := burstOk_iff.1 hok
  clear hok
  have ha : (BitVec.ofNat 32 (addr.toNat + 8 * m)).toNat = addr.toNat + 8 * m := by
    rw [BitVec.toNat_ofNat, Nat.mod_eq_of_lt (by omega)]
  refine ⟨?_, burstOk_iff.2 (by omega), burstOk_iff.2 (by rw [ha]; omega)⟩
  have h := groupPortions_split p.locate addr.toNat len m h0 h1 hb
  unfold PathUnit.portions
  rw [ha]; exact h

/-! ### Held portions -/

/-- Where the held portions of a read do not overlap, a word of one of them is covered by that one (R5, R66). -/
theorem heldAt_of_mem {held : List HeldPortion} (apart : held.Pairwise fun h h' => h.start + h.count ≤ h'.start) {h : HeldPortion}
    (hm : h ∈ held) {j : Nat} (h1 : h.start ≤ j) (h2 : j < h.start + h.count) : heldAt held j = some h := by
  unfold heldAt
  induction held with
  | nil => cases hm
  | cons x xs ih =>
    rcases List.mem_cons.1 hm with rfl | hm
    · rw [List.find?_cons_of_pos]; simp [h1, h2]
    · have := (List.pairwise_cons.1 apart).1 h hm
      rw [List.find?_cons_of_neg, ih (List.pairwise_cons.1 apart).2 hm]
      simp; omega

/-- A word of no held portion is not covered. -/
theorem heldAt_none {held : List HeldPortion} {j : Nat} (h : ∀ x ∈ held, j < x.start ∨ x.start + x.count ≤ j) :
    heldAt held j = none := by
  unfold heldAt
  rw [List.find?_eq_none]
  intro x hx
  have := h x hx
  simp; omega

end Sys2Proof.Machine
end

