-- ==== Sys2Proof/Laws/Purchases.lean ====
section
/-! SUPPORT. The purchase list: what the operations that take entries off it, clear their charges, or leave CHECKOUT come to, written
out field by field. -/

namespace Sys2Proof.Machine

/-! ### Entries and their handles -/

/-- Two entries of a list whose handles are distinct are one when their handles agree. -/
theorem eq_of_handle {l : List PurchaseEntry} (h : (l.map (·.handle)).Nodup) {x y : PurchaseEntry} (hx : x ∈ l) (hy : y ∈ l)
    (e : x.handle = y.handle) : x = y := by
  induction l with
  | nil => cases hx
  | cons a l ih =>
    rw [List.map_cons, List.nodup_cons] at h
    rcases List.mem_cons.1 hx with rfl | kx <;> rcases List.mem_cons.1 hy with rfl | ky
    · rfl
    · exact (h.1 (List.mem_map.2 ⟨_, ky, e.symm⟩)).elim
    · exact (h.1 (List.mem_map.2 ⟨_, kx, e⟩)).elim
    · exact ih h.2 kx ky

/-- A filter that every entry passes. -/
theorem filter_all_nil (l : List PurchaseEntry) :
    l.filter (fun x => ([] : List PurchaseEntry).all fun e => x.handle != e.handle) = l := List.filter_eq_self.2 fun _ _ => rfl

/-- Of a list whose handles are distinct, the entries under none of the handles of those that satisfy `p` are those that do not. -/
theorem filter_handles {l : List PurchaseEntry} (h : (l.map (·.handle)).Nodup) (p : PurchaseEntry → Bool) :
    l.filter (fun x => (l.filter p).all fun e => x.handle != e.handle) = l.filter fun x => !p x := by
  refine List.filter_congr fun x hx => ?_
  rw [Bool.eq_iff_iff]
  simp only [List.all_eq_true, List.mem_filter, bne_iff_ne, ne_eq, Bool.not_eq_true', and_imp]
  constructor
  · intro a
    cases hp : p x
    · rfl
    · exact absurd rfl (a x hx hp)
  · intro hp e he hpe eq
    rw [eq_of_handle h hx he eq, hpe] at hp
    cases hp

/-- The entry a handle finds is in the list and carries the handle. -/
theorem PurchaseUnit.byHandle_some {p : PurchaseUnit} {h : Nat} {e : PurchaseEntry} (he : p.byHandle h = some e) :
    e ∈ p.entries ∧ e.handle = h := by
  refine ⟨List.mem_of_find?_eq_some he, ?_⟩
  have := List.find?_some he
  simpa using this

/-- The COMMITTING entry a number finds. -/
theorem PurchaseUnit.committing_some {p : PurchaseUnit} {n : Nat} {e : PurchaseEntry} (he : p.committing n = some e) :
    e ∈ p.entries ∧ e.state = .committing ∧ e.seq = some n := by
  refine ⟨List.mem_of_find?_eq_some he, ?_⟩
  have := List.find?_some he
  simpa using this

/-- The flags raised for entries that leave the list for one reason, in turn (R127, R173). -/
def goneNotices (r : Reason) (l : List PurchaseEntry) (set : List Notice) : List Notice :=
  l.foldl (fun n e => raiseIn (e.notice .gone r) n) set

/-- The flags raised for entries whose charge is cleared, in turn (R120, R123, R127). -/
def waivedNotices (l : List PurchaseEntry) (set : List Notice) : List Notice :=
  l.foldl (fun n e => raiseIn (.purchase e.handle e.event .committed .committed 0 e.seq) n) set

/-! ### Entries leaving the list -/

/-- HELD entries released one after another. -/
theorem State.foldl_releaseHeld (r : Reason) (l : List PurchaseEntry) (s : State) :
    l.foldl (fun s e => s.releaseHeld r e) s = { s with
      purchases := { s.purchases with entries := s.purchases.entries.filter fun x => l.all fun e => x.handle != e.handle }
      req := { s.req with notices := goneNotices r l s.req.notices } } := by
  induction l generalizing s with
  | nil => rw [filter_all_nil]; rfl
  | cons e l ih =>
    rw [List.foldl_cons, ih]
    simp only [State.releaseHeld, State.removePurchase, State.raise, PurchaseUnit.remove, List.filter_filter, List.all_cons]
    simp only [Bool.and_comm]
    rfl

/-- COMMITTING entries failed one after another. -/
theorem State.foldl_failCommit (l : List PurchaseEntry) (s : State) :
    l.foldl (fun s e => s.failCommit e) s = { s with
      purchases := { s.purchases with entries := s.purchases.entries.filter fun x => l.all fun e => x.handle != e.handle }
      req := { s.req with notices := goneNotices .storeFault l s.req.notices } } :=
  State.foldl_releaseHeld .storeFault l s

/-- The COMMIT place freed when an entry leaves the list: that of its record once acknowledged (R136). -/
def State.freed? (s : State) (e : PurchaseEntry) : Option (Fin 48) :=
  match e.seq with
  | none => none
  | some n => if s.isAcked n then s.store.placeOf n else none

/-- The freeing write, as an offer of the entry's place. -/
theorem State.freeIfAcked_eq (c : Caller) (e : PurchaseEntry) (s : State) :
    s.freeIfAcked c e.seq = { s with
      store := match s.freed? e with | some i => s.store.offer c (.commit i none) | none => s.store } := by
  unfold State.freeIfAcked State.freed?
  cases e.seq with
  | none => rfl
  | some n =>
    dsimp only
    cases s.isAcked n with
    | false => rfl
    | true => cases h : s.store.placeOf n <;> simp only [if_true] <;> rfl

/-- Which place an entry's leaving frees does not depend on what has been offered. -/
theorem State.freed?_congr {s t : State} (hb : t.bills = s.bills) (hp : t.store.places = s.store.places) :
    t.freed? = s.freed? := by
  funext e
  unfold State.freed? State.isAcked Store.placeOf
  rw [hb, hp]

/-- The freeing write of a record, when it has been acknowledged and a place holds it. -/
def Store.freeing (log : List LogRecord) (st : Store) (r : CommitRecord) : Store :=
  if ∀ l ∈ log, l.record.seq ≠ r.seq then
    match st.placeOf r.seq with
    | some i => st.offer .part (.commit i none)
    | none => st
  else st

/-- Records freed one after another (R136, R145). -/
theorem State.freeRecords_eq (l : List CommitRecord) (s : State) :
    s.freeRecords l = { s with store := l.foldl (Store.freeing s.bills.log) s.store } := by
  have one (s : State) (r : CommitRecord) :
      s.freeIfAcked .part (some r.seq) = { s with store := Store.freeing s.bills.log s.store r } := by
    have h : s.isAcked r.seq = true ↔ ∀ l ∈ s.bills.log, l.record.seq ≠ r.seq := by unfold State.isAcked; simp
    unfold State.freeIfAcked Store.freeing
    dsimp only
    by_cases k : s.isAcked r.seq = true
    · rw [if_pos k, if_pos (h.1 k)]
      cases s.store.placeOf r.seq <;> rfl
    · rw [if_neg k, if_neg fun j => k (h.2 j)]
  unfold State.freeRecords
  induction l generalizing s with
  | nil => rfl
  | cons r l ih => rw [List.foldl_cons, one, ih]; rfl

/-- COMMITTED entries retired one after another. -/
theorem State.foldl_retireCommitted (c : Caller) (r : Reason) (l : List PurchaseEntry) (s : State) :
    l.foldl (fun s e => s.retireCommitted c r e) s = { s with
      purchases := { s.purchases with entries := s.purchases.entries.filter fun x => l.all fun e => x.handle != e.handle }
      store := (l.filterMap s.freed?).foldl (fun st i => st.offer c (.commit i none)) s.store
      req := { s.req with notices := goneNotices r l s.req.notices } } := by
  induction l generalizing s with
  | nil => rw [filter_all_nil]; rfl
  | cons e l ih =>
    have h1 : s.retireCommitted c r e = { s with
        purchases := s.purchases.remove e.handle
        store := match s.freed? e with | some i => s.store.offer c (.commit i none) | none => s.store
        req := { s.req with notices := raiseIn (e.notice .gone r) s.req.notices } } := State.freeIfAcked_eq _ _ _
    have h2 : (s.retireCommitted c r e).freed? = s.freed? := by
      refine State.freed?_congr (by rw [h1]) ?_
      rw [h1]; dsimp only; split <;> simp
    rw [List.foldl_cons, ih, h2, h1]
    simp only [PurchaseUnit.remove, List.filter_filter, List.all_cons, List.filterMap_cons]
    simp only [Bool.and_comm]
    cases s.freed? e <;> rfl

/-- The HELD entries released at a CHECK_OUT (R126). -/
theorem State.releaseAllHeld_eq (s : State) (h : s.purchases.handlesDistinct) :
    s.releaseAllHeld = { s with
      purchases := { s.purchases with entries := s.purchases.entries.filter (·.state != .held) }
      req := { s.req with notices := goneNotices .checkout (s.purchases.entries.filter (·.state == .held)) s.req.notices } } := by
  rw [State.releaseAllHeld, State.foldl_releaseHeld, filter_handles h]; rfl

/-- The COMMITTING entries failed by a store fault (R122). -/
theorem State.failCommitting_eq (s : State) (h : s.purchases.handlesDistinct) :
    s.failCommitting = { s with
      purchases := { s.purchases with entries := s.purchases.entries.filter (·.state != .committing) }
      req := { s.req with notices := goneNotices .storeFault (s.purchases.entries.filter (·.state == .committing)) s.req.notices } } := by
  rw [State.failCommitting, State.foldl_failCommit, filter_handles h]; rfl

/-- No entry is under a handle of its own list but that list's. -/
theorem filter_all_handles (l : List PurchaseEntry) : l.filter (fun x => l.all fun e => x.handle != e.handle) = [] := by
  rw [List.filter_eq_nil_iff]
  intro x hx
  simp only [List.all_eq_true, bne_iff_ne, ne_eq]
  exact fun h => h x hx rfl

/-- What entering VACANT comes to (R91, R98, R110, R126, R136, R160). -/
theorem State.enterVacant_eq (c : Caller) (s : State) :
    s.enterVacant c = { s with
      msgs := { s.msgs with room := s.msgs.room.vacated }
      lock := LockUnit.cleared
      purchases := { s.purchases with entries := [], titles := [] }
      events := s.events.clearUsed
      store := (((s.purchases.entries.filterMap s.freed?).foldl (fun st i => st.offer c (.commit i none)) s.store).offer c (.titles (some []))).offer c (.room (some ⟨.vacant, s.msgs.room.suspended, s.msgs.room.stay, 0, 0, 7, none, 0, s.bills.counter.getD 0 + 8⟩))
      req := { s.req with notices := raiseIn .room (goneNotices .checkout s.purchases.entries s.req.notices) } } := by
  rw [State.enterVacant, State.retireAll, State.foldl_retireCommitted, filter_all_handles]
  rfl

/-! ### Charges cleared -/

/-- The entry with its charge cleared and its commit made (R120, R123). -/
def PurchaseEntry.waived (e : PurchaseEntry) : PurchaseEntry := { e with charge := 0, state := .committed }

@[simp] theorem PurchaseEntry.waived_handle (e : PurchaseEntry) : e.waived.handle = e.handle := rfl
@[simp] theorem PurchaseEntry.waived_seq (e : PurchaseEntry) : e.waived.seq = e.seq := rfl
@[simp] theorem PurchaseEntry.waived_origin (e : PurchaseEntry) : e.waived.origin = e.origin := rfl
@[simp] theorem PurchaseEntry.waived_state (e : PurchaseEntry) : e.waived.state = .committed := rfl

/-- Charges cleared one after another: of a list of entries that the purchase list holds under those handles. -/
theorem State.foldl_clearCharge (l : List PurchaseEntry) (s : State) (hl : (l.map (·.handle)).Nodup) :
    l.foldl (fun s e => s.clearCharge e) s = { s with
      purchases := { s.purchases with entries := s.purchases.entries.map fun x =>
        (match l.find? (fun e => x.handle == e.handle) with | some e => e.waived | none => x) }
      req := { s.req with notices := waivedNotices l s.req.notices } } := by
  induction l generalizing s with
  | nil => simp [waivedNotices]
  | cons e l ih =>
    rw [List.map_cons, List.nodup_cons] at hl
    rw [List.foldl_cons, ih _ hl.2]
    simp only [State.clearCharge, State.mapPurchase, State.raise, PurchaseUnit.mapHandle, List.map_map, List.find?_cons]
    congr 2
    refine List.map_congr_left fun x _ => ?_
    simp only [Function.comp]
    cases hx : x.handle == e.handle
    · simp
    · have hx' : x.handle = e.handle := by simpa using hx
      have : l.find? (fun f => e.handle == f.handle) = none := by
        rw [List.find?_eq_none]
        intro f hf
        simp only [beq_iff_eq]
        intro eq
        exact hl.1 (eq ▸ List.mem_map_of_mem hf)
      simp [PurchaseEntry.waived, this]

/-- The charges cleared by a title that joins, entry by entry. -/
theorem State.foldl_clearCharge_filter (p : PurchaseEntry → Bool) (s : State) (h : s.purchases.handlesDistinct) :
    (s.purchases.entries.filter p).foldl (fun s e => s.clearCharge e) s = { s with
      purchases := { s.purchases with entries := s.purchases.entries.map fun x => if p x then x.waived else x }
      req := { s.req with notices := waivedNotices (s.purchases.entries.filter p) s.req.notices } } := by
  rw [State.foldl_clearCharge _ _ (h.sublist (List.filter_sublist.map _))]
  refine congrArg (fun l => { s with
    purchases := { s.purchases with entries := l }
    req := { s.req with notices := waivedNotices (s.purchases.entries.filter p) s.req.notices } })
    (List.map_congr_left fun x hx => ?_)
  cases hp : p x
  · have : (s.purchases.entries.filter p).find? (fun e => x.handle == e.handle) = none := by
      rw [List.find?_eq_none]
      intro f hf
      simp only [beq_iff_eq]
      intro eq
      rw [List.mem_filter] at hf
      rw [eq_of_handle h hx hf.1 eq, hf.2] at hp
      cases hp
    simp [this]
  · cases hf : (s.purchases.entries.filter p).find? (fun e => x.handle == e.handle) with
    | none =>
      rw [List.find?_eq_none] at hf
      exact absurd (by simp) (hf x (List.mem_filter.2 ⟨hx, hp⟩))
    | some e =>
      have h1 := List.mem_of_find?_eq_some hf
      have h2 : x.handle = e.handle := by have := List.find?_some hf; simpa using this
      rw [List.mem_filter] at h1
      simp [eq_of_handle h hx h1.1 h2]

/-- A title joining (R110, R123; log 20). -/
theorem State.addTitle_eq (t : BitVec 32) (s : State) (h : s.purchases.handlesDistinct) :
    s.addTitle t = if s.purchases.titles.contains t then s else { s with
      purchases := { s.purchases with
        titles := joinTitle t s.purchases.titles
        entries := s.purchases.entries.map fun x => if x.heldTitle t then x.waived else x }
      req := { s.req with notices := waivedNotices (s.purchases.entries.filter (·.heldTitle t)) s.req.notices } } := by
  unfold State.addTitle
  split
  · rfl
  · exact State.foldl_clearCharge_filter (·.heldTitle t)
      { s with purchases := { s.purchases with titles := joinTitle t s.purchases.titles } } h

/-! ### The drain (R159) -/

/-- A purchase entry changed, as the list with that entry changed. -/
theorem State.mapPurchase_eq (h : Nat) (f : PurchaseEntry → PurchaseEntry) (s : State) : s.mapPurchase h f =
    { s with purchases := { s.purchases with entries := s.purchases.entries.map fun x => if x.handle = h then f x else x } } := by
  simp [State.mapPurchase, PurchaseUnit.mapHandle]

/-- No entry is COMMITTING. -/
theorem PurchaseUnit.anyCommitting_false (p : PurchaseUnit) : p.anyCommitting = false ↔ ∀ e ∈ p.entries, e.state ≠ .committing := by
  simp [PurchaseUnit.anyCommitting]

/-- The drain of R159, entry by entry and record by record. -/
theorem State.drained_iff (s : State) : s.drained = true ↔
    (∀ e ∈ s.purchases.entries, e.state ≠ .committing) ∧ ∀ l ∈ s.bills.log, l.record.stay ≠ s.msgs.room.stay := by
  simp [State.drained, PurchaseUnit.anyCommitting_false]

/-- The test of the drain: the room enters VACANT when it drains, and otherwise nothing happens. -/
theorem State.testDrain_spec (c : Caller) (s : State) :
    (s.drains → s.testDrain c = s.enterVacant c) ∧ (¬s.drains → s.testDrain c = s) := by
  have h : s.drains ↔ (s.msgs.room.state = .checkout ∧ s.drained = true) := by rw [State.drained_iff]; exact Iff.rfl
  rw [h]
  exact ⟨fun k => if_pos k, fun k => if_neg k⟩

/-- The end of a commit: the room enters VACANT when it drains then, and otherwise nothing happens. -/
theorem State.commitEnded_spec (c : Caller) (s : State) :
    (s.drainsAtCommitEnd → s.commitEnded c = s.enterVacant c) ∧ (¬s.drainsAtCommitEnd → s.commitEnded c = s) := by
  have a := PurchaseUnit.anyCommitting_false s.purchases
  have b := s.drained_iff
  have x : s.msgs.room.expired = true ↔ ∃ x, s.msgs.room.checkout = some x ∧ x.expired = true := by
    unfold Room.expired; cases s.msgs.room.checkout <;> simp
  unfold State.commitEnded State.testDrain State.drainsAtCommitEnd
  rw [← a, ← x]
  rw [← a] at b
  constructor
  · rintro ⟨h1, h2, h3⟩
    by_cases h : s.msgs.room.expired = true
    · rw [if_pos ⟨h1, h, h2⟩]
    · rw [if_neg (fun k => h k.2.1), if_pos ⟨h1, b.2 ⟨h2, h3.resolve_left h⟩⟩]
  · intro k
    rw [if_neg (fun m => k ⟨m.1, m.2.2, .inl m.2.1⟩), if_neg (fun m => k ⟨m.1, (b.1 m.2).1, .inr (b.1 m.2).2⟩)]

end Sys2Proof.Machine
end

