-- ==== Sys2Proof/Laws/Records.lean ====
section
/-! SUPPORT. The commit records of a scan in sequence order, and the highest of a list of numbers (R129, R145). -/

namespace Sys2Proof.Machine

/-- A record put into its place is one more record. -/
theorem insertBySeq_perm (r : CommitRecord) (l : List CommitRecord) : (insertBySeq r l).Perm (r :: l) := by
  induction l with
  | nil => exact .refl _
  | cons x xs ih =>
    unfold insertBySeq
    split
    · exact .refl _
    · exact (ih.cons x).trans (.swap _ _ _)

/-- Sorting changes the order alone. -/
theorem sortBySeq_perm (l : List CommitRecord) : (sortBySeq l).Perm l := by
  induction l with
  | nil => exact .refl _
  | cons x xs ih => exact (insertBySeq_perm x _).trans (ih.cons x)

/-- A record put into its place keeps the order. -/
theorem insertBySeq_sorted (r : CommitRecord) {l : List CommitRecord} (h : l.Pairwise fun a b => a.seq ≤ b.seq) :
    (insertBySeq r l).Pairwise fun a b => a.seq ≤ b.seq := by
  induction l with
  | nil => simp [insertBySeq]
  | cons x xs ih =>
    obtain ⟨hx, hxs⟩ := List.pairwise_cons.1 h
    unfold insertBySeq
    split
    · next hr =>
      refine List.pairwise_cons.2 ⟨fun y hy => ?_, h⟩
      rcases List.mem_cons.1 hy with rfl | hy
      · exact hr
      · exact Nat.le_trans hr (hx y hy)
    · refine List.pairwise_cons.2 ⟨fun y hy => ?_, ih hxs⟩
      rcases List.mem_cons.1 ((insertBySeq_perm r xs).mem_iff.1 hy) with rfl | hy
      · omega
      · exact hx y hy

/-- The records stand in increasing sequence order. -/
theorem sortBySeq_sorted (l : List CommitRecord) : (sortBySeq l).Pairwise fun a b => a.seq ≤ b.seq := by
  induction l with
  | nil => simp [sortBySeq]
  | cons x xs ih => exact insertBySeq_sorted x ih

/-- The highest of a list is at or above each of its numbers, and one of them, or 0. -/
theorem highestOf_spec (l : List Nat) : (∀ x ∈ l, x ≤ highestOf l) ∧ (highestOf l = 0 ∨ highestOf l ∈ l) := by
  have h : ∀ (l : List Nat) (a : Nat), a ≤ l.foldl max a ∧ (∀ x ∈ l, x ≤ l.foldl max a) ∧ (l.foldl max a = a ∨ l.foldl max a ∈ l) := by
    intro l
    induction l with
    | nil => intro a; simp
    | cons b l ih =>
      intro a
      obtain ⟨h1, h2, h3⟩ := ih (max a b)
      rw [List.foldl_cons]
      refine ⟨by omega, fun x hx => ?_, ?_⟩
      · rcases List.mem_cons.1 hx with rfl | hx
        · omega
        · exact h2 x hx
      · rcases h3 with h3 | h3
        · by_cases k : a ≤ b
          · right; rw [h3, Nat.max_eq_right k]; simp
          · left; rw [h3]; omega
        · right; exact List.mem_cons_of_mem _ h3
  exact ⟨(h l 0).2.1, (h l 0).2.2⟩

end Sys2Proof.Machine
end

