-- ==== Sys2Proof/Laws/Requests.lean ====
section
/-! SUPPORT. The served requests in the terms of Sys2Proof/Safety.lean: an answer with no other effect, and the answers of the lock
unit's requests with the ROOM write they offer. -/

namespace Sys2Proof.Machine

/-- A served request answered with no other effect. -/
theorem State.answer_fetchDone (s : State) (r : Request) (c : AnswerCode) (ws : List Word) :
    s.fetchDone.answer r c ws = s.replied r c ws := rfl

/-- The state with another lock unit. -/
theorem State.pinFailure_eq (s : State) : s.pinFailure = { s with lock := s.lockAfterWrongPin } := rfl

/-- The result words of a WRONG_PIN answer. -/
theorem State.wrongPin_words (s : State) (c : Caller) : (s.fetchDone.wrongPin c).2 = s.wrongPinWords := rfl

/-- SET_PIN or SET_GUEST_CEILING served, the lock unit being `l` after it. -/
theorem State.settingServed_eq (s : State) (l : LockUnit) (r : Request) (c : AnswerCode) (ws : List Word) :
    ({ s.fetchDone with lock := l }.offerRoom .setting).answerAtWrite r c ws = s.settingServed l r c ws := by
  have h : ({ s.fetchDone with lock := l }.offerRoom .setting).store.state = s.store.state := by simp
  unfold State.answerAtWrite State.settingServed
  rw [h]
  cases s.store.state
  · rfl
  · cases c <;> rfl

/-- UNLOCK served with a ROOM write offered, the lock unit being `l` after it. -/
theorem State.unlockServed_eq (s : State) (l : LockUnit) (r : Request) (c : AnswerCode) (ws : List Word) :
    ({ s.fetchDone with lock := l }.offerRoom .unlock).answerOnceQueued r c ws = s.unlockServed l r c ws := by
  have h : ({ s.fetchDone with lock := l }.offerRoom .unlock).store = s.store.offer .unlock (.room (s.roomRecordWith l)) := rfl
  unfold State.answerOnceQueued State.unlockServed
  rw [h]
  split <;> rename_i hl <;> simp only [hl] <;> rfl

end Sys2Proof.Machine
end

