-- ==== Sys2Proof/Laws/Stay.lean ====
section
/-! SUPPORT. The laws of a stay and of the handles (R108, R109, R111, R154): one relation between the states before and after, kept by
every operation that a purchase, a commit, a store write, an event or the drain can lead to, under which those laws are kept. -/

namespace Sys2Proof.Machine

/-! ### Handles in use, and held charges -/

/-- A handle is in use: an entry carries it or a notice of it is pending. -/
theorem State.handleInUse_iff (s : State) (h : Nat) :
    s.handleInUse h = true ↔ (∃ e ∈ s.purchases.entries, e.handle = h) ∨ ∃ n ∈ s.req.notices, noticeHandle n = some h := by
  simp [State.handleInUse]

/-- The handle of an entry of the list is in use. -/
theorem State.inUse_of_mem {s : State} {e : PurchaseEntry} (he : e ∈ s.purchases.entries) : s.handleInUse e.handle = true :=
  (s.handleInUse_iff _).2 (.inl ⟨e, he, rfl⟩)

/-- What a raised flag leaves in the pending set. -/
theorem mem_raiseIn {n m : Notice} {set : List Notice} (h : m ∈ raiseIn n set) : m = n ∨ m ∈ set := by
  unfold raiseIn at h
  split at h
  · obtain ⟨k, hk, rfl⟩ := List.mem_map.1 h
    split
    · exact .inl rfl
    · exact .inr hk
  · split at h
    · exact (List.mem_cons.1 h).imp_right id
    · rcases List.mem_append.1 h with h | h
      · exact .inr h
      · exact .inl (List.mem_singleton.1 h)

/-- The flags of entries that leave are of their handles. -/
theorem mem_goneNotices {r : Reason} {l : List PurchaseEntry} {set : List Notice} {m : Notice} (h : m ∈ goneNotices r l set) :
    (∃ e ∈ l, noticeHandle m = some e.handle) ∨ m ∈ set := by
  induction l generalizing set with
  | nil => exact .inr h
  | cons e l ih =>
    rcases ih h with ⟨x, hx, k⟩ | k
    · exact .inl ⟨x, List.mem_cons_of_mem _ hx, k⟩
    · rcases mem_raiseIn k with rfl | k
      · exact .inl ⟨e, List.mem_cons_self, rfl⟩
      · exact .inr k

/-- The flags of entries whose charge is cleared are of their handles. -/
theorem mem_waivedNotices {l : List PurchaseEntry} {set : List Notice} {m : Notice} (h : m ∈ waivedNotices l set) :
    (∃ e ∈ l, noticeHandle m = some e.handle) ∨ m ∈ set := by
  induction l generalizing set with
  | nil => exact .inr h
  | cons e l ih =>
    rcases ih h with ⟨x, hx, k⟩ | k
    · exact .inl ⟨x, List.mem_cons_of_mem _ hx, k⟩
    · rcases mem_raiseIn k with rfl | k
      · exact .inl ⟨e, List.mem_cons_self, rfl⟩
      · exact .inr k

/-- The charges held by a list of entries. -/
def heldSum (l : List PurchaseEntry) : Nat := (l.map PurchaseEntry.heldCharge).sum

/-- Entries fewer, charges fewer. -/
theorem heldSum_sublist {l m : List PurchaseEntry} (h : l.Sublist m) : heldSum l ≤ heldSum m := by
  unfold heldSum
  induction h with
  | slnil => exact Nat.le_refl _
  | cons a _ ih => simp only [List.map_cons, List.sum_cons]; omega
  | cons_cons a _ ih => simp only [List.map_cons, List.sum_cons]; omega

/-- Entries each changed to hold no more. -/
theorem heldSum_map {f : PurchaseEntry → PurchaseEntry} {l : List PurchaseEntry} (h : ∀ e ∈ l, (f e).heldCharge ≤ e.heldCharge) :
    heldSum (l.map f) ≤ heldSum l := by
  unfold heldSum
  induction l with
  | nil => exact Nat.le_refl _
  | cons a l ih =>
    have h1 := ih fun e he => h e (List.mem_cons_of_mem _ he)
    have h2 := h a List.mem_cons_self
    simp only [List.map_cons, List.sum_cons] at h1 ⊢
    omega

/-- Entries each changed to hold no more, one of them to hold nothing. -/
theorem heldSum_map_drop {f : PurchaseEntry → PurchaseEntry} {l : List PurchaseEntry} {x : PurchaseEntry} (hx : x ∈ l)
    (h : ∀ e ∈ l, (f e).heldCharge ≤ e.heldCharge) (h0 : (f x).heldCharge = 0) :
    heldSum (l.map f) + x.heldCharge ≤ heldSum l := by
  unfold heldSum
  induction l with
  | nil => cases hx
  | cons a l ih =>
    have h1 := heldSum_map fun e he => h e (List.mem_cons_of_mem _ he)
    have h2 := h a List.mem_cons_self
    simp only [List.map_cons, List.sum_cons]
    rcases List.mem_cons.1 hx with rfl | k
    · unfold heldSum at h1; omega
    · have := ih k fun e he => h e (List.mem_cons_of_mem _ he)
      omega

/-! ### The relation -/

/-- The handles of the list and the handles in use only become fewer; a request is in service only if one was; and the room either
stays in its state under its cap, no more being spent and held together, or enters VACANT with everything of the stay gone. -/
structure Eases (s t : State) : Prop where
  handles  : (t.purchases.entries.map (·.handle)).Sublist (s.purchases.entries.map (·.handle))
  next     : t.purchases.nextHandle = s.purchases.nextHandle
  startUp  : t.req.startUp = s.req.startUp
  fetching : t.req.service = .fetching → s.req.service = .fetching
  idle     : s.req.service = .idle → t.req.service = .idle
  inUse    : ∀ h, t.handleInUse h = true → s.handleInUse h = true
  binding  : t.msgs.room.binding = s.msgs.room.binding
  grants   : t.lock.grants.Sublist s.lock.grants
  pin      : t.lock.pin = s.lock.pin ∨ t.lock.pin = none
  room     : (t.msgs.room.state = s.msgs.room.state ∧ t.msgs.room.cap = s.msgs.room.cap ∧
      t.msgs.room.spent + t.purchases.held ≤ s.msgs.room.spent + s.purchases.held) ∨
    (s.msgs.room.state = .checkout ∧ t.msgs.room.state = .vacant ∧ t.purchases.entries = [] ∧ t.lock.grants = [] ∧
      t.lock.pin = none ∧ t.msgs.room.cap = 0 ∧ t.msgs.room.spent = 0)

namespace Eases

theorem refl (s : State) : Eases s s :=
  ⟨.refl _, rfl, rfl, id, id, fun _ => id, rfl, .refl _, .inl rfl, .inl ⟨rfl, rfl, Nat.le_refl _⟩⟩

/-- No entries stay no entries. -/
theorem nil {s t : State} (h : Eases s t) (e : s.purchases.entries = []) : t.purchases.entries = [] := by
  have := h.handles
  rw [e, List.map_nil, List.sublist_nil] at this
  exact List.map_eq_nil_iff.1 this

/-- Distinct handles stay distinct. -/
theorem distinct {s t : State} (h : Eases s t) (e : s.purchases.handlesDistinct) : t.purchases.handlesDistinct := e.sublist h.handles

theorem trans {s t u : State} (h : Eases s t) (k : Eases t u) : Eases s u where
  handles := k.handles.trans h.handles
  next := k.next.trans h.next
  startUp := k.startUp.trans h.startUp
  fetching := h.fetching ∘ k.fetching
  idle := k.idle ∘ h.idle
  inUse := fun n e => h.inUse n (k.inUse n e)
  binding := k.binding.trans h.binding
  grants := k.grants.trans h.grants
  pin := by
    rcases k.pin with a | a
    · rw [a]; exact h.pin
    · exact .inr a
  room := by
    rcases h.room with ⟨a, b, c⟩ | ⟨a, b, c, d, e, f, g⟩
    · rcases k.room with ⟨a', b', c'⟩ | ⟨a', rest⟩
      · exact .inl ⟨a'.trans a, b'.trans b, Nat.le_trans c' c⟩
      · exact .inr ⟨a.symm.trans a', rest⟩
    · rcases k.room with ⟨a', b', c'⟩ | ⟨a', _⟩
      · have e0 : t.purchases.held = 0 := by unfold PurchaseUnit.held; rw [c]; rfl
        refine .inr ⟨a, a'.trans b, k.nil c, ?_, ?_, b'.trans f, ?_⟩
        · have := k.grants; rw [d, List.sublist_nil] at this; exact this
        · rcases k.pin with p | p
          · rw [p, e]
          · exact p
        · omega
      · rw [b] at a'; cases a'

/-- A fold of operations, each of them easing. -/
theorem fold {α : Type} {f : State → α → State} (hf : ∀ s a, Eases s (f s a)) (l : List α) (s : State) : Eases s (l.foldl f s) := by
  induction l generalizing s with
  | nil => exact refl s
  | cons a l ih => exact (hf s a).trans (ih _)

/-- A fold of operations, each of them easing where handles are distinct. -/
theorem foldDistinct {α : Type} {f : State → α → State} (hf : ∀ s a, s.purchases.handlesDistinct → Eases s (f s a)) (l : List α)
    (s : State) (hd : s.purchases.handlesDistinct) : Eases s (l.foldl f s) := by
  induction l generalizing s with
  | nil => exact refl s
  | cons a l ih => exact (hf s a hd).trans (ih _ ((hf s a hd).distinct hd))

/-- One of two operations. -/
theorem ite {p : Prop} [Decidable p] {s t u : State} (h : Eases s t) (k : Eases s u) : Eases s (if p then t else u) := by
  split
  · exact h
  · exact k

/-- The laws of the handles are kept. -/
theorem handlesSound {s t : State} (h : Eases s t) (w : s.HandlesSound) : t.HandlesSound where
  distinct := h.distinct w.distinct
  next := by rw [h.next]; exact w.next
  few := by
    have := h.handles.length_le
    simp only [List.length_map] at this
    exact Nat.le_trans this w.few
  starting := fun k => by
    rw [h.startUp] at k
    exact ⟨h.idle (w.starting k).1, h.nil (w.starting k).2⟩
  serving := fun k => by
    obtain ⟨l, hl, hm⟩ := w.serving (h.fetching k)
    exact ⟨l, hl, fun n hn => hm n (h.inUse n hn)⟩

/-- The laws of a stay are kept. -/
theorem staySound {s t : State} (h : Eases s t) (w : s.StaySound) : t.StaySound where
  toHandlesSound := h.handlesSound w.toHandlesSound
  binding := by
    rw [h.binding]
    rcases h.room with ⟨a, _, _⟩ | ⟨a, b, _⟩
    · rw [a]; exact w.binding
    · rw [w.binding, a, b]; simp
  noStay := by
    rcases h.room with ⟨a, b, c⟩ | ⟨_, _, c, d, e, f, g⟩
    · intro k
      rw [a] at k
      obtain ⟨h1, h2, h3, h4, h5, h6⟩ := w.noStay k
      have hn := h.nil h1
      have e0 : t.purchases.held = 0 := by unfold PurchaseUnit.held; rw [hn]; rfl
      refine ⟨hn, ?_, ?_, e0, by omega, b.trans h6⟩
      · have := h.grants; rw [h2, List.sublist_nil] at this; exact this
      · rcases h.pin with p | p
        · rw [p, h3]
        · exact p
    · intro _
      exact ⟨c, d, e, by unfold PurchaseUnit.held; rw [c]; rfl, g, f⟩
  charged := by
    rcases h.room with ⟨_, b, c⟩ | ⟨_, _, c, _, _, _, g⟩
    · rw [b]; exact Nat.le_trans c w.charged
    · have e0 : t.purchases.held = 0 := by unfold PurchaseUnit.held; rw [c]; rfl
      omega

/-- States alike in the purchase list, the grants, the PIN and the room, with no flag more pending and no request more in service. -/
theorem of_same {s t : State} (hp : t.purchases.entries = s.purchases.entries) (hn : t.purchases.nextHandle = s.purchases.nextHandle)
    (hu : t.req.startUp = s.req.startUp) (hf : t.req.service = .fetching → s.req.service = .fetching)
    (hi : s.req.service = .idle → t.req.service = .idle) (hm : ∀ n ∈ t.req.notices, n ∈ s.req.notices)
    (hg : t.lock.grants = s.lock.grants) (hl : t.lock.pin = s.lock.pin) (hr : t.msgs.room = s.msgs.room) : Eases s t where
  handles := hp ▸ .refl _
  next := hn
  startUp := hu
  fetching := hf
  idle := hi
  inUse := fun h => by
    rw [State.handleInUse_iff, State.handleInUse_iff, hp]
    exact Or.imp_right fun ⟨n, a, b⟩ => ⟨n, hm n a, b⟩
  binding := by rw [hr]
  grants := hg ▸ .refl _
  pin := .inl hl
  room := .inl ⟨by rw [hr], by rw [hr], Nat.le_of_eq (by unfold PurchaseUnit.held; rw [hr, hp])⟩

/-- States alike in the purchase list, the request unit, the grants, the PIN and the room. -/
theorem of_eq {s t : State} (hp : t.purchases.entries = s.purchases.entries) (hn : t.purchases.nextHandle = s.purchases.nextHandle)
    (hq : t.req = s.req) (hg : t.lock.grants = s.lock.grants) (hl : t.lock.pin = s.lock.pin)
    (hr : t.msgs.room = s.msgs.room) : Eases s t :=
  of_same hp hn (by rw [hq]) (by rw [hq]; exact id) (by rw [hq]; exact id) (by rw [hq]; exact fun _ => id) hg hl hr

variable (s : State)

/-- A flag raised whose handle, if it has one, is in use. -/
theorem raise (n : Notice) (h : ∀ k, noticeHandle n = some k → s.handleInUse k = true) : Eases s (s.raise n) :=
  { refl s with
    inUse := fun k hk => by
      rw [State.handleInUse_iff] at hk
      rcases hk with hk | ⟨m, hm, e⟩
      · exact (s.handleInUse_iff k).2 (.inl hk)
      · rcases mem_raiseIn hm with rfl | hm
        · exact h k e
        · exact (s.handleInUse_iff k).2 (.inr ⟨m, hm, e⟩) }

theorem offer (c : Caller) (w : StoreWrite) : Eases s (s.offer c w) := of_eq rfl rfl rfl rfl rfl rfl

theorem offerRoom (c : Caller) : Eases s (s.offerRoom c) := offer s c _

/-- Entries each changed, none of them under another handle, none of them to hold more. -/
theorem mapEntries (f : PurchaseEntry → PurchaseEntry) (hh : ∀ e ∈ s.purchases.entries, (f e).handle = e.handle)
    (hc : ∀ e ∈ s.purchases.entries, (f e).heldCharge ≤ e.heldCharge) :
    Eases s { s with purchases := { s.purchases with entries := s.purchases.entries.map f } } :=
  { refl s with
    handles := by
      have e : (s.purchases.entries.map f).map (·.handle) = s.purchases.entries.map (·.handle) := by
        rw [List.map_map]; exact List.map_congr_left hh
      show (List.map (·.handle) (s.purchases.entries.map f)).Sublist _
      exact e ▸ .refl _
    inUse := fun k hk => by
      rw [State.handleInUse_iff] at hk ⊢
      rcases hk with ⟨e, he, k⟩ | hk
      · obtain ⟨x, hx, rfl⟩ := List.mem_map.1 he
        exact .inl ⟨x, hx, by rw [← hh x hx]; exact k⟩
      · exact .inr hk
    room := .inl ⟨rfl, rfl, Nat.add_le_add_left (heldSum_map hc) _⟩ }

/-- The entry of a handle changed in its other items. -/
theorem mapPurchase (h : Nat) (f : PurchaseEntry → PurchaseEntry)
    (hh : ∀ e ∈ s.purchases.entries, e.handle = h → (f e).handle = e.handle ∧ (f e).heldCharge ≤ e.heldCharge) :
    Eases s (s.mapPurchase h f) := by
  refine mapEntries s (fun e => if e.handle == h then f e else e) (fun e he => ?_) (fun e he => ?_)
  · split
    · next k => exact (hh e he (by simpa using k)).1
    · rfl
  · split
    · next k => exact (hh e he (by simpa using k)).2
    · exact Nat.le_refl _

/-- Entries off the list, with flags of handles that are in use. -/
theorem filterEntries (p : PurchaseEntry → Bool) (set : List Notice)
    (h : ∀ n ∈ set, ∀ k, noticeHandle n = some k → s.handleInUse k = true) :
    Eases s { s with
      purchases := { s.purchases with entries := s.purchases.entries.filter p }
      req := { s.req with notices := set } } :=
  { refl s with
    handles := List.filter_sublist.map _
    inUse := fun k hk => by
      rw [State.handleInUse_iff] at hk
      rcases hk with ⟨e, he, k⟩ | ⟨n, hn, e⟩
      · exact (s.handleInUse_iff _).2 (.inl ⟨e, (List.mem_filter.1 he).1, k⟩)
      · exact h n hn k e
    room := .inl ⟨rfl, rfl, Nat.add_le_add_left (heldSum_sublist List.filter_sublist) _⟩ }

theorem removePurchase (h : Nat) : Eases s (s.removePurchase h) :=
  filterEntries s _ s.req.notices fun n hn k e => (s.handleInUse_iff k).2 (.inr ⟨n, hn, e⟩)

/-- An entry off the list with a flag of its handle. -/
theorem releaseHeld (r : Reason) (e : PurchaseEntry) (he : s.handleInUse e.handle = true) : Eases s (s.releaseHeld r e) := by
  refine filterEntries s (·.handle != e.handle) (raiseIn (e.notice .gone r) s.req.notices) fun n hn k hk => ?_
  rcases mem_raiseIn hn with rfl | hn
  · cases hk; exact he
  · exact (s.handleInUse_iff k).2 (.inr ⟨n, hn, hk⟩)

theorem failCommit (e : PurchaseEntry) (he : s.handleInUse e.handle = true) : Eases s (s.failCommit e) := releaseHeld s _ e he

theorem freeIfAcked (c : Caller) (seq : Option Nat) : Eases s (s.freeIfAcked c seq) := by
  unfold State.freeIfAcked
  split
  · exact refl s
  · split
    · split
      · exact offer s _ _
      · exact refl s
    · exact refl s

theorem retireCommitted (c : Caller) (r : Reason) (e : PurchaseEntry) (he : s.handleInUse e.handle = true) :
    Eases s (s.retireCommitted c r e) := (releaseHeld s r e he).trans (freeIfAcked _ _ _)

/-- Flags of entries of the list are of handles in use. -/
theorem gone_inUse {r : Reason} {l : List PurchaseEntry} (hl : ∀ e ∈ l, s.handleInUse e.handle = true) :
    ∀ n ∈ goneNotices r l s.req.notices, ∀ k, noticeHandle n = some k → s.handleInUse k = true := by
  intro n hn k hk
  rcases mem_goneNotices hn with ⟨e, he, h⟩ | hn
  · rw [hk] at h; cases h; exact hl e he
  · exact (s.handleInUse_iff k).2 (.inr ⟨n, hn, hk⟩)

/-- Entries off the list one after another, each with a flag of its handle. -/
theorem foldReleaseHeld (r : Reason) (l : List PurchaseEntry) (hl : ∀ e ∈ l, s.handleInUse e.handle = true) :
    Eases s (l.foldl (fun s e => s.releaseHeld r e) s) := by
  rw [State.foldl_releaseHeld]
  exact filterEntries s _ _ (gone_inUse s hl)

theorem failCommitting : Eases s s.failCommitting :=
  foldReleaseHeld s .storeFault _ fun _ h => State.inUse_of_mem (List.mem_filter.1 h).1

/-- Entries retired one after another. -/
theorem foldRetireCommitted (c : Caller) (r : Reason) (l : List PurchaseEntry) (hl : ∀ e ∈ l, s.handleInUse e.handle = true) :
    Eases s (l.foldl (fun s e => s.retireCommitted c r e) s) := by
  rw [State.foldl_retireCommitted]
  exact (filterEntries s (fun x => l.all fun e => x.handle != e.handle) _ (gone_inUse s hl)).trans (of_eq rfl rfl rfl rfl rfl rfl)

theorem enterVacant (c : Caller) (h : s.msgs.room.state = .checkout) : Eases s (s.enterVacant c) := by
  rw [State.enterVacant_eq]
  exact {
    handles := List.nil_sublist _
    next := rfl
    startUp := rfl
    fetching := id
    idle := id
    inUse := fun k hk => by
      rw [State.handleInUse_iff] at hk
      rcases hk with ⟨e, he, _⟩ | ⟨n, hn, e⟩
      · cases he
      · rcases mem_raiseIn hn with rfl | hn
        · cases e
        · exact gone_inUse s (fun _ h => State.inUse_of_mem h) n hn k e
    binding := rfl
    grants := List.nil_sublist _
    pin := .inr rfl
    room := .inr ⟨h, rfl, rfl, rfl, rfl, rfl, rfl⟩ }

theorem testDrain (c : Caller) : Eases s (s.testDrain c) := by
  unfold State.testDrain
  split
  · next h => exact enterVacant s c h.1
  · exact refl s

theorem commitEnded (c : Caller) : Eases s (s.commitEnded c) := by
  unfold State.commitEnded
  split
  · next h => exact enterVacant s c h.1
  · exact testDrain s c

theorem addTitle (t : BitVec 32) (hd : s.purchases.handlesDistinct) : Eases s (s.addTitle t) := by
  rw [State.addTitle_eq t s hd]
  split
  · exact refl s
  · have h1 := mapEntries s (fun x => if x.heldTitle t then x.waived else x) (fun e _ => by split <;> rfl) fun e _ => by
      split
      · exact Nat.zero_le _
      · exact Nat.le_refl _
    refine { h1 with inUse := fun k hk => ?_ }
    rw [State.handleInUse_iff] at hk
    rcases hk with hk | ⟨n, hn, e⟩
    · exact h1.inUse k ((State.handleInUse_iff _ k).2 (.inl hk))
    · rcases mem_waivedNotices hn with ⟨x, hx, h⟩ | hn
      · rw [e] at h; cases h; exact State.inUse_of_mem ((List.mem_filter.1 hx).1)
      · exact (s.handleInUse_iff k).2 (.inr ⟨n, hn, e⟩)

theorem offerTitlesIf (c : Caller) (b : Bool) : Eases s (s.offerTitlesIf c b) := ite (offer s _ _) (refl s)

/-- The one entry of a handle made COMMITTED or COMMITTING, its charge and handle kept. -/
theorem mapOne (e e' : PurchaseEntry) (hd : s.purchases.handlesDistinct) (he : e ∈ s.purchases.entries) (hh : e'.handle = e.handle)
    (hc : e'.heldCharge ≤ e.heldCharge) : Eases s (s.mapPurchase e.handle fun _ => e') := by
  refine mapPurchase s e.handle (fun _ => e') fun x hx k => ?_
  rw [eq_of_handle hd hx he k]
  exact ⟨hh, hc⟩

/-- After an entry has been changed, its handle is still in use. -/
theorem inUse_map (e e' : PurchaseEntry) (he : e ∈ s.purchases.entries) (hh : e'.handle = e.handle) :
    (s.mapPurchase e.handle fun _ => e').handleInUse e.handle = true := by
  refine (State.handleInUse_iff _ _).2 (.inl ⟨e', List.mem_map.2 ⟨e, he, ?_⟩, hh⟩)
  dsimp only; rw [if_pos (by simp)]

theorem faultStore : Eases s s.faultStore := by
  have hs : ∀ q : RequestUnit, (q.writeEnded false).writeJoined.service = .fetching → q.service = .fetching := by
    intro q; cases h : q.service with
    | waiting a b => cases b <;> simp [RequestUnit.writeEnded, RequestUnit.writeJoined, h]
    | _ => simp [RequestUnit.writeEnded, RequestUnit.writeJoined, h]
  have hi : ∀ q : RequestUnit, q.service = .idle → (q.writeEnded false).writeJoined.service = .idle := by
    intro q h; simp [RequestUnit.writeEnded, RequestUnit.writeJoined, h]
  have hn : ∀ q : RequestUnit, (q.writeEnded false).writeJoined.notices = q.notices := by
    intro q; cases h : q.service with
    | waiting a b => cases b <;> simp [RequestUnit.writeEnded, RequestUnit.writeJoined, h]
    | _ => simp [RequestUnit.writeEnded, RequestUnit.writeJoined, h]
  have hr : s.faultStore.msgs.room = s.msgs.room := by simp only [State.faultStore]; split <;> rfl
  exact {
    handles := .refl _
    next := rfl
    startUp := by simp only [State.faultStore, Cascade.writeJoined_startUp, Cascade.writeEnded_startUp]
    fetching := hs _
    idle := hi _
    inUse := fun k hk => by
      rw [State.handleInUse_iff] at hk ⊢
      rw [show s.faultStore.req.notices = s.req.notices from hn _] at hk
      exact hk
    binding := by rw [hr]
    grants := .refl _
    pin := .inl rfl
    room := .inl ⟨by rw [hr], by rw [hr], by rw [hr]; exact Nat.le_refl _⟩ }

theorem storeFault : Eases s s.storeFault := (faultStore s).trans (failCommitting _)

/-- A flag raised for an entry whose handle was in use before. -/
theorem raiseAfter {s t : State} (h : Eases s t) (n : Notice) (k : Nat) (hn : noticeHandle n = some k) (hk : s.handleInUse k = true) :
    Eases s (t.raise n) :=
  { h with
    inUse := fun m hm => by
      rw [State.handleInUse_iff] at hm
      rcases hm with hm | ⟨x, hx, e⟩
      · exact h.inUse m ((State.handleInUse_iff t m).2 (.inl hm))
      · rcases mem_raiseIn hx with rfl | hx
        · rw [hn] at e; cases e; exact hk
        · exact h.inUse m ((State.handleInUse_iff t m).2 (.inr ⟨x, hx, e⟩)) }

/-- An entry off the list after an operation, with a flag of its handle, which was in use before. -/
theorem releaseAfter {s t : State} (h : Eases s t) (r : Reason) (e : PurchaseEntry) (he : s.handleInUse e.handle = true) :
    Eases s (t.releaseHeld r e) := raiseAfter (h.trans (removePurchase t _)) (e.notice .gone r) e.handle rfl he

theorem commitFree (c : Caller) (e : PurchaseEntry) (hd : s.purchases.handlesDistinct) (he : e ∈ s.purchases.entries) :
    Eases s (s.commitFree c e) := by
  have h1 := mapOne s e { e with state := .committed } hd he rfl (Nat.zero_le _)
  exact raiseAfter ((h1.trans (addTitle _ _ (h1.distinct hd))).trans (offerTitlesIf _ _ _)) _ e.handle rfl (State.inUse_of_mem he)

theorem offerCommit (c : Caller) (r : CommitRecord) : Eases s (s.offerCommit c r) := by
  unfold State.offerCommit
  split <;> exact of_eq rfl rfl rfl rfl rfl rfl

theorem commitNumbered (c : Caller) (e : PurchaseEntry) (n : Nat) (hd : s.purchases.handlesDistinct) (he : e ∈ s.purchases.entries)
    (hs : e.state = .held) : Eases s (s.commitNumbered c e n) := by
  have h1 := mapOne s e { e with state := .committing, seq := some n } hd he rfl (by simp [PurchaseEntry.heldCharge, hs])
  have h2 : Eases s { s.mapPurchase e.handle (fun _ => { e with state := .committing, seq := some n }) with
      bills := { s.bills with counter := some (n + 1) } } := h1.trans (of_eq rfl rfl rfl rfl rfl rfl)
  exact raiseAfter (h2.trans (offerCommit _ _ _)) _ e.handle rfl (State.inUse_of_mem he)

theorem commitCharged (c : Caller) (e : PurchaseEntry) (hd : s.purchases.handlesDistinct) (he : e ∈ s.purchases.entries)
    (hs : e.state = .held) : Eases s (s.commitCharged c e) := by
  have hu := State.inUse_of_mem he
  unfold State.commitCharged
  split
  · exact (failCommit s e hu).trans (commitEnded _ _)
  · exact (releaseAfter (storeFault s) .storeFault e hu).trans (commitEnded _ _)
  · split
    · exact commitNumbered s _ _ _ hd he hs
    · exact (releaseAfter (storeFault s) .storeFault e hu).trans (commitEnded _ _)

theorem beginCommit (c : Caller) (h : Nat) (hd : s.purchases.handlesDistinct) : Eases s (s.beginCommit c h) := by
  unfold State.beginCommit
  split
  · exact refl s
  · next e hb =>
    obtain ⟨he, _⟩ := PurchaseUnit.byHandle_some hb
    split
    · next hs => exact ite (commitFree s _ _ hd he) (commitCharged s _ _ hd he hs)
    · exact refl s
    · exact refl s

/-- An entry COMMITTING is made COMMITTED and its charge moves from what is held to what is spent. -/
theorem spendCommitted (e : PurchaseEntry) (hd : s.purchases.handlesDistinct) (he : e ∈ s.purchases.entries)
    (hs : e.state = .committing) :
    Eases s ((s.mapPurchase e.handle fun _ => { e with state := .committed }).spend e.charge) := by
  have h1 := mapOne s e { e with state := .committed } hd he rfl (Nat.zero_le _)
  refine { h1 with room := .inl ⟨rfl, rfl, ?_⟩ }
  have hm := heldSum_map_drop (f := fun x => if x.handle == e.handle then { e with state := .committed } else x) he
    (fun x _ => by
      split
      · exact Nat.zero_le _
      · exact Nat.le_refl _)
    (by rw [if_pos (by simp)]; rfl)
  have hc : e.heldCharge = e.charge := by simp [PurchaseEntry.heldCharge, hs]
  rw [hc] at hm
  show s.msgs.room.spent + e.charge + heldSum _ ≤ s.msgs.room.spent + heldSum _
  have : heldSum (s.purchases.entries.map fun x => if x.handle == e.handle then { e with state := .committed } else x) + e.charge ≤
      heldSum s.purchases.entries := hm
  simp only [State.spend, State.mapPurchase, PurchaseUnit.mapHandle]
  omega

theorem completeCommit (r : CommitRecord) (hd : s.purchases.handlesDistinct) : Eases s (s.completeCommit r) := by
  have h1 : Eases s (s.logRecord r) := of_eq rfl rfl rfl rfl rfl rfl
  unfold State.completeCommit
  dsimp only
  split
  · exact h1
  · next e hb =>
    obtain ⟨he, hs, _⟩ := PurchaseUnit.committing_some hb
    have hu := State.inUse_of_mem he
    refine trans ?_ (commitEnded _ _)
    have h2 := h1.trans (spendCommitted (s.logRecord r) e hd he hs)
    have h3 := raiseAfter (((h2.trans (addTitle _ e.title (h2.distinct hd))).trans (offerRoom _ .part)).trans
      (offerTitlesIf _ .part (!s.purchases.titles.contains e.title)))
      (PurchaseEntry.notice { e with state := .committed } .committed .committed) e.handle rfl hu
    exact ite ((releaseAfter h3 .eventEnded { e with state := .committed } hu).trans (freeIfAcked _ _ _)) h3

theorem endPurchase (c : Caller) (id : BitVec 32) : Eases s (s.endPurchase c id) := by
  unfold State.endPurchase
  split
  · exact refl s
  · next e hb =>
    have he : e ∈ s.purchases.entries := List.mem_of_find?_eq_some hb
    have hu := State.inUse_of_mem he
    split
    · exact releaseHeld s _ _ hu
    · exact mapPurchase s _ _ fun _ _ _ => ⟨rfl, Nat.le_refl _⟩
    · exact retireCommitted s _ _ _ hu

theorem setEvents (u : EventUnit) : Eases s { s with events := u } := of_eq rfl rfl rfl rfl rfl rfl

theorem endEvent (c : Caller) (id : BitVec 32) : Eases s (s.endEvent c id) := (endPurchase s c id).trans (setEvents _ _)

theorem offerHeldPair : Eases s s.offerHeldPair := by
  unfold State.offerHeldPair
  split
  · exact of_eq rfl rfl rfl rfl rfl rfl
  · exact refl s

theorem watch (e : PurchaseEntry) (hd : s.purchases.handlesDistinct) : Eases s (s.watch e) := by
  have h1 := mapPurchase s e.handle (fun x => { x with watched := riseWatched e.watched }) fun _ _ _ => ⟨rfl, Nat.le_refl _⟩
  exact ite (h1.trans (beginCommit _ _ _ (h1.distinct hd))) h1

theorem freeLookSecond (v : EventEntry) : Eases s (s.freeLookSecond v) := ite (setEvents s _) (refl s)

theorem foldMark (id : BitVec 32) (hd : s.purchases.handlesDistinct) : Eases s (s.foldMark id) := by
  have h1 := setEvents s (s.events.mapId id fun v => { v with seen := false })
  unfold State.foldMark
  split
  · exact refl s
  · dsimp only
    split
    · split
      · exact h1.trans (freeLookSecond _ _)
      · split
        · exact h1.trans (watch _ _ hd)
        · exact h1
        · exact h1.trans (watch _ _ hd)
    · exact h1

theorem foldMarks (ids : List (BitVec 32)) (hd : s.purchases.handlesDistinct) : Eases s (s.foldMarks ids) :=
  foldDistinct (fun s a h => foldMark s a h) _ _ hd

theorem limitRebuilt : Eases s s.limitRebuilt :=
  foldRetireCommitted s _ _ _ fun _ h => State.inUse_of_mem (List.mem_filter.1 h).1

theorem expireCheckout : Eases s s.expireCheckout := by
  unfold State.expireCheckout
  split
  · next h _ =>
    split
    · dsimp only
      split
      · exact { refl s with room := .inl ⟨rfl, rfl, Nat.le_refl _⟩ }
      · refine trans ?_ (enterVacant _ _ ?_)
        · exact { refl s with room := .inl ⟨rfl, rfl, Nat.le_refl _⟩ }
        · exact h
    · exact refl s
  · exact refl s

theorem expireGrants : Eases s s.expireGrants :=
  { refl s with grants := List.filter_sublist, room := .inl ⟨rfl, rfl, Nat.le_refl _⟩ }

/-- What any owed part keeps. -/
theorem runOwed (o : Owed) (hd : s.purchases.handlesDistinct) : Eases s (s.runOwed o) := by
  cases o with
  | eventEnd id next =>
    have h := endEvent s .part id
    exact h.trans (foldMarks _ _ (h.distinct hd))
  | grantExpiry => exact expireGrants s
  | lockoutExpiry => exact of_eq rfl rfl rfl rfl rfl rfl
  | resendDue => exact of_eq rfl rfl rfl rfl rfl rfl
  | rebuiltEntryLimit => exact limitRebuilt s
  | checkoutExpiry => exact expireCheckout s
  | commitPairOffer => exact offerHeldPair s

theorem setOwed (l : List Owed) : Eases s { s with owed := l } := of_eq rfl rfl rfl rfl rfl rfl

theorem doOwed (o : Owed) (os : List Owed) (hd : s.purchases.handlesDistinct) : Eases s (s.doOwed o os) :=
  (runOwed s o hd).trans (setOwed _ os)

theorem settleList (l : List Owed) (hd : s.purchases.handlesDistinct) : Eases s (State.settleList l s) := by
  induction l generalizing s with
  | nil => exact setOwed s []
  | cons o os ih =>
    have h := doOwed s o os hd
    exact h.trans (ih _ (h.distinct hd))

/-- What settling keeps. -/
theorem settle (hd : s.purchases.handlesDistinct) : Eases s s.settle := settleList s _ hd

theorem runThrough (p : Owed → Bool) (l : List Owed) (hd : s.purchases.handlesDistinct) : Eases s (State.runThrough p l s) := by
  induction l generalizing s with
  | nil => exact setOwed s []
  | cons o os ih =>
    have h := doOwed s o os hd
    unfold State.runThrough
    split
    · exact h
    · exact h.trans (ih _ (h.distinct hd))

/-- What the row of an owed part keeps. -/
theorem takeOwed (p : Owed → Bool) (hd : s.purchases.handlesDistinct) : Eases s (s.takeOwed p) := ite (runThrough s _ _ hd) (refl s)

end Eases

end Sys2Proof.Machine
end

