-- ==== Sys2Proof/Tests/Slice0.lean ====
section
/-! SUPPORT. Tests: what is no transaction is refused; the spec's worked cases, one step each; and for each statement that has
hypotheses, states and operands that meet them (`meets_<statement>`). -/

set_option maxRecDepth 100000

namespace Sys2Proof.Tests

open Sys2Proof Sys2Proof.Machine

/-! ### What is no transaction (00_scope.md) -/

/-- A write of `n` words of ones. -/
def writeOf (initiator : BitVec 4) (addr : BitVec 32) (n : Nat) : WriteTxn := ⟨initiator, addr, List.replicate n ⟨1#64, 0xFF#8⟩⟩

theorem test_no_words : (Instr.streamSlotWrite (writeOf 1#4 0x1000#32 0)).wellFormed = false := by decide
theorem test_seventeen_words : (Instr.controlSlotWrite (writeOf 1#4 0x1000#32 17)).wellFormed = false := by decide
theorem test_off_word_boundary : (Instr.requestProduceWrite (writeOf 1#4 0x1004#32 1)).wellFormed = false := by decide
theorem test_past_the_last_address : (Instr.consumeIndexWrite (writeOf 1#4 0xFFFFFFF8#32 2)).wellFormed = false := by decide
theorem test_read_of_no_words : (Instr.streamSlotRead ⟨1#4, 0x1000#32, 0⟩).wellFormed = false := by decide
theorem test_read_of_seventeen_words : (Instr.passedTransactionArrival (.read ⟨1#4, 0x1000#32, 17⟩)).wellFormed = false := by decide
theorem test_up_to_the_last_address : (Instr.indexWordWriteIgnored (writeOf 1#4 0xFFFFFF80#32 16)).wellFormed = true := by decide

/-! ### States to test on -/

/-- The state a step leads to. -/
def after (o : Host.Outcome State Fault Refusal) : State :=
  match o with
  | .next t => t
  | .fault _ => State.reset
  | .refused _ => State.reset

/-- The key pool of chapter 2's worked sequence: entry 17 with stamp 3 current for key set 12 PHASE0, entry 88 with stamp 0 for key set 5
PHASE1. -/
def pool : KeyPool :=
  { KeyPool.reset with
    sets := (KeyPool.reset.sets.set 12 ⟨⟨some 17, none⟩, ⟨none, none⟩⟩).set 5 ⟨⟨none, none⟩, ⟨some 88, none⟩⟩
    pool := (KeyPool.reset.pool.set 17 ⟨0xABC#64, .current, 3#16, 0⟩).set 88 ⟨0xDEF#64, .current, 0#16, 0⟩ }

/-- Event 4410 of the worked sequences (06). -/
def film : EventEntry :=
  { id := 4410#32, title := 70#32, service := 301#12, tag := 9#8, start := 100000, duration := 7200, price := 1499, rating := 4
    purchasable := true, freeLook := true, used := 0, seen := false }

/-- A running part: bound as room 214 with groups 2 and 5, OCCUPIED in stay 12 with a cap of 20000, hotel time known, the store GOOD;
ring 0 of 16 slots at 0x02000000 written by initiator 2 and the control ring at 0x03000000, chapter 2's services and keys, one event. -/
def running : State :=
  let room : Room :=
    { binding := some ⟨214#16, 0x24#16, ⟨3#64, 4#64⟩, ⟨5#64, 6#64⟩⟩, state := .occupied, suspended := false, stay := 12, cap := 20000
      spent := 12990, tiers := 1#32, checkout := none }
  { State.reset with
    path := { PathUnit.reset with
      own := []
      streams := PathUnit.reset.streams.set 0 (some ⟨0x02000000, 16, 2#4, 0xF0#16⟩)
      control := some ⟨0x03000000, 8, 2#4, 0#16⟩ }
    slots :=
      { tags := State.reset.slots.tags.set 0 (List.replicate 16 none)
        services := [⟨301#12, .pay, 0, 12, 5, none, 0⟩, ⟨44#12, .tier, 3, 5, 0, none, 0⟩] }
    keys := pool
    events := { uptime := 5000, timerRunning := true, hotelTime := some 100300, entries := [film] }
    bills := { counter := some 58, log := [], highestOffered := none }
    msgs := { State.reset.msgs with
      watching := true
      identity := some ⟨0x123456#48, ⟨1#64, 2#64⟩⟩
      room := room
      serials := ⟨10, 700⟩ }
    req := { RequestUnit.reset with startUp := .running, bringUp := some .good, startGranted := true } }

/-- A cell header with its check byte: service, kind code, phase mark code, cell count, event tag (R21, R22). -/
def header (service kind phase count tag : Nat) : Word :=
  let w := BitVec.ofNat 64 (service + kind * 2 ^ 12 + phase * 2 ^ 16 + count * 2 ^ 24 + tag * 2 ^ 40 + 120 * 2 ^ 48)
  w ||| put 7 1 (headerSum w).toNat

/-- A whole cell written by an initiator: the header and 15 payload words. -/
def cellWrite (initiator : BitVec 4) (addr : BitVec 32) (h : Word) : WriteTxn :=
  ⟨initiator, addr, ⟨h, 0xFF#8⟩ :: List.replicate 15 ⟨0x55#64, 0xFF#8⟩⟩

/-- The part with the record of a request fetched: its kind, its tag 33 and its argument words. -/
def requesting (s : State) (kind : Nat) (args : List Word) : State :=
  { s with
    mem := Memory.setWords [] 0 ((BitVec.ofNat 64 (kind + 65536 * 33) :: args).map fullWord)
    path := { s.path with underWay := some (.own (.fetch 0)) }
    req := { s.req with service := .fetching } }

/-- The record fetched then. -/
def record (kind : Nat) (args : List Word) : Request :=
  { kind := BitVec.ofNat 16 kind, tag := 33#16, args := (List.range 7).map fun i => args.getD i 0#64 }

/-- The answer the part has ready, or will have when its write has ended. -/
def answered (o : Host.Outcome State Fault Refusal) : Option (AnswerCode × List Word) :=
  match (after o).req.service with
  | .answering a _ => some (a.outcome, a.results)
  | .waiting a _ => some (a.outcome, a.results)
  | .idle => none
  | .fetching => none

/-- A message with its tag under a key: two envelope words and the body. -/
def sealed (k : Key128) (w0 w1 : Word) (body : List Word) : Message :=
  let ws := (List.range 14).map fun i => (w0 :: w1 :: body).getD i 0#64
  ⟨ws ++ [tagOver k ws]⟩

/-- A room-scope message to room 214: kind code, serial, body (R149). -/
def roomMessage (kind serial : Nat) (body : List Word) : Message :=
  sealed ⟨3#64, 4#64⟩ (BitVec.ofNat 64 (2 + 214 * 2 ^ 16)) (BitVec.ofNat 64 (kind + body.length * 256 + serial * 2 ^ 32)) body

/-- A broadcast message to group 5: kind code, body. -/
def groupMessage (kind : Nat) (body : List Word) : Message :=
  sealed ⟨5#64, 6#64⟩ (BitVec.ofNat 64 (3 + 0x20 * 2 ^ 16)) (BitVec.ofNat 64 (kind + body.length * 256)) body

/-- A device-scope message: kind code, serial, body. -/
def deviceMessage (kind serial : Nat) (body : List Word) : Message :=
  sealed ⟨1#64, 2#64⟩ (BitVec.ofNat 64 (1 + 0x123456 * 2 ^ 16)) (BitVec.ofNat 64 (kind + body.length * 256 + serial * 2 ^ 32)) body

/-- The part with a message at the head of the intake queue. -/
def receiving (s : State) (m : Message) : State := { s with msgs := { s.msgs with intake := [m] } }

/-- The part with the room in another state. -/
def inRoom (s : State) (st : RoomState) : State := s.setRoomState st

/-- The part UNBOUND. -/
def unboundPart : State :=
  let room : Room := { Room.reset with stay := 12 }
  { running with msgs := { running.msgs with room := room } }

/-- The part with a PIN 1234 and a failure count. -/
def pinned (failures : Nat) (lockout : Option Nat) : State :=
  { running with lock := { running.lock with pin := some [1#4, 2#4, 3#4, 4#4], failures := failures, lockout := lockout } }

/-- PIN 1234, and the same with the flag that says it is given as the old PIN (R79, R180). -/
def pin1234 : Word := 0x432104#64
/-- See `pin1234`. -/
def oldPin1234 : Word := 0x0100000000432104#64
/-- PIN 9999. -/
def pin9999 : Word := 0x999904#64

/-- A purchase entry of the film. -/
def bought (handle : Nat) (st : PurchaseState) (charge : Nat) (seq : Option Nat) : PurchaseEntry :=
  { handle := handle, event := 4410#32, title := 70#32, state := st, charge := charge, watched := 299, seq := seq, taken := 100000
    origin := .taken, endNoted := false }

/-- The part with a purchase list. -/
def owning (s : State) (l : List PurchaseEntry) : State := { s with purchases := { s.purchases with entries := l } }

/-- A queued write nobody waits for. -/
def queued (w : StoreWrite) : QueuedWrite := ⟨w, false, false, false⟩

/-- A commit record of stay 12. -/
def commitRec (seq : Nat) (acked : Bool) : CommitRecord := ⟨seq, 12, 4410#32, 70#32, 1310, 100300, acked⟩

/-- The part with writes in the store queue. -/
def storing (s : State) (q : List QueuedWrite) : State := { s with store := { s.store with queue := q } }

/-- The policy of the worked charge cases (07). -/
def chargePolicy : Policy := { Policy.defaults with grace := 600, floor := 60, factor := 110, step := 5, maximum := 5000 }

/-- The store of the worked start-up (08): record 57 in place 0, 55 acknowledged in 7, 56 in 8, place 20 held 41; the scan finds place 20
failing. -/
def recovered : State :=
  let room : RoomRecord := ⟨.occupied, false, 12, 20000, 3930, 7, none, 0, 66⟩
  let commits := (((State.reset.store.places.commits.set 0 (.holds (commitRec 57 false))).set 7 (.holds (commitRec 55 true))).set 8
    (.holds (commitRec 56 false))).set 20 (.holds { commitRec 41 true with stay := 11 })
  { State.reset with store := { State.reset.store with places := { State.reset.store.places with
      identity := .holds ⟨0x123456#48, ⟨1#64, 2#64⟩⟩
      binding := .holds ⟨214#16, 0x24#16, ⟨3#64, 4#64⟩, ⟨5#64, 6#64⟩⟩
      room := .holds room
      commits := commits } } }

/-! ### The spec's worked cases, one step each -/

/-- 02, first cells into a new ring: slot 0's tag takes entry 17 stamp 3, whose count rises to 1; service 301 expects 1001. -/
theorem test_first_cell_takes_its_key :
    let t := after (exec (.streamSlotWrite (cellWrite 2#4 0x02000000#32 (header 301 1 1 1000 7))) running)
    (t.slots.tag 0 0).bind SlotTag.keyRef = some ⟨17, 3#16⟩ ∧ t.keys.pool[17].refs = 1 ∧
      (t.slots.service 301#12).bind ServiceEntry.expected = some 1001#16 := by decide

/-- 02: a PHASE1 cell of a key set with no key for that phase is counted and takes no reference. -/
theorem test_cell_without_key :
    let t := after (exec (.streamSlotWrite (cellWrite 2#4 0x02000200#32 (header 301 1 2 1004 7))) running)
    (t.slots.tag 0 4).bind SlotTag.keyRef = none ∧ (t.slots.tag 0 4).isSome = true ∧ t.keys = running.keys := by decide

/-- 02, a gap: with 1002 expected, cell count 1003 is one discontinuity and 1004 is expected. -/
theorem test_continuity_gap :
    ((⟨301#12, .pay, 0, 12, 5, some 1002#16, 0⟩ : ServiceEntry).continuity 1003#16) =
      ⟨301#12, .pay, 0, 12, 5, some 1004#16, 1⟩ := by decide

/-- 04: a PAY cell outside the room's right is read as slate 2 or, at R62, slate 1; here free look is open and the key is good: it is
descrambled, and the film's mark is raised (R64, R73). -/
theorem test_free_look_read_marks :
    let s := after (exec (.streamSlotWrite (cellWrite 2#4 0x02000000#32 (header 301 1 1 1000 9))) running)
    (after (exec (.streamSlotRead ⟨4#4, 0x02000000#32, 16⟩) s)).events.entries.map (·.seen) = [true] := by decide

/-- 03, the fields of one descrambled word: the seed of word 9 is W XOR 0x0000012D0003EC09. -/
theorem test_descrambled_word :
    (after (exec .readWordsReturn { running with path := { running.path with
        underWay := some (.pSide (.read ⟨4#4, 0x02000248#32, 1⟩ [⟨0, 9, 1, .descramble 0xABC#64 301#12 1004#16⟩])) } })).path.readReturn.map
      (·.words) = some [mix (0xABC#64 ^^^ 0x0000012D0003EC09#64)] := by decide

/-- 09: a control cell joins the intake queue with its words 1 to 15 (R147, R148). -/
theorem test_control_cell_joins :
    (after (exec (.controlSlotWrite (cellWrite 2#4 0x03000000#32 (header 0 5 0 0 0))) running)).msgs.intake =
      [⟨List.replicate 15 0x55#64⟩] := by decide

/-- 10, from reset to the first answer: request-produce 1 is taken during STARTING, 17 is not. -/
theorem test_request_produce :
    (after (exec (.requestProduceWrite ⟨1#4, 0xC00#32, [⟨1#64, 0xFF#8⟩]⟩) State.reset)).req.requestProduce = 1#16 ∧
      (after (exec (.requestProduceWrite ⟨1#4, 0xC00#32, [⟨17#64, 0xFF#8⟩]⟩) State.reset)).req.requestProduce = 0#16 := by decide

/-- 10: answer-consume 2 lies within 0 to 2 and is taken; 3 is not. -/
theorem test_answer_consume :
    let s := { running with req := { running.req with answerProduce := 2#16 } }
    (after (exec (.consumeIndexWrite ⟨1#4, 0xC08#32, [⟨2#64, 0xFF#8⟩]⟩) s)).req.answerConsume = 2#16 ∧
      (after (exec (.consumeIndexWrite ⟨1#4, 0xC08#32, [⟨3#64, 0xFF#8⟩]⟩) s)).req.answerConsume = 0#16 := by decide

/-- 01: a write of index word 3 is ignored (R9). -/
theorem test_index_word_3 :
    (after (exec (.indexWordWriteIgnored ⟨1#4, 0xC18#32, [⟨5#64, 0xFF#8⟩]⟩) running)).req = running.req := by decide

/-- 01: a write outside every window joins the P-side line. -/
theorem test_passed_write :
    (after (exec (.passedTransactionArrival (.write (writeOf 3#4 0x05000000#32 2))) running)).path.pSide =
      [.write (writeOf 3#4 0x05000000#32 2)] := by decide

/-- 01, arbitration under load: with both lines waiting, the count at 3 grants the P-side and at 4 the own line. 10: the grant of START's
index write asserts the attention line; a consume value taken before it leaves the line deasserted until then and after (R19, R177). -/
theorem test_arbitration :
    let s := { running with path := { running.path with
      pSide := [.write (writeOf 3#4 0x05000000#32 1)], own := [.index .answerProduce 1#16] } }
    (after (exec .msideGrant { s with path := { s.path with ownWait := 3 } })).path.ownWait = 4 ∧
      (after (exec .msideGrant { s with path := { s.path with ownWait := 4 } })).req.writtenAnswer = 1#16 ∧
      (let start (consume : BitVec 16) : State := { s with
         path := { s.path with ownWait := 4 }, req := { s.req with startGranted := false, answerProduce := 1#16, answerConsume := consume } }
       (start 1#16).attention = false ∧ (after (exec .msideGrant (start 1#16))).attention = false ∧
         (start 0#16).attention = false ∧ (after (exec .msideGrant (start 0#16))).attention = true) := by decide

/-- 10: the own read of request record 0 is issued. -/
theorem test_request_taken :
    (after (exec .requestTake { running with req := { running.req with requestProduce := 1#16 } })).path.own = [.fetch 0] := by decide

/-- 10: kind 99 is no request. -/
theorem test_unknown_request : answered (exec .unknownRequest (requesting running 99 [])) = some (.unknownRequest, []) := by decide

/-- 01, placing the rings: ring 1 at 0x02020000 with 1024 slots after ring 0 with 1024. -/
theorem test_attach_ring_1 :
    let s := requesting running 1 [1#64, 0x02020000#64, 1024#64, 2#64, 0xF0#64]
    answered (exec .attachRing { s with path := { s.path with streams := s.path.streams.set 0 (some ⟨0x02000000, 1024, 2#4, 0xF0#16⟩) } }) =
      some (.ok, [2048#64, 0x02040000#64]) := by decide

/-- 01, placing the rings: ring 0 is attached already. -/
theorem test_attach_busy :
    answered (exec .attachRing (requesting running 1 [0#64, 0x04000000#64, 16#64, 2#64, 0x10#64])) = some (.ringBusy, []) := by decide

/-- A detached ring leaves no slots (R16). -/
theorem test_detach : answered (exec .detachRing (requesting running 2 [0#64])) = some (.ok, [0#64]) := by decide

/-- Service 44 is of class TIER (1), tier 3, key set 5, rating 0, nothing expected (R38). -/
theorem test_service_info :
    answered (exec .serviceInfo (requesting running 3 [44#64])) =
      some (.ok, [1#64, 3#64, 5#64, 0#64, 65536#64, 0#64]) := by decide

/-- Key set 12: entry 17 for PHASE0, none for PHASE1 (R57). -/
theorem test_key_info :
    answered (exec .keyInfo (requesting running 4 [12#64])) =
      some (.ok, [17#64, 0#64, 0#64, 256#64, 0#64, 0#64]) := by decide

/-- After a reset SLATE_INFO answers 1, 0 and 0 (R74). -/
theorem test_slate_info : answered (exec .slateInfo (requesting running 5 [])) = some (.ok, [1#64, 0#64, 0#64]) := by decide

/-- The first PIN needs no old one (R84 step 3). -/
theorem test_first_pin : (after (exec .setPin (requesting running 6 [pin1234]))).lock.pin = some [1#4, 2#4, 3#4, 4#4] := by decide

/-- The third wrong PIN begins a lockout of the base, 60 seconds (R81). -/
theorem test_third_wrong_pin :
    answered (exec .setPin (requesting (pinned 2 none) 6 [pin9999])) = some (.wrongPin, [3#64, 60#64]) := by decide

/-- A lowered guest ceiling clears the failure count (R85). -/
theorem test_guest_ceiling :
    (after (exec .setGuestCeiling (requesting (pinned 1 none) 7 [pin1234, 3#64]))).lock =
      { (pinned 0 none).lock with guestCeiling := 3 } := by decide

/-- A span of 1 second is taken as 60 (R86). -/
theorem test_unlock : answered (exec .unlock (requesting (pinned 0 none) 8 [pin1234, 301#64, 1#64])) =
    some (.ok, [60#64, 5060#64, 1#64]) := by decide

/-- Two grants removed (R88). -/
theorem test_lock_now :
    answered (exec .lockNow (requesting { running with lock := { running.lock with grants := [⟨.all, 6000⟩, ⟨.service 301#12, 5100⟩] } }
      9 [])) = some (.ok, [2#64]) := by decide

/-- Places with no grant carry scope 65534 (R89, R181). -/
theorem test_lock_info :
    answered (exec .lockInfo (requesting running 10 [])) =
      some (.ok, [0x070707#64, 0#64, 0#64, 0#64, 0x0000FFFE0000FFFE#64, 0x0000FFFE0000FFFE#64]) := by decide

/-- Event 4410 at hotel time 100300: 300 seconds elapsed, 6900 left, the whole free look left (R107). -/
theorem test_read_event :
    (answered (exec .readEvent (requesting running 11 [4410#64, 0#64]))).map (fun a => (a.2.getD 3 0#64, a.2.getD 5 0#64)) =
      some (put 0 2 1499 ||| put 4 2 120, put 0 4 300 ||| put 4 4 6900) := by decide

/-- 07, worked charge cases 1 to 3. -/
theorem test_charge_cases :
    (chargeOf chargePolicy [] film 1500).c = 1310 ∧ (chargeOf chargePolicy [] film 6000).c = 990 ∧
      (chargeOf chargePolicy [] film 400).c = 1650 := by decide

/-- 11, one answer record: the QUOTE of charge case 1. -/
theorem test_quote :
    let s := { running with msgs := { running.msgs with policy := chargePolicy }, events := { running.events with hotelTime := some 101500 } }
    (answered (exec .quote (requesting s 12 [4410#64]))).map (fun a => a.2.take 5) =
      some [1310#64, 7916#64, 1187#64, 1306#64, 1500#64] := by decide

/-- 07, the stay cap: with 12990 spent and 6310 held, 990 more is above 20000. -/
theorem test_purchase_over_cap :
    let s := { running with msgs := { running.msgs with policy := chargePolicy }, events := { running.events with hotelTime := some 106000 } }
    answered (exec .purchase (requesting (owning s [{ bought 1 .held 6310 none with event := 1#32 }]) 13 [4410#64])) =
      some (.overCap, [990#64, 700#64]) := by decide

/-- 07: the same purchase with 1310 held is taken. -/
theorem test_purchase_taken :
    let s := { running with msgs := { running.msgs with policy := chargePolicy }, events := { running.events with hotelTime := some 106000 } }
    answered (exec .purchase (requesting (owning s [{ bought 1 .held 1310 none with event := 1#32 }]) 13 [4410#64])) =
      some (.ok, [2#64, 990#64, 4710#64]) := by decide

/-- A HELD purchase is cancelled (R124). -/
theorem test_cancel :
    answered (exec .cancel (requesting (owning running [bought 5 .held 990 none]) 14 [5#64])) = some (.ok, [990#64, 0#64]) := by decide

/-- One HELD entry of 990 cents (R128). -/
theorem test_list_purchases :
    answered (exec .listPurchases (requesting (owning running [bought 5 .held 990 none]) 15 [0#64])) =
      some (.ok, [put 0 1 1 ||| put 4 4 990, 5#64, 1#64, 12990#64, 20000#64, 0#64]) := by decide

/-- The next sequence number is 58 (R146). -/
theorem test_bill_info :
    answered (exec .billInfo (requesting running 16 [])) = some (.ok, [0#64, 0#64, 0#64, 58#64, 0#64, 0#64]) := by decide

/-- After a scan that found the store unreadable, no COMMIT place is in use, whatever the store keeps (R144, R146). -/
theorem test_bill_info_unreadable :
    let s := { recovered with req := { running.req with bringUp := some .storeFault } }
    (answered (exec .billInfo (requesting s 16 []))).map (fun a => bytesAt (a.2.getD 5 0#64) 1 1) = some 0 := by decide

/-- Stay 12 and a cap of 20000 in word 3 of STATUS (R175). -/
theorem test_status :
    (answered (exec .status (requesting running 17 []))).map (fun a => a.2.getD 2 0#64) = some (put 0 4 12 ||| put 4 4 20000) := by decide

/-- 11, one answer record: at answer-produce 5 it goes to offset 0x540, and words 3 and 4 follow it. -/
theorem test_answer_record :
    let s := { running with req := { running.req with
      answerProduce := 5#16, answerConsume := 5#16
      service := .answering ⟨12#16, 33#16, .ok, [1310#64, 7916#64, 1187#64, 1306#64, 1500#64, 700#64]⟩ none } }
    (after (exec .answerRecordWrite s)).path.own =
      [.record 0x540 [put 0 2 12 ||| put 2 2 33, 1310#64, 7916#64, 1187#64, 1306#64, 1500#64, 700#64, 0#64],
       .index .requestConsume 1#16, .index .answerProduce 6#16] := by decide

/-- 10, notices around a checkout: the first flag is written, and the second stays. -/
theorem test_notice :
    let s := { running with req := { running.req with
      notices := [.purchase 5 4410#32 .gone .checkout 990 none, .room], answerProduce := 15#16 } }
    (after (exec .noticeWrite s)).req.notices = [.room] ∧ (after (exec .noticeWrite s)).req.answerProduce = 16#16 := by decide

/-- 08, offering: record 57 is offered and the highest sequence offered becomes 57. -/
theorem test_bill_notice :
    let s := { running with bills := { running.bills with log := [⟨commitRec 57 false, .due, false⟩], highestOffered := some 56 } }
    (after (exec .billNoticeWrite s)).bills =
      { running.bills with log := [⟨commitRec 57 false, .offered 5000, true⟩], highestOffered := some 57 } := by decide

/-- No bill notice is written before the START notice (R19, R177). -/
theorem test_bill_notice_waits :
    let s := { running with
      bills := { running.bills with log := [⟨commitRec 57 false, .due, false⟩] }
      req := { running.req with notices := [.start .good 0x123456#48 .occupied .good] } }
    (after (exec .billNoticeWrite s)).bills = s.bills ∧ (after (exec .billNoticeWrite s)).path.own = [] := by decide

/-- 09, messages through the intake queue: SET_CAP with serial 701 sets the cap; its replay is ignored. -/
theorem test_set_cap :
    (after (exec .setCap (receiving running (roomMessage 0x12 701 [30000#64])))).msgs.room.cap = 30000 ∧
      (after (exec .messageAtHead (receiving { running with msgs := { running.msgs with serials := ⟨10, 701⟩ } }
        (roomMessage 0x12 701 [30000#64])))).msgs.room.cap = 20000 := by decide

/-- 09: TIME for group 5 is taken. -/
theorem test_time :
    (after (exec .time (receiving running (groupMessage 0x23 [100301#64])))).events.hotelTime = some 100301 := by decide

/-- A room that is bound takes no BIND; its serial is consumed (R153, R155). -/
theorem test_bind_bound :
    (after (exec .bind (receiving running (deviceMessage 0x01 11 [214#64])))).msgs.serials = ⟨11, 700⟩ := by decide

/-- An UNBOUND room becomes VACANT (R155). -/
theorem test_bind :
    (after (exec .bind (receiving unboundPart (deviceMessage 0x01 11 [214#64])))).msgs.room.state = .vacant := by decide

/-- UNBIND sets the room-scope last serial back to 0 (R156). -/
theorem test_unbind :
    (after (exec .unbind (receiving (inRoom running .vacant) (roomMessage 0x19 701 [])))).msgs.serials = ⟨10, 0⟩ := by decide

/-- CHECK_IN begins stay 13 (R157). -/
theorem test_check_in :
    (after (exec .checkIn (receiving (inRoom running .vacant) (roomMessage 0x10 701 [20000#64, 1#64])))).msgs.room.stay = 13 := by decide

/-- 09, a checkout with an unacknowledged bill: the HELD entry is released, the room stays in CHECKOUT with expiry 5900. -/
theorem test_check_out :
    let s := { owning running [bought 4 .committed 1300 (some 57), { bought 5 .held 990 none with event := 2#32 },
      { bought 6 .committing 2000 (some 58) with event := 3#32 }] with
      bills := { running.bills with log := [⟨commitRec 57 false, .offered 1, true⟩] } }
    let t := after (exec .checkOut (receiving s (roomMessage 0x11 701 [])))
    t.msgs.room.checkout = some ⟨5900, false⟩ ∧ t.purchases.entries.map (·.handle) = [4, 6] ∧ t.purchases.held = 2000 := by decide

/-- ENTITLE sets the tier mask (R163). -/
theorem test_entitle :
    (after (exec .entitle (receiving running (roomMessage 0x13 701 [0x0F#64])))).msgs.room.tiers = 0x0F#32 := by decide

/-- A resend interval of 0 is clamped to 30 and a rounding step of 4 to 5 (R165). -/
theorem test_policy :
    let p := (after (exec .policy (receiving running (roomMessage 0x14 701 [7#64, 0x40000#64, 0#64, 0#64])))).msgs.policy
    p.resendInterval = 30 ∧ p.step = 5 := by decide

/-- 08, acknowledgement: BILL_ACK 55 leaves 56 in the log. -/
theorem test_bill_ack :
    let s := { running with bills := { running.bills with
      log := [⟨commitRec 55 false, .offered 1990, true⟩, ⟨commitRec 56 false, .offered 1990, true⟩], highestOffered := some 57 } }
    (after (exec .billAck (receiving s (roomMessage 0x15 701 [55#64])))).bills.log.map (·.record.seq) = [56] := by decide

/-- SUSPEND raises the ROOM notice (R161). -/
theorem test_suspend :
    let t := after (exec .suspend (receiving running (roomMessage 0x16 701 [])))
    t.msgs.room.suspended = true ∧ t.req.notices = [.room] := by decide

/-- RESUME of a room that is not suspended changes nothing but the serial (R161). -/
theorem test_resume :
    (after (exec .resume (receiving running (roomMessage 0x17 701 [])))).req.notices = [] := by decide

/-- HOTEL_KEY: the key part is decrypted under the room key's first half with index values 0 and 1 (R42, R164). -/
theorem test_hotel_key :
    let m := roomMessage 0x18 701 [0xAA#64, 0xBB#64]
    ((after (exec .hotelKey (receiving running m))).msgs.room.binding.map (·.hotelKey)) =
      some ⟨0xAA#64 ^^^ mix (3#64 ^^^ 0#64 ^^^ m.word 1), 0xBB#64 ^^^ mix (3#64 ^^^ 1#64 ^^^ m.word 1)⟩ := by decide

/-- CLEAR_PIN ends a lockout (R90). -/
theorem test_clear_pin :
    (after (exec .clearPin (receiving (pinned 3 (some 5060)) (roomMessage 0x1A 701 [])))).lock = running.lock := by decide

/-- 03: a key entry for key set 12 PHASE1 at position 0 is decrypted with index value 12 × 256 + 1 × 16 (R42) and, with none current,
installed (R43). -/
theorem test_key :
    let m := groupMessage 0x20 [1#64, 0x010C#64, 0x77#64]
    let t := after (exec .key (receiving running m))
    (t.keys.slot 12 .p1).current = some 0 ∧ t.keys.pool[0].key = 0x77#64 ^^^ mix (5#64 ^^^ 0xC10#64 ^^^ m.word 1) := by decide

/-- A map entry creates FREE service 900 (R35). -/
theorem test_service_map :
    (after (exec .serviceMap (receiving running (groupMessage 0x21 [1#64, 900#64])))).slots.services.map (·.service) =
      [301#12, 44#12, 900#12] := by decide

/-- 06, a tag reused while a film is bought: 4411 is dropped. -/
theorem test_event_dropped :
    let m := groupMessage 0x22 [1#64, 4411#64, put 0 4 107200 ||| put 4 4 7200, put 0 2 301 ||| put 2 1 9]
    (after (exec .event (receiving (owning running [bought 4 .committed 1310 (some 57)]) m))).events.entries = [film] := by decide

/-- 06: with no event of that tag it joins the table, its duration of 0 taken as 60. -/
theorem test_event_joins :
    let m := groupMessage 0x22 [1#64, 4411#64, put 0 4 107200, put 0 2 301 ||| put 2 1 10]
    (after (exec .event (receiving running m))).events.entries.map (fun e => (e.id, e.duration)) =
      [(4410#32, 7200), (4411#32, 60)] := by decide

/-- 04, replacing the LOCKED slate: half 0 of load 5 restarts a staging of load 4; the in-use copy stays at load 4. -/
theorem test_slate_restarts :
    let s := { running with slates := { slates := running.slates.slates.set 0 ⟨some ⟨4#8, 0#960⟩, some ⟨4#8, some 1#480, some 2#480⟩⟩ } }
    let x := (after (exec .slate (receiving s (groupMessage 0x24 [put 0 1 1 ||| put 2 1 5])))).slates.slates[0]
    x.staging = some ⟨5#8, some 0#480, none⟩ ∧ x.inUse.map (·.load) = some 4#8 := by decide

/-- 06, the meter: the tick to 100420 takes the free look to 120. -/
theorem test_tick_free_look :
    let s := { running with events := { running.events with
      hotelTime := some 100419, entries := [{ film with used := 119, seen := true }] } }
    (after (exec .tick s)).events.entries = [{ film with used := 120 }] := by decide

/-- 06: the watched second that reaches 300 begins the commit. -/
theorem test_tick_commits :
    let s := { owning running [bought 4 .held 1310 none] with events := { running.events with entries := [{ film with seen := true }] } }
    (after (exec .tick s)).purchases.entries = [{ bought 4 .committing 1310 (some 58) with watched := 300 }] := by decide

/-- 06: at 107200 the film's end is owed, and its HELD purchase leaves with it (R99, R125). -/
theorem test_event_end :
    let s := { owning running [bought 4 .held 1310 none] with events := { running.events with hotelTime := some 107199 } }
    let t := after (exec .eventEnd (after (exec .tick s)))
    t.events.entries = [] ∧ t.purchases.entries = [] := by decide

/-- A grant at its expiry is removed (R78). -/
theorem test_grant_expiry :
    (after (exec .grantExpiry { running with
      lock := { running.lock with grants := [⟨.all, 5000⟩, ⟨.service 301#12, 5001⟩] }, owed := [.grantExpiry] })).lock.grants =
      [⟨.service 301#12, 5001⟩] := by decide

/-- A lockout at its expiry ends (R80). -/
theorem test_lockout_expiry :
    (after (exec .lockoutExpiry { pinned 3 (some 5000) with owed := [.lockoutExpiry] })).lock.lockout = none := by decide

/-- 08: at 120 seconds a record is DUE again, at 119 it is not. -/
theorem test_resend :
    (after (exec .resendDue { running with
      bills := { running.bills with log := [⟨commitRec 56 false, .offered 4880, true⟩, ⟨commitRec 57 false, .offered 4881, true⟩] }
      owed := [.resendDue] })).bills.log.map (·.offer) = [.due, .offered 4881] := by decide

/-- A rebuilt entry without an event leaves 28800 seconds after it was taken (R130). -/
theorem test_rebuilt_limit :
    let s := owning running [{ bought 1 .committed 1310 (some 57) with event := 1#32, taken := 71500, origin := .rebuilt }]
    (after (exec .rebuiltEntryLimit { s with owed := [.rebuiltEntryLimit] })).purchases.entries = [] := by decide

/-- 09, the checkout expiry: the room becomes VACANT and the titles list is emptied. -/
theorem test_checkout_expiry :
    let s := owning (inRoom running .checkout) [bought 4 .committed 1300 (some 57)]
    let t := after (exec .checkoutExpiry { s with
      msgs := { s.msgs with room := { s.msgs.room with checkout := some ⟨5000, false⟩ } }, owed := [.checkoutExpiry] })
    t.msgs.room.state = .vacant ∧ t.purchases.entries = [] := by decide

/-- 08: the verified COMMIT write of 58 makes the entry COMMITTED and the record DUE. -/
theorem test_commit_completes :
    let s := storing (owning running [bought 6 .committing 2000 (some 58)]) [queued (.commit 0 (some (commitRec 58 false)))]
    let t := after (exec (.storeWriteComplete .verified) s)
    t.purchases.entries.map (·.state) = [.committed] ∧ t.bills.log = [⟨commitRec 58 false, .due, false⟩] ∧
      t.msgs.room.spent = 14990 := by decide

/-- 08: a failed write makes the store FAULTED, and the COMMITTING entry leaves (R122, R134). -/
theorem test_store_fault :
    let s := storing (owning running [bought 6 .committing 2000 (some 58)]) [queued (.commit 0 (some (commitRec 58 false)))]
    let t := after (exec (.storeWriteComplete .failedFormer) s)
    t.store.state = .faulted ∧ t.purchases.entries = [] := by decide

/-- A held pair takes the place that was freed (R135). -/
theorem test_commit_pair :
    let s := { running with purchases := { running.purchases with heldPairs := [commitRec 60 false] }, owed := [.commitPairOffer] }
    (after (exec .commitPairOffer s)).store.queue.map (·.write) =
      [.room (some running.roomRecord), .commit 0 (some (commitRec 60 false))] := by decide

/-- The waiting line's front moves when the queue has room (R133). -/
theorem test_line_advances :
    let s := { running with store := { running.store with line := [.one (queued (.policy none))] } }
    (after (exec .storeWaitingLineAdvance s)).store.queue = [queued (.policy none)] := by decide

/-- A reset issues the three zero index writes and samples the straps (R7, R176). -/
theorem test_reset :
    let t := after (exec (.reset 1#4 0#128) running)
    t.path.anchorBase = 0x01000000 ∧ t.req.startUp = .scanning ∧
      t.path.own = [.index .requestConsume 0#16, .index .answerProduce 0#16, .index .billProduce 0#16] := by decide

/-- The scan of the worked start-up, place 20 failing. -/
def scanned : State := after (exec (.startUpScanComplete (.read (1#54 <<< 26))) recovered)

/-- 08, start-up with a recovered store: STORE_RECOVERED, the counter 66, 56 and 57 DUE, ROOM with reserve 74 and place 20 empty offered. -/
theorem test_scan :
    scanned.req.bringUp = some .storeRecovered ∧ scanned.bills.counter = some 66 ∧ scanned.bills.log.map (·.record.seq) = [56, 57] ∧
      scanned.store.queue.map (·.write) =
        [.room (some ⟨.occupied, false, 12, 20000, 3930, 7, none, 0, 74⟩), .commit 20 none] := by decide

/-- A failed ROOM place: behind the ROOM write of the record R145 gives, the empty write for it and for place 20 (R145; log 15). -/
theorem test_scan_failed_room :
    (after (exec (.startUpScanComplete (.read (1#54 <<< 26 ||| 4#54))) recovered)).store.queue.map (·.write) =
      [.room (some ⟨.unbound, false, 12, 0, 0, 7, none, 0, 66⟩), .room none, .commit 20 none] := by decide

/-- 08: after the ROOM write, the entries of 55, 56 and 57 are rebuilt with handles 1 to 3. -/
theorem test_rebuild :
    let t := after (exec (.storeWriteComplete .verified) scanned)
    t.req.startUp = .running ∧ t.purchases.entries.map (fun e => (e.handle, e.seq)) = [(1, some 55), (2, some 56), (3, some 57)] ∧
      t.req.notices = [.start .storeRecovered 0x123456#48 .occupied .good] := by decide

/-! ### The hypotheses of the statements are met -/

theorem meets_StepRunsTheFrontCommand : running.pending = [] ∧ exec .msideGrant running = .next running := ⟨rfl, rfl⟩

theorem meets_WellFormedCommandsComplete :
    Instr.msideGrant.wellFormed = true ∧ (Instr.streamSlotWrite (writeOf 1#4 0x1000#32 0)).wellFormed = false := by decide

/-- What an address in a window says of it. -/
theorem covered {w : Window} {a : Nat} (h : w.covers a = true) : w.base ≤ a ∧ a < w.base + 128 * w.slots := by
  simp only [Window.covers, Bool.and_eq_true, decide_eq_true_eq] at h
  simp only [Window.last] at h
  exact h

/-- An address outside a window. -/
theorem uncovered {w : Window} {a : Nat} (h : a < w.base ∨ w.base + 128 * w.slots ≤ a) : w.covers a = false := by
  cases hc : w.covers a with
  | false => rfl
  | true => have := covered hc; omega

/-- Windows whose bounds are in range, apart from one another and above the anchor page are sound. -/
theorem windows_of {p : PathUnit}
    (range : ∀ n : Fin 5, (p.ring n).all (fun w => decide (w.base % 128 = 0 ∧ w.base + 128 * w.slots ≤ 0x100000000 ∧
      (if n.val = 4 then 8 ≤ w.slots ∧ w.slots ≤ 256 else 16 ≤ w.slots ∧ w.slots ≤ 1024) ∧ p.anchorBase + 4096 ≤ w.base)) = true)
    (apart : ∀ m n : Fin 5, m = n ∨ (p.ring m).all (fun v => (p.ring n).all fun w =>
      decide (v.base + 128 * v.slots ≤ w.base ∨ w.base + 128 * w.slots ≤ v.base)) = true)
    (slots : p.streamSlots ≤ Config.maxStreamSlots) : p.WindowsSound := by
  have range' : ∀ n w, n ≤ 4 → p.ring n = some w → w.base % 128 = 0 ∧ w.base + 128 * w.slots ≤ 0x100000000 ∧
      (if n = 4 then 8 ≤ w.slots ∧ w.slots ≤ 256 else 16 ≤ w.slots ∧ w.slots ≤ 1024) ∧ p.anchorBase + 4096 ≤ w.base := fun n w hn hw => by
    have h := range ⟨n, by omega⟩
    simp only [hw, Option.all_some, decide_eq_true_eq] at h
    exact h
  constructor
  · intro n w hn hw
    have h := range' n w hn hw
    exact ⟨h.1, h.2.1, h.2.2.1⟩
  · intro m n v w hm hn hmn hv hw a ha
    have h := apart ⟨m, by omega⟩ ⟨n, by omega⟩
    simp only [Fin.mk.injEq, hmn, false_or, hv, hw, Option.all_some, decide_eq_true_eq] at h
    have := covered ha
    apply uncovered
    omega
  · intro n w a hn hw ha
    have h := range' n w hn hw
    have := ha.2
    apply uncovered
    omega
  · exact slots

theorem running_windows : running.path.WindowsSound := windows_of (by decide) (by decide) (by decide)

theorem running_capacity : running.WithinCapacity := by constructor <;> decide

/-- A key pool with nothing current and nothing retired is orderly. -/
theorem reset_keys_orderly (k : KeyPool) (h : k = KeyPool.reset) : k.Orderly := by
  subst h
  have none : ∀ ks p, (KeyPool.reset.slot ks p).current = none := by
    intro ks p; cases p <;> simp [KeyPool.reset, KeyPool.slot, KeySet.slot]
  constructor
  · decide
  · exact List.nodup_nil
  · intro ks p i hi; rw [none] at hi; cases hi
  · intro ks p ks' p' i hi _; rw [none] at hi; cases hi

/-- A pool whose entry 0 is current for key set 0 PHASE0, with a reference count. -/
def onePool (refs : Nat) : KeyPool :=
  { KeyPool.reset with sets := KeyPool.reset.sets.set 0 ⟨⟨some 0, none⟩, ⟨none, none⟩⟩, pool := KeyPool.reset.pool.set 0 ⟨9#64, .current, 0#16, refs⟩ }

theorem onePool_orderly (refs : Nat) : (onePool refs).Orderly := by
  have sets : ∀ ks p, ((onePool refs).slot ks p).current = if ks = 0 ∧ p = .p0 then some 0 else none := by
    intro ks p
    by_cases h : ks = 0
    · subst h; cases p <;> rfl
    · have : ¬0 = ks.val := fun e => h (Fin.ext e.symm)
      cases p <;> simp [onePool, KeyPool.reset, KeyPool.slot, KeySet.slot, this, h]
  have states : ∀ i : Fin 192, (onePool refs).pool[i].state = if i = 0 then .current else .free := by
    intro i
    by_cases h : i = 0
    · subst h; rfl
    · have : ¬0 = i.val := fun e => h (Fin.ext e.symm)
      simp [onePool, KeyPool.reset, this, h]
  have order : (onePool refs).retireOrder = [] := rfl
  constructor
  · intro i; rw [states, order]; split <;> simp
  · rw [order]; exact List.nodup_nil
  · intro ks p i hi
    rw [sets] at hi
    split at hi
    · cases hi; rw [states]; rfl
    · cases hi
  · intro ks p ks' p' i h h'
    rw [sets] at h h'
    split at h
    · next hk =>
      split at h'
      · next hk' => exact ⟨hk.1.trans hk'.1.symm, hk.2.trans hk'.2.symm⟩
      · cases h'
    · cases h

/-- The premises of MemoryStaysCanonical, CapacitiesAreKept, WindowsStaySound and RetireOrderStaysExact; a lockout ends 3840 seconds from
now. -/
theorem meets_the_invariants :
    let s := { requesting (pinned 9 (some 8840)) 99 [] with pending := [.unknownRequest], keys := KeyPool.reset }
    s.memOk ∧ s.WithinCapacity ∧ s.lockoutBounded ∧ s.path.WindowsSound ∧ s.tagsFit ∧ s.keys.Orderly ∧ ∃ t, step s = .next t :=
  ⟨show Memory.wf _ = true by decide, { running_capacity with }, by intro e h; cases h; decide, { running_windows with },
    by unfold State.tagsFit; decide, reset_keys_orderly _ rfl, _, rfl⟩

/-- Counts and stamps that hold of every tag and entry, one by one. -/
theorem counted_of {s : State} (counted : ∀ i : Fin 192, s.keys.pool[i].refs = s.slots.refsTo ⟨i, s.keys.pool[i].stamp⟩)
    (free : ∀ i : Fin 192, s.keys.pool[i].state = .free → s.keys.pool[i].refs = 0)
    (older : ∀ ring : Fin 4, ∀ o ∈ s.slots.tags[ring],
      (o.bind SlotTag.keyRef).all (fun r => decide (r.stamp.toNat ≤ s.keys.pool[r.entry].stamp.toNat)) = true) : s.ReferencesCounted :=
  ⟨counted, free, fun ring o r ho hr => by simpa [hr] using older ring o ho⟩

/-- A tag of slot 3 names the current entry of key set 0 with its stamp. -/
def referenced : State :=
  { running with
    pending := [.tick], keys := onePool 1
    slots := running.slots.setTag 0 3 (some ⟨301#12, .picture, .phase0, 1000#16, 9#8, false, some ⟨0, 0#16⟩⟩) }

theorem meets_RetireOrderStaysExact :
    referenced.keys.Orderly ∧ referenced.tagsFit ∧ referenced.ReferencesCounted ∧ ∃ t, step referenced = .next t :=
  ⟨onePool_orderly 1, by unfold State.tagsFit; decide, counted_of (by decide) (by decide) (by decide), _, rfl⟩

/-- A stay with an unacknowledged record in the log, a purchase COMMITTING under the next number, its record to come, and one HELD. -/
def busy : State :=
  let s := owning running [bought 6 .committing 990 (some 58), { bought 5 .held 500 none with event := 1#32 }]
  { storing s [queued (.commit 0 (some (commitRec 58 false)))] with
    bills := { counter := some 59, log := [⟨commitRec 57 false, .due, false⟩], highestOffered := none } }

theorem busy_handles : busy.HandlesSound where
  distinct := by unfold PurchaseUnit.handlesDistinct; decide
  next := by decide
  few := by decide
  starting := by decide
  serving := by intro h; cases h

theorem busy_bills : busy.BillsSound :=
  { busy_handles with
    rising := by decide
    below := fun r hr => ⟨59, rfl, (by decide : ∀ r ∈ busy.bills.log.map (·.record) ++ busy.recordsToCome, r.seq < 59) r hr⟩
    behind := by decide
    committing := by decide
    few32 := by decide }

theorem busy_stay : busy.StaySound := { busy_handles with binding := by decide, noStay := by decide, charged := by decide }

theorem meets_HotelTimeNeverDecreases :
    running.events.hotelTime = some 100300 ∧ (∀ straps performed, Instr.tick ≠ .reset straps performed) ∧
      ∃ t, exec .tick running = .next t := ⟨rfl, by simp, _, rfl⟩

theorem recovered_bills : recovered.BillsSound where
  distinct := by unfold PurchaseUnit.handlesDistinct; decide
  next := by decide
  few := by decide
  starting := by decide
  serving := by intro h; cases h
  rising := by decide
  below := fun r hr => absurd hr (by rw [show recovered.bills.log.map (·.record) ++ recovered.recordsToCome = [] from rfl]; exact List.not_mem_nil)
  behind := by decide
  committing := by decide
  few32 := by decide

theorem meets_CounterNeverDecreases :
    (running.bills.counter = some 58 ∧ (∀ straps performed, Instr.tick ≠ .reset straps performed) ∧
      (∀ scan, Instr.tick ≠ .startUpScanComplete scan) ∧ ∃ t, exec .tick running = .next t) ∧
    (busy.BillsSound ∧ ∃ t, exec (.storeWriteComplete .verified) busy = .next t) ∧
    (recovered.BillsSound ∧ recovered.store.places.RecordsSound ∧ ∃ t, exec (.startUpScanComplete (.read 0#54)) recovered = .next t) :=
  ⟨⟨rfl, by simp, by simp, _, rfl⟩, ⟨busy_bills, _, rfl⟩, recovered_bills, by constructor <;> decide, _, rfl⟩

theorem meets_RoomStateMovesAsTabled :
    let s := receiving (inRoom running .vacant) (roomMessage 0x10 701 [20000#64])
    (s.settled ∧ s.req.startUp = .running ∧ (∀ straps performed, Instr.checkIn ≠ .reset straps performed) ∧
      ∃ t, exec .checkIn s = .next t) ∧ (busy.StaySound ∧ ∃ t, exec .tick busy = .next t) :=
  ⟨⟨rfl, rfl, by simp, _, rfl⟩, busy_stay, _, rfl⟩

/-! Arrivals. -/

/-- `running` accepts a well-formed transaction. -/
theorem running_accepts {t : Txn} (h : t.ok = true) : running.accepts t := ⟨rfl, h, by decide⟩

/-- The last slot of ring 0 and the first word of a cell there. -/
def lastCell (h : Word) : WriteTxn := cellWrite 2#4 0x02000780#32 h

theorem lastCell_in_slot (h : Word) : running.inStreamSlot 0 15 0 (lastCell h).addr (lastCell h).words.length := by
  show ∀ j, j < 16 → running.path.locate (0x02000780 + 8 * j) = (.streamSlot 0 15, 0 + j)
  decide

/-- A burst over the last 8 words of slot 0 and the first 8 of slot 1. -/
theorem meets_burst_over_two_slots :
    running.accepts (.write (writeOf 2#4 0x02000040#32 16)) ∧ 8 < (writeOf 2#4 0x02000040#32 16).words.length ∧
    running.accepts (.read ⟨4#4, 0x02000040#32, 16⟩) ∧
    (running.path.locate (0x02000040 + 8 * 7)).1 ≠ (running.path.locate (0x02000040 + 8 * 8)).1 := by
  unfold State.accepts State.settled; decide

/-- Headers that send no phase report: damaged, not content, CLEAR, of an unknown service; and the writes that make a tag invalid or
leave it. -/
theorem meets_StreamWriteSetsOrClearsTheTag :
    (headerDamaged 0#64 = false ∧ headerDamaged 1#64 = true) ∧
    (headerDamaged (header 301 5 1 7 9) = false ∧ (headerKind (header 301 5 1 7 9)).isContent = false) ∧
    headerPhase (header 301 1 0 7 9) = .clear ∧ running.slots.service (headerService (header 900 1 1 12 2)) = none ∧
    running.path.streams[(0 : Fin 4)] = some ⟨0x02000000, 16, 2#4, 0xF0#16⟩ ∧
    running.accepts (.write (lastCell 1#64)) ∧ running.inStreamSlot 0 15 0 (lastCell 1#64).addr (lastCell 1#64).words.length ∧
    running.accepts (.write (writeOf 7#4 0x02000098#32 1)) ∧ running.inStreamSlot 0 1 3 0x02000098#32 1 ∧
    running.accepts (.write (writeOf 2#4 0x020000F8#32 1)) ∧ running.inStreamSlot 0 1 15 0x020000F8#32 1 ∧
    running.accepts (.write ⟨2#4, 0x02000000#32, [⟨1#64, 0x7F#8⟩]⟩) ∧ running.inStreamSlot 0 0 0 0x02000000#32 1 :=
  ⟨by decide, by decide, by decide, by decide, rfl, running_accepts (by decide), lastCell_in_slot _, running_accepts (by decide),
    by unfold State.inStreamSlot; decide, running_accepts (by decide), by unfold State.inStreamSlot; decide, running_accepts (by decide),
    by unfold State.inStreamSlot; decide⟩

theorem meets_PhaseReportTakesReference :
    let h := header 301 1 1 1000 7
    running.accepts (.write (lastCell h)) ∧ running.path.streams[(0 : Fin 4)] = some ⟨0x02000000, 16, 2#4, 0xF0#16⟩ ∧
    running.inStreamSlot 0 15 0 (lastCell h).addr (lastCell h).words.length ∧ 15 < running.slots.tags[(0 : Fin 4)].length ∧
    headerDamaged h = false ∧ (headerKind h).isContent = true ∧ (headerPhase h).phase? = some .p0 ∧
    running.slots.service (headerService h) = some ⟨301#12, .pay, 0, 12, 5, none, 0⟩ ∧ (running.keys.slot 12 .p0).current = some 17 ∧
    (running.keys.slot 12 .p1).current = none ∧ (running.keys.slot 12 .p1).staged = none ∧
    (let staged := { running with keys := { pool with sets := pool.sets.set 12 ⟨⟨some 17, none⟩, ⟨none, some 0x77#64⟩⟩ } }
     staged.accepts (.write (lastCell h)) ∧ (staged.keys.slot 12 .p1).staged = some 0x77#64 ∧ staged.keys.lowestFree ≠ none) :=
  ⟨running_accepts (by decide), rfl, lastCell_in_slot _, by decide, by decide, by decide, by decide, by decide, by decide, by decide,
    by decide, ⟨rfl, by decide, by decide⟩, rfl, by decide⟩

theorem meets_ContinuityFollowsTheCount :
    let e : ServiceEntry := ⟨301#12, .pay, 0, 12, 5, some 1002#16, 255⟩
    e.expected = some 1002#16 ∧ (1002#16 : BitVec 16) ≠ 1003#16 ∧ e.discontinuities ≤ 255 ∧
    running.accepts (.write (lastCell (header 301 1 1 1000 7))) ∧
    running.inStreamSlot 0 15 0 (lastCell (header 301 1 1 1000 7)).addr (lastCell (header 301 1 1 1000 7)).words.length :=
  ⟨rfl, by decide, by decide, running_accepts (by decide), lastCell_in_slot _⟩

/-- A pool whose 192 entries are all RETIRED. -/
def retiredPool : KeyPool :=
  { KeyPool.reset with pool := Vector.replicate 192 ⟨9#64, .retired, 0xFFFF#16, 1⟩, retireOrder := List.finRange 192 }

theorem retiredPool_orderly : retiredPool.Orderly := by
  have none : ∀ ks p, (retiredPool.slot ks p).current = none := by
    intro ks p; cases p <;> simp [retiredPool, KeyPool.reset, KeyPool.slot, KeySet.slot]
  constructor
  · intro i
    have h1 : i ∈ retiredPool.retireOrder := List.mem_finRange i
    have h2 : ∀ i : Fin 192, retiredPool.pool[i].state = .retired := by simp [retiredPool]
    exact ⟨fun _ => h2 i, fun _ => h1⟩
  · exact List.nodup_finRange 192
  · intro ks p i hi; rw [none] at hi; cases hi
  · intro ks p ks' p' i hi _; rw [none] at hi; cases hi

theorem meets_KeyInstallationTakesAnEntry :
    (onePool 0).Orderly ∧ (onePool 0).lowestFree = some 1 ∧ ((onePool 0).slot 0 .p0).current = some 0 ∧ (onePool 0).pool[0].refs = 0 ∧
    (onePool 1).Orderly ∧ (onePool 1).lowestFree.isSome = true ∧ ((onePool 1).slot 0 .p0).current = some 0 ∧ (onePool 1).pool[0].refs ≠ 0 ∧
    retiredPool.Orderly ∧ retiredPool.lowestFree = none ∧ retiredPool.retireOrder.head? = some 0 ∧
    retiredPool.pool[0].stamp = 65535#16 ∧ referenced.slots.tag 0 2 = none ∧
    (referenced.slots.tag 0 3).bind SlotTag.keyRef = some ⟨0, 0#16⟩ :=
  ⟨onePool_orderly 0, by decide, by decide, by decide, onePool_orderly 1, by decide, by decide, by decide, retiredPool_orderly,
    by decide, by decide, by decide, by decide, by decide⟩

/-! Reads. -/

/-- `running` with a PHASE0 cell of the film in slot 0 of ring 0 and a cell of the TIER service in slot 1. -/
def tuned : State :=
  after (exec (.streamSlotWrite (cellWrite 2#4 0x02000080#32 (header 44 1 0 7 0)))
    (after (exec (.streamSlotWrite (cellWrite 2#4 0x02000000#32 (header 301 1 1 1000 9))) running)))

/-- The tag of such a cell. -/
def filmTag : SlotTag := ⟨301#12, .picture, .phase0, 1000#16, 9#8, false, some ⟨17, 3#16⟩⟩

/-- The film's cell with its payload by a reader and by another initiator, its header word alone, the last word of an invalid slot, and the
TIER cell. -/
theorem meets_ReadIsJudgedOnArrival :
    tuned.path.streams[(0 : Fin 4)] = some ⟨0x02000000, 16, 2#4, 0xF0#16⟩ ∧ tuned.slots.tag 0 0 = some filmTag ∧
    (tuned.slots.service 301#12).map ServiceEntry.cls = some .pay ∧ tuned.events.byTag 301#12 9#8 = some film ∧
    (tuned.judge (some filmTag)).step = 10 ∧ (tuned.judge none).step = 1 ∧
    (0xF0#16).getLsbD 4 = true ∧ tuned.msgs.policy.readers.getLsbD 4 = true ∧ (0xF0#16).getLsbD 3 = false ∧
    (tuned.slots.tag 0 1).map (·.service) = some 44#12 ∧ (tuned.slots.service 44#12).map ServiceEntry.cls = some .tier ∧
    tuned.accepts (.read ⟨4#4, 0x02000008#32, 1⟩) ∧ tuned.inStreamSlot 0 0 1 0x02000008#32 1 ∧
    tuned.accepts (.read ⟨3#4, 0x02000000#32, 16⟩) ∧ tuned.inStreamSlot 0 0 0 0x02000000#32 16 ∧
    tuned.accepts (.read ⟨4#4, 0x02000000#32, 1⟩) ∧ tuned.inStreamSlot 0 0 0 0x02000000#32 1 ∧
    tuned.accepts (.read ⟨4#4, 0x020007F8#32, 1⟩) ∧ tuned.inStreamSlot 0 15 15 0x020007F8#32 1 ∧
    tuned.accepts (.read ⟨4#4, 0x02000080#32, 16⟩) ∧ tuned.inStreamSlot 0 1 0 0x02000080#32 16 := by
  unfold State.accepts State.settled State.inStreamSlot; decide

/-- One state or tag for each step. -/
theorem meets_VerdictFollowsTheSteps :
    unboundPart.msgs.room.state = .unbound ∧ ({ filmTag with damaged := true }).damaged = true ∧
    CellKind.stuffing.isContent = false ∧ filmTag.kind.isContent = true ∧ running.slots.service 900#12 = none ∧
    running.slots.service filmTag.service = some ⟨301#12, .pay, 0, 12, 5, none, 0⟩ ∧
    running.events.byTag filmTag.service filmTag.eventTag = some film ∧ film.rating ≤ running.limit filmTag.service ∧
    ({ running with lock := { running.lock with guestCeiling := 3 } }).limit filmTag.service < film.rating ∧
    running.entitlementSlate ⟨301#12, .pay, 0, 12, 5, none, 0⟩ (some film) = none ∧
    running.entitlementSlate ⟨301#12, .pay, 0, 12, 5, none, 0⟩ (some { film with used := 120 }) = some 3 ∧
    running.keys.pool[(17 : Fin 192)].stamp = 3#16 ∧ running.keys.pool[(17 : Fin 192)].stamp ≠ 2#16 ∧
    running.msgs.room.tiers.getLsbD 0 = true ∧ running.msgs.room.tiers.getLsbD 31 = false ∧
    running.msgs.policy.vacantTiers.getLsbD 0 = true ∧ (inRoom running .vacant).msgs.room.state = .vacant ∧
    (¬running.purchases.entries.any (·.event == film.id) ∧ film.used < running.msgs.policy.allowance) ∧
    (let granted (sc : Scope) : State := { running with lock := { running.lock with guestCeiling := 3, grants := [⟨sc, 6000⟩] } }
     (∃ g ∈ (granted .all).lock.grants, g.scope = .all) ∧ (∃ g ∈ (granted (.service 301#12)).lock.grants, g.scope = .service 301#12) ∧
       (∀ g ∈ (granted (.service 302#12)).lock.grants, g.scope ≠ .all ∧ g.scope ≠ .service 301#12) ∧
       (granted .all).limit 301#12 = 7 ∧ (granted (.service 302#12)).limit 301#12 = 3) := by decide

theorem meets_NoPayloadWithoutRight :
    let low := { running with lock := { running.lock with guestCeiling := 3 } }
    let lower := { running with msgs := { running.msgs with policy := { Policy.defaults with hotelCeiling := 3 } } }
    running.slots.service filmTag.service = some ⟨301#12, .pay, 0, 12, 5, none, 0⟩ ∧ filmTag.damaged = false ∧
    filmTag.kind.isContent = true ∧ low.events.byTag filmTag.service filmTag.eventTag = some film ∧
    lower.msgs.policy.hotelCeiling < film.rating ∧ min low.msgs.policy.hotelCeiling low.lock.guestCeiling < film.rating ∧
    (running.judge (some filmTag)).verdict = .descramble 0xABC#64 301#12 1000#16 ∧
    ((owning running [bought 1 .committed 1310 (some 57)]).judge (some filmTag)).verdict = .descramble 0xABC#64 301#12 1000#16 := by
  decide

/-- One portion of each verdict, none, two portions, and a portion between unjudged words. -/
theorem meets_ReadWordsReturned :
    let under (held : List HeldPortion) : State := { running with path := { running.path with
      underWay := some (.pSide (.read ⟨4#4, 0x02000000#32, 16⟩ held)) } }
    (under [⟨0, 0, 16, .pass⟩]).settled ∧ (under [⟨0, 0, 16, .descramble 0xABC#64 301#12 1004#16⟩]).settled ∧
    (under [⟨0, 0, 16, .slate 1#64 2#960⟩]).settled ∧ (under []).settled ∧
    (let two : List HeldPortion := [⟨0, 8, 8, .descramble 0xABC#64 301#12 1004#16⟩, ⟨8, 0, 8, .slate 1#64 2#960⟩]
     (under two).settled ∧ two.Pairwise fun h h' => h.start + h.count ≤ h'.start) ∧
    (let edge : List HeldPortion := [⟨4, 0, 8, .pass⟩]
     (under edge).settled ∧ (edge.Pairwise fun h h' => h.start + h.count ≤ h'.start) ∧ ∀ h ∈ edge, 3 < h.start ∨ h.start + h.count ≤ 12) := by
  unfold State.settled; decide

/-! Control cells, index words, passed transactions. -/

theorem meets_ControlCellTaken :
    let w := cellWrite 2#4 0x03000380#32 (header 0 5 0 0 0)
    let full := { running with msgs := { running.msgs with intake := List.replicate 8 ⟨[]⟩, dropped := 65535 } }
    running.accepts (.write w) ∧ running.path.control = some ⟨0x03000000, 8, 2#4, 0#16⟩ ∧
    running.inControlSlot 7 0 w.addr w.words.length ∧ running.msgs.watching = true ∧ w.words.length = 16 ∧
    (∀ y ∈ w.words, y.enables = 0xFF#8) ∧ headerDamaged (header 0 5 0 0 0) = false ∧ headerKind (header 0 5 0 0 0) = .control ∧
    running.msgs.intake.length < 8 ∧ full.accepts (.write w) ∧ full.inControlSlot 7 0 w.addr w.words.length ∧
    8 ≤ full.msgs.intake.length ∧ running.accepts (.write (writeOf 2#4 0x030003F8#32 1)) ∧
    running.inControlSlot 7 15 0x030003F8#32 1 := by
  unfold State.accepts State.settled State.inControlSlot; decide

/-- Each index word, an enable off, and a burst over all eight. -/
theorem meets_IndexWordsTakenOrIgnored :
    running.path.anchorBase = 0 ∧ running.accepts (.write ⟨1#4, 0xC00#32, [⟨16#64, 0xFF#8⟩]⟩) ∧
    running.accepts (.write ⟨1#4, 0xC08#32, [⟨1#64, 0xFF#8⟩]⟩) ∧ running.accepts (.write ⟨1#4, 0xC10#32, [⟨1#64, 0xFF#8⟩]⟩) ∧
    running.accepts (.write ⟨1#4, 0xC38#32, [⟨1#64, 0xFF#8⟩]⟩) ∧ running.accepts (.write ⟨1#4, 0xC00#32, [⟨1#64, 0x7F#8⟩]⟩) ∧
    running.accepts (.write (writeOf 1#4 0xC00#32 8)) := by
  unfold State.accepts State.settled; decide

theorem meets_PassedTransactionsTouchNothing :
    let full := { running with path := { running.path with pSide := List.replicate 8 (.write (writeOf 1#4 0#32 1)) } }
    running.accepts (.write (writeOf 1#4 0x02000800#32 16)) ∧ running.passedOver 0x02000800#32 16 ∧
    running.accepts (.write (writeOf 1#4 0xC40#32 1)) ∧ running.passedOver 0xC40#32 1 ∧
    running.accepts (.read ⟨4#4, 0x03000000#32, 16⟩) ∧
    (∀ j < 16, (running.path.locate (0x03000000 + 8 * j)).1 = .controlSlot 0) ∧
    running.accepts (.read ⟨3#4, 0x02000000#32, 16⟩) ∧ running.msgs.policy.readers.getLsbD 3 = false ∧
    full.settled ∧ Config.pSideCapacity ≤ full.path.pSide.length := by
  unfold State.accepts State.settled State.passedOver; decide

/-! The memory side. -/

/-- Nothing waits, one line waits, and both wait with the count at 3 and at 4. -/
theorem meets_GrantFollowsTheCount :
    let lines (p : List Carried) (o : List OwnTxn) (n : Nat) : State :=
      { running with path := { running.path with pSide := p, own := o, ownWait := n } }
    (lines [] [] 0).settled ∧ (lines [.read ⟨1#4, 0#32, 1⟩ []] [.index .answerProduce 1#16] 3).path.underWay = none ∧
    (lines [.read ⟨1#4, 0#32, 1⟩ []] [.index .answerProduce 1#16] 4).settled ∧
    (lines [] (List.replicate 16 (.fetch 0)) 0).path.own.length ≤ 16 ∧ (lines [] [] 0).path.toIssue = [] ∧
    (lines [] (List.replicate 15 (.fetch 0)) 0).path.own.length + [OwnTxn.fetch 0].length ≤ 16 ∧
    ((Granted.own (.index .answerProduce 1#16)).writes running.path.anchorBase).isSome = true ∧
    (∀ o ∈ [OwnTxn.index .answerProduce 1#16, .index .billProduce 1#16, .index .requestConsume 1#16, .fetch 0],
      (lines [] [o] 0).settled ∧ (lines [] [o] 0).path.own = o :: [] ∧ (lines [.read ⟨1#4, 0#32, 1⟩ []] [o] 4).path.own = o :: []) ∧
    State.reset.attention = false := by
  unfold State.settled; decide

theorem meets_GrantedWriteReachesMemory :
    let under (g : Granted) : State := { running with mem := [⟨8, 7#8⟩], path := { running.path with underWay := some g } }
    (under (.pSide (.write (writeOf 1#4 0xFFFFFFF8#32 1)))).settled ∧ (under (.own (.fetch 0))).memOk ∧
    (Granted.pSide (.write (writeOf 1#4 0xFFFFFFF8#32 1))).writes 0 = some (0xFFFFFFF8, [⟨1#64, 0xFF#8⟩]) ∧
    (Granted.own (.fetch 0)).writes 0 = none ∧ (Granted.pSide (.read ⟨1#4, 0#32, 1⟩ [])).writes 0 = none := by
  unfold State.settled State.memOk; decide

/-! Requests. -/

/-- A request can be taken; kinds 0, 18 and 65535 are no requests; the row of another kind does nothing. -/
theorem meets_RequestTakenAndRouted :
    let s := { running with req := { running.req with requestProduce := 16#16, answerProduce := 15#16 } }
    s.settled ∧ s.req.startUp = .running ∧ s.req.service = .idle ∧ s.req.requestProduce ≠ s.req.requestConsume ∧
    (s.req.answerProduce - s.req.answerConsume).toNat < 16 ∧ s.req.notices = [] ∧ s.path.toIssue = [] ∧ s.path.own.length < 16 ∧
    (requesting running 18 []).fetched = some (record 18 []) ∧ requestRow 0 = none ∧ requestRow 18 = none ∧
    requestRow 65535 = none ∧ (requestRow 1).isSome = true ∧ (requestRow 17).isSome = true ∧
    (requesting running 1 []).fetched = some (record 1 []) ∧ (record 1 []).kind.toNat ≠ 2 := by
  unfold State.settled; decide

/-- A window meets neither the anchor page nor a window that is attached, when its bounds say so. -/
theorem apart_of {p : PathUnit} {w : Window} (anchor : p.anchorBase + 4096 ≤ w.base)
    (rings : ∀ n : Fin 5, (p.ring n).all (fun v => decide (v.base + 128 * v.slots ≤ w.base ∨ w.base + 128 * w.slots ≤ v.base)) = true) :
    ¬∃ a, w.covers a = true ∧ (p.inAnchor a ∨ ∃ n v, n ≤ 4 ∧ p.ring n = some v ∧ v.covers a = true) := by
  rintro ⟨a, ha, hb | ⟨n, v, hn, hv, hc⟩⟩
  · have := covered ha; have := hb.2; omega
  · have h := rings ⟨n, by omega⟩
    simp only [hv, Option.all_some, decide_eq_true_eq] at h
    have := covered ha; have := covered hc; omega

/-- Two rings of 1024 slots are attached. -/
def wide : State := { running with path := { running.path with
  streams := (running.path.streams.set 0 (some ⟨0x02000000, 1024, 2#4, 0xF0#16⟩)).set 1 (some ⟨0x02020000, 1024, 2#4, 0xF0#16⟩) } }

/-- Bad arguments at their bounds; a ring that is attached; a window in the anchor page, past the address space and over another; no slots left;
the last window of the address space, the largest ring, and the control ring. -/
theorem meets_AttachRingServed :
    (∀ args ∈ ([[5#64, 0x05000000#64, 16#64], [1#64, 0x05000040#64, 16#64], [1#64, 0x100000000#64, 16#64], [1#64, 0x05000000#64, 15#64],
        [1#64, 0x05000000#64, 1025#64], [1#64, 0x05000000#64, 16#64, 16#64], [1#64, 0x05000000#64, 16#64, 15#64, 0x10000#64],
        [4#64, 0x05000000#64, 7#64], [4#64, 0x05000000#64, 257#64], [0#64, 0x05000000#64, 16#64], [1#64, 0xF80#64, 16#64],
        [1#64, 0xFFFFF880#64, 16#64], [1#64, 0x02000780#64, 16#64], [1#64, 0xFFFFF800#64, 16#64, 15#64, 0xFFFF#64],
        [3#64, 0x05000000#64, 1024#64]] : List (List Word)),
      (requesting running 1 args).serving 1 (record 1 args)) ∧
    running.path.WindowsSound ∧ (running.path.ring 0).isSome = true ∧ running.path.ring 1 = none ∧
    (⟨0xF80, 16, 0#4, 0#16⟩ : Window).covers 0xF80 = true ∧ running.path.inAnchor 0xF80 ∧
    (¬∃ a, (⟨0xFFFFF800, 16, 15#4, 0xFFFF#16⟩ : Window).covers a = true ∧ (running.path.inAnchor a ∨
      ∃ n v, n ≤ 4 ∧ running.path.ring n = some v ∧ v.covers a = true)) ∧
    (requesting wide 1 [2#64, 0x05000000#64, 16#64]).serving 1 (record 1 [2#64, 0x05000000#64, 16#64]) ∧
    wide.path.WindowsSound ∧ 2048 < wide.path.streamSlots + 16 ∧
    (requesting { running with path := { running.path with control := none } } 1 [4#64, 0x05000000#64, 8#64]).serving 1
      (record 1 [4#64, 0x05000000#64, 8#64]) := by
  refine ⟨?_, running_windows, by decide, by decide, by decide, ?_, apart_of (by decide) (by decide), ?_, ?_, by decide, ?_⟩
  · unfold State.serving State.settled; decide
  · unfold PathUnit.inAnchor; decide
  · unfold State.serving State.settled; decide
  · exact windows_of (by decide) (by decide) (by decide)
  · unfold State.serving State.settled; decide

theorem meets_DetachRingServed :
    (∀ args ∈ ([[5#64], [3#64], [0#64], [4#64]] : List (List Word)), (requesting running 2 args).serving 2 (record 2 args)) ∧
    running.path.ring 3 = none ∧ running.path.streams[(0 : Fin 4)] = some ⟨0x02000000, 16, 2#4, 0xF0#16⟩ ∧
    running.path.control = some ⟨0x03000000, 8, 2#4, 0#16⟩ ∧ (onePool 2).pool[0].stamp = 0#16 ∧ 1 < (onePool 2).pool[0].refs ∧
    retiredPool.pool[191].state = .retired ∧ retiredPool.pool[191].refs = 1 ∧ retiredPool.pool[191].stamp = 0xFFFF#16 := by
  unfold State.serving State.settled; decide

theorem meets_ServiceAndKeyInfoServed :
    (∀ args ∈ ([[4096#64], [65534#64], [301#64, 2#64], [65535#64], [4095#64], [301#64, 1#64]] : List (List Word)),
      (requesting running 3 args).serving 3 (record 3 args)) ∧
    running.slots.service 4095#12 = none ∧ running.slots.service 301#12 = some ⟨301#12, .pay, 0, 12, 5, none, 0⟩ ∧
    (∀ args ∈ ([[64#64], [65534#64], [0#64, 2#64], [63#64], [65535#64, 1#64]] : List (List Word)),
      (requesting running 4 args).serving 4 (record 4 args)) := by
  unfold State.serving State.settled; decide

theorem meets_SlateInfoServed :
    (requesting running 5 []).serving 5 (record 5 []) ∧ (requesting running 5 []).slates = State.reset.slates := by
  unfold State.serving State.settled; decide

/-- PINs of 3 and 9 digits and of a digit 10 are none. Each later clause: out of a stay, the first PIN, a lockout, the right old PIN, a wrong
one, and none given. -/
theorem meets_SetPinServed :
    parsePin 0x32103#64 = none ∧ parsePin 0x09#64 = none ∧ parsePin 0xA32104#64 = none ∧
    parsePin pin1234 = some [1#4, 2#4, 3#4, 4#4] ∧ parsePin oldPin1234 = some [1#4, 2#4, 3#4, 4#4] ∧ oldPin1234.getLsbD 56 = true ∧
    (requesting running 6 [0x32103#64]).serving 6 (record 6 [0x32103#64]) ∧
    (requesting (inRoom running .vacant) 6 [pin1234]).serving 6 (record 6 [pin1234]) ∧
    (requesting running 6 [pin1234]).serving 6 (record 6 [pin1234]) ∧ running.msgs.room.state = .occupied ∧ running.lock.pin = none ∧
    (∀ s ∈ [pinned 3 (some 5060), pinned 2 none, pinned 255 none], ∀ args ∈ [[pin1234, oldPin1234], [pin1234, pin9999]],
      (requesting s 6 args).serving 6 (record 6 args) ∧ s.lock.pin = some [1#4, 2#4, 3#4, 4#4]) := by
  unfold State.serving State.settled; decide

theorem meets_SetGuestCeilingServed :
    (∀ s ∈ [running, pinned 3 (some 5060), pinned 2 none], ∀ args ∈ [[pin1234, 8#64], [pin1234, 7#64], [pin1234, 0#64], [pin9999, 7#64]],
      (requesting s 7 args).serving 7 (record 7 args) ∧ s.lock.guestCeiling = 7) ∧
    parsePin pin9999 = some [9#4, 9#4, 9#4, 9#4] := by
  unfold State.serving State.settled; decide

theorem meets_UnlockServed :
    (∀ s ∈ [running, inRoom running .vacant, inRoom running .checkout, pinned 3 (some 5060), pinned 0 none, pinned 2 none],
      ∀ args ∈ [[pin1234, 4096#64], [pin1234, 65534#64], [pin1234, 4095#64, 14401#64], [pin1234, 65535#64, 59#64], [pin9999, 0#64]],
      (requesting s 8 args).serving 8 (record 8 args)) ∧
    (pinned 0 none).lock.failures = 0 ∧ (pinned 2 none).lock.failures ≠ 0 := by
  unfold State.serving State.settled; decide

theorem meets_GrantAddedAtTheEnd :
    let g : Grant := ⟨.all, 6000⟩
    let four : List Grant := [⟨.service 1#12, 5500⟩, ⟨.service 2#12, 5100⟩, ⟨.service 3#12, 5100⟩, ⟨.service 4#12, 5200⟩]
    (∃ h ∈ [g], h.scope = g.scope) ∧ (∀ h ∈ four, h.scope ≠ g.scope) ∧ four.length = 4 ∧ (four.drop 1).length < 4 ∧
    (requesting (pinned 0 none) 8 [pin1234, 4095#64]).serving 8 (record 8 [pin1234, 4095#64]) ∧
    (requesting (pinned 0 none) 8 [pin1234, 65535#64]).serving 8 (record 8 [pin1234, 65535#64]) ∧
    (pinned 0 none).lock.pin = parsePin pin1234 ∧ (pinned 0 none).msgs.room.state = .occupied ∧ (pinned 0 none).lock.lockout = none := by
  unfold State.serving State.settled; decide

theorem meets_LockNowAndLockInfoServed :
    (requesting running 9 []).serving 9 (record 9 []) ∧ (requesting running 10 []).serving 10 (record 10 []) := by
  unfold State.serving State.settled; decide

/-- The last second of the film is 107199. -/
def atTime (s : State) (h : Nat) : State := { s with events := { s.events with hotelTime := some h } }

theorem meets_ReadEventServed :
    (∀ args ∈ ([[0x100000000#64], [4410#64, 2#64], [4411#64], [4411#64, 1#64], [4410#64], [4410#64, 1#64], [0#64, 1#64]] : List (List Word)),
      (requesting running 11 args).serving 11 (record 11 args)) ∧
    running.events.entries = [film] ∧ running.events.hotelTime = some 100300 ∧ film.start + film.duration - 100300 < 4294967296 ∧
    ({ running with events := { running.events with hotelTime := none } }).settled := by
  unfold State.serving State.settled; decide

/-- The part at each turn of QUOTE and PURCHASE: no time, another event, not for sale, over, locked, and the film's last second. -/
def turns : List State :=
  [{ running with events := { running.events with hotelTime := none } }, { running with events := { running.events with entries := [] } },
   { running with events := { running.events with entries := [{ film with purchasable := false }] } }, atTime running 107200,
   { running with lock := { running.lock with guestCeiling := 3 } }, atTime running 107199]

theorem meets_QuoteServed :
    (requesting running 12 [0x100000000#64]).serving 12 (record 12 [0x100000000#64]) ∧
    (requesting unboundPart 12 [4410#64]).serving 12 (record 12 [4410#64]) ∧
    (∀ s ∈ turns, (requesting s 12 [4410#64]).serving 12 (record 12 [4410#64])) ∧
    (atTime running 107199).events.byId 4410#32 = some film ∧ 107199 - film.start < film.duration ∧ film.duration ≤ 107200 - film.start := by
  unfold State.serving State.settled; decide

/-- Eight purchases of other events. -/
def eight : List PurchaseEntry := (List.range 8).map fun i => { bought (i + 1) .committed 0 none with event := BitVec.ofNat 32 i }

theorem meets_PurchaseServed :
    let capped := { running with msgs := { running.msgs with room := { running.msgs.room with cap := 12990 } } }
    let faulted := { running with store := { running.store with state := .faulted } }
    let billed := { running with bills := { running.bills with log := List.replicate 32 ⟨commitRec 57 false, .due, false⟩ } }
    (requesting running 13 [0x100000000#64]).serving 13 (record 13 [0x100000000#64]) ∧
    (∀ s ∈ turns ++ [inRoom running .checkout, owning running [bought 1 .held 0 none], owning running eight, faulted, billed, capped],
      (requesting s 13 [4410#64]).serving 13 (record 13 [4410#64])) ∧
    (owning running eight).purchases.byEvent 4410#32 = none ∧ 8 ≤ eight.length ∧
    running.limit 301#12 = 7 ∧ (chargeOf running.msgs.policy [] film 300).c = 1500 ∧ capped.msgs.room.cap < 12990 + 0 + 1500 ∧
    12990 + 0 + 1500 ≤ running.msgs.room.cap ∧
    1 ≤ running.purchases.nextHandle ∧ running.purchases.nextHandle ≤ 255 ∧ running.handleInUse 255 = false := by
  unfold State.serving State.settled; decide

/-- Charges in the grace period and after it, of a title in the list, and lowered to the maximum. -/
theorem meets_ChargeWithinBounds :
    0 < chargePolicy.step ∧ chargePolicy.grace < 1500 ∧ 400 ≤ chargePolicy.grace ∧ film.title ∉ ([] : List (BitVec 32)) ∧
    (chargeOf chargePolicy [] film 1500).lowered = false ∧ (chargeOf { chargePolicy with maximum := 1000 } [] film 1500).lowered = true ∧
    film.title ∈ [70#32] := by decide

theorem meets_CancelServed :
    let s := owning running [bought 5 .held 990 none, bought 6 .committed 990 (some 57)]
    (∀ args ∈ ([[0#64], [256#64], [255#64], [5#64], [6#64]] : List (List Word)), (requesting s 14 args).serving 14 (record 14 args)) ∧
    s.purchases.byHandle 255 = none ∧ s.purchases.byHandle 5 = some (bought 5 .held 990 none) ∧
    s.purchases.byHandle 6 = some (bought 6 .committed 990 (some 57)) ∧ s.purchases.handlesDistinct := by
  unfold State.serving State.settled PurchaseUnit.handlesDistinct; decide

theorem meets_ReportsServed :
    let s := owning running [bought 5 .held 990 none, bought 255 .committed 990 (some 57)]
    (∀ args ∈ ([[256#64], [0#64], [254#64], [255#64]] : List (List Word)), (requesting s 15 args).serving 15 (record 15 args)) ∧
    s.purchases.byHandle 254 = none ∧ s.purchases.entries[1]? = some (bought 255 .committed 990 (some 57)) ∧
    s.purchases.handlesDistinct ∧ (requesting s 16 []).serving 16 (record 16 []) ∧ (requesting s 17 []).serving 17 (record 17 []) ∧
    s.req.bringUp = some .good ∧
    (let lost := { s with req := { s.req with bringUp := some .storeFault } }
     (requesting lost 16 []).serving 16 (record 16 []) ∧ lost.req.bringUp = some .storeFault) := by
  unfold State.serving State.settled PurchaseUnit.handlesDistinct; decide

/-! Records. -/

theorem meets_RecordsWritten :
    let answering (h : Option Nat) : State := { running with req := { running.req with service := .answering ⟨12#16, 33#16, .ok, []⟩ h } }
    let blocked (s : State) : State := { s with path := { s.path with toIssue := [.fetch 0] } }
    let noticing := { running with req := { running.req with notices := [.room], answerProduce := 0xFFFF#16, answerConsume := 0xFFF0#16 } }
    let full := { noticing with req := { noticing.req with answerConsume := 0xFFEF#16 } }
    let billing := { running with bills := { running.bills with log := [⟨commitRec 57 false, .due, false⟩] } }
    (answering none).settled ∧ (answering none).path.canIssue = true ∧ (answering (some 1)).settled ∧
    (blocked (answering none)).path.canIssue = false ∧
    noticing.settled ∧ (noticing.req.answerProduce - noticing.req.answerConsume).toNat < 16 ∧ noticing.path.canIssue = true ∧
    full.settled ∧ ¬(full.req.answerProduce - full.req.answerConsume).toNat < 16 ∧
    billing.settled ∧ billing.msgs.room.binding.isSome = true ∧
    billing.bills.log.find? (fun l => l.offer = .due) = some ⟨commitRec 57 false, .due, false⟩ ∧
    (∀ n ∈ billing.req.notices, n.isStart = false) ∧
    ({ billing with req := { billing.req with notices := [.start .good 0x123456#48 .occupied .good] } }).settled ∧
    (inRoom billing .unbound).settled ∧
    running.req.service = .idle ∧ running.req.notices = [] ∧ (∀ l ∈ running.bills.log, l.offer ≠ .due) ∧
    (∀ n ∈ [Notice.start .good 0x123456#48 .occupied .good, .purchase 4 4410#32 .committing .commitBegun 1300 (some 58)],
      ({ running with req := { running.req with notices := [n] } }).settled) := by
  unfold State.settled; decide

/-! Head-end messages. -/

/-- A message that passes its checks heads the intake queue. -/
theorem heading_of {s : State} {m : Message} {k : MsgKind} (owed : s.owed = []) (line : s.store.line = [])
    (fresh : s.msgs.headApplied = false) (passes : s.msgs.check m = some k) : (receiving s m).heading k m :=
  ⟨owed, by simp [MessageUnit.headMessage, receiving, fresh], passes, by simp [receiving, line]⟩

/-- A message of each address kind passes; an old serial does not. -/
theorem meets_HeadChecksDecide :
    running.msgs.check (deviceMessage 0x01 11 [214#64]) = some .bind ∧ running.msgs.check (deviceMessage 0x01 10 [214#64]) = none ∧
    running.msgs.check (roomMessage 0x12 701 [1#64]) = some .setCap ∧ running.msgs.check (groupMessage 0x23 [1#64]) = some .time ∧
    ({ running.msgs with serials := ⟨10, 4294967295⟩ }).check (roomMessage 0x19 4294967295 []) = some .unbind := by decide

/-- A head message that passes, the room state of each kind that is not applied, and a head that has been applied. -/
theorem meets_HeadMessageDealtWith :
    (running.settled ∧ running.msgs.headMessage = none) ∧
    (receiving running (roomMessage 0x12 700 [1#64])).msgs.headMessage = some (roomMessage 0x12 700 [1#64]) ∧
    running.msgs.check (roomMessage 0x12 700 [1#64]) = none ∧
    (receiving running (roomMessage 0x10 701 [])).heading .checkIn (roomMessage 0x10 701 []) ∧
    (receiving running (roomMessage 0x19 701 [])).heading .unbind (roomMessage 0x19 701 []) ∧
    (receiving (inRoom running .checkout) (roomMessage 0x11 701 [])).heading .checkOut (roomMessage 0x11 701 []) ∧
    (receiving (inRoom running .vacant) (roomMessage 0x12 701 [])).heading .setCap (roomMessage 0x12 701 []) ∧
    (receiving (inRoom running .unbound) (roomMessage 0x13 701 [])).heading .entitle (roomMessage 0x13 701 []) ∧
    (receiving running (deviceMessage 0x01 11 [])).heading .bind (deviceMessage 0x01 11 []) ∧ running.msgs.room.state = .occupied ∧
    (∃ x ∈ [LineItem.one ⟨.policy none, false, false, true⟩], ∃ q ∈ x.writes, q.heads = true) :=
  ⟨⟨rfl, rfl⟩, rfl, by decide, heading_of rfl rfl rfl (by decide), heading_of rfl rfl rfl (by decide), heading_of rfl rfl rfl (by decide), heading_of rfl rfl rfl (by decide), heading_of rfl rfl rfl (by decide), heading_of rfl rfl rfl (by decide), rfl, by decide⟩

/-- Counts at and above their bounds, and entries for each clause. -/
theorem meets_BroadcastsApplied :
    (∀ n, n = 4#64 ∨ n = 5#64 → (receiving running (groupMessage 0x20 [n])).heading .key (groupMessage 0x20 [n])) ∧
    running.msgs.room.binding.isSome = true ∧
    (∀ n, n = 8#64 ∨ n = 9#64 → (receiving running (groupMessage 0x21 [n])).heading .serviceMap (groupMessage 0x21 [n])) ∧
    (receiving running (groupMessage 0x23 [1#64])).heading .time (groupMessage 0x23 [1#64]) ∧
    ((running.keys.slot 63 .p1).current = none ∧ (running.keys.slot 12 .p0).current = some 17 ∧
      running.keys.pool[(17 : Fin 192)].key = 0xABC#64) ∧
    (bytesAt 0x40#64 0 1 = 64 ∧ bytesAt 0x023F#64 0 1 = 63 ∧ bytesAt 0x023F#64 1 1 = 2 ∧ bytesAt 0x013F#64 1 1 = 1) ∧
    (put 2 1 1).getLsbD 16 = true ∧ 4095 < bytesAt (put 0 2 4096) 0 2 ∧ (put 0 2 4096).getLsbD 16 = false ∧
    mapEntryOf (put 0 2 4095 ||| put 3 1 2 ||| put 4 1 31 ||| put 5 1 63 ||| put 6 1 7) = some ⟨4095#12, .pay, 31, 63, 7, none, 0⟩ ∧
    running.slots.service 4095#12 = none ∧ running.slots.services.length < 128 ∧ (running.slots.service 301#12).isSome = true ∧
    ({ running.slots with services := List.replicate 128 ⟨1#12, .free, 0, 0, 0, none, 0⟩ }).service 4095#12 = none := by
  refine ⟨?_, by decide, ?_, heading_of rfl rfl rfl (by decide), by decide, by decide, by decide, by decide, by decide, by decide, by decide, by decide, by decide, by decide⟩
  · rintro n (rfl | rfl) <;> exact heading_of rfl rfl rfl (by decide)
  · rintro n (rfl | rfl) <;> exact heading_of rfl rfl rfl (by decide)

theorem meets_SlateApplied (w : Word)
    (h : w = put 0 1 0 ∨ w = put 0 1 8 ∨ w = (put 0 1 7 ||| put 1 1 2) ∨ w = (put 0 1 7 ||| put 1 1 1 ||| put 2 1 5)) :
    (receiving running (groupMessage 0x24 [w])).heading .slate (groupMessage 0x24 [w]) := by
  obtain rfl | rfl | rfl | rfl := h <;> exact heading_of rfl rfl rfl (by decide)

theorem meets_EventApplied :
    (receiving running (groupMessage 0x22 [2#64])).heading .event (groupMessage 0x22 [2#64]) ∧
    (receiving running (groupMessage 0x22 [3#64])).heading .event (groupMessage 0x22 [3#64]) ∧
    (let m : Message := ⟨[0#64, 0xD00#64, 2#64, 0#64, 0#64, put 0 2 4096, 0#64, 0#64, put 0 2 4095 ||| put 3 1 7 ||| put 6 1 1 ||| put 7 1 1]⟩
     4095 < bytesAt (m.body 3) 0 2 ∧ bytesAt (m.body 6) 0 2 = 4095 ∧ bytesAt (m.body 6) 3 1 = 7 ∧ bytesAt (m.body 6) 6 1 = 1 ∧
     bytesAt (m.body 6) 7 1 = 1) :=
  ⟨heading_of rfl rfl rfl (by decide), heading_of rfl rfl rfl (by decide), by decide⟩

/-- 48 entries of other service numbers. -/
def fortyEight (used : Nat) : List EventEntry :=
  (List.range 48).map fun i => { film with id := BitVec.ofNat 32 i, tag := 1#8, start := 200000 + i, used := used }

/-- The part with an event table. -/
def showing (l : List EventEntry) : State := { running with events := { running.events with entries := l } }

/-- The announced event of each clause: known; known, the tag another's, unprotected, protected and over or not; over; its tag another's in the
same three ways; a table with room, one all protected, and one not. -/
theorem meets_AnnouncementsDisposed :
    let a : EventEntry := { film with id := 4411#32 }
    let used : EventEntry := { film with used := 1 }
    let past : EventEntry := { used with start := 0 }
    (showing [film]).events.byId film.id = some film ∧ (showing [film]).events.otherByTag film.id 301#12 9#8 = none ∧
    (∀ o ∈ [film, used, past], (showing [{ a with tag := 1#8 }, o]).events.byId a.id = some { a with tag := 1#8 } ∧
      (showing [{ a with tag := 1#8 }, o]).events.otherByTag a.id 301#12 9#8 = some o) ∧
    film.used = 0 ∧ 0 < past.used ∧ past.start + past.duration ≤ 100300 ∧ 100300 < used.start + used.duration ∧
    running.events.hotelTime = some 100300 ∧ running.purchases.entries = [] ∧
    (∀ o ∈ [film, used, past], (showing [o]).events.byId a.id = none ∧ (showing [o]).events.byTag 301#12 9#8 = some o) ∧
    (∀ u ∈ [0, 1], (showing (fortyEight u)).events.byId a.id = none ∧ (showing (fortyEight u)).events.byTag 301#12 9#8 = none ∧
      48 ≤ (fortyEight u).length) ∧
    (∀ e ∈ fortyEight 1, 0 < e.used) ∧ (∃ e ∈ fortyEight 0, e.used = 0) ∧ ((fortyEight 0).drop 1).length < 48 := by decide

theorem meets_BindingMessagesApplied :
    (receiving unboundPart (deviceMessage 0x01 11 [214#64])).heading .bind (deviceMessage 0x01 11 [214#64]) ∧
    unboundPart.msgs.identity.isSome = true ∧ unboundPart.msgs.room.state = .unbound ∧
    (receiving (inRoom running .vacant) (roomMessage 0x19 701 [])).heading .unbind (roomMessage 0x19 701 []) ∧
    (inRoom running .vacant).bills.log = [] ∧ running.msgs.room.binding.isSome = true ∧
    (receiving running (roomMessage 0x18 701 [1#64, 2#64])).heading .hotelKey (roomMessage 0x18 701 [1#64, 2#64]) :=
  ⟨heading_of rfl rfl rfl (by decide), rfl, rfl, heading_of rfl rfl rfl (by decide), rfl, rfl, heading_of rfl rfl rfl (by decide)⟩

theorem meets_CheckInAndOutApplied :
    let s := owning running [bought 5 .committing 990 (some 57), { bought 6 .held 990 none with event := 1#32 }]
    let m := roomMessage 0x10 701 [put 0 4 10000001 ||| put 4 1 8]
    (receiving (inRoom running .vacant) m).heading .checkIn m ∧
    (receiving s (roomMessage 0x11 701 [])).heading .checkOut (roomMessage 0x11 701 []) ∧ s.msgs.room.state = .occupied ∧
    s.purchases.handlesDistinct ∧ (∃ e ∈ s.purchases.entries, e.state = .committing) ∧
    (receiving running (roomMessage 0x11 701 [])).heading .checkOut (roomMessage 0x11 701 []) ∧ running.purchases.handlesDistinct ∧
    (∀ e ∈ running.purchases.entries, e.state ≠ .committing) ∧ (∀ l ∈ running.bills.log, l.record.stay ≠ running.msgs.room.stay) :=
  ⟨heading_of rfl rfl rfl (by decide), heading_of rfl rfl rfl (by decide), rfl, by unfold PurchaseUnit.handlesDistinct; decide, by decide,
    heading_of rfl rfl rfl (by decide), by unfold PurchaseUnit.handlesDistinct; decide, by decide, by decide⟩

theorem meets_StayMessagesApplied :
    (∀ s, s = running ∨ s = inRoom running .checkout → (receiving s (roomMessage 0x12 701 [0#64])).heading .setCap (roomMessage 0x12 701 [0#64])) ∧
    (∀ s, s = running ∨ s = { running with msgs := { running.msgs with room := { running.msgs.room with suspended := true } } } →
      (receiving s (roomMessage 0x13 701 [])).heading .entitle (roomMessage 0x13 701 []) ∧
      (receiving s (roomMessage 0x16 701 [])).heading .suspend (roomMessage 0x16 701 []) ∧
      (receiving s (roomMessage 0x17 701 [])).heading .resume (roomMessage 0x17 701 []) ∧
      (receiving s (roomMessage 0x1A 701 [])).heading .clearPin (roomMessage 0x1A 701 []) ∧ s.msgs.room.state = .occupied) := by
  constructor
  · rintro s (rfl | rfl) <;> exact heading_of rfl rfl rfl (by decide)
  · rintro s (rfl | rfl) <;> exact ⟨heading_of rfl rfl rfl (by decide), heading_of rfl rfl rfl (by decide), heading_of rfl rfl rfl (by decide), heading_of rfl rfl rfl (by decide), rfl⟩

theorem meets_PolicyAndBillAckApplied :
    let s := owning running [bought 5 .held 990 none]
    let m := roomMessage 0x14 701 [put 2 2 300]
    (receiving s m).heading .policy m ∧ s.msgs.room.state = .occupied ∧ (bought 5 .held 990 none).watched < m.policy.threshold ∧
    (∀ n, n = 57#64 ∨ n = 58#64 → (receiving { running with bills := { running.bills with highestOffered := some 57 } }
      (roomMessage 0x15 701 [n])).heading .billAck (roomMessage 0x15 701 [n])) ∧
    (receiving (inRoom running .checkout) (roomMessage 0x15 701 [57#64])).heading .billAck (roomMessage 0x15 701 [57#64]) ∧
    (inRoom running .checkout).drains ∧ ¬running.drains := by
  refine ⟨heading_of rfl rfl rfl (by decide), rfl, by decide, ?_, heading_of rfl rfl rfl (by decide), by unfold State.drains; decide,
    by unfold State.drains; decide⟩
  rintro n (rfl | rfl) <;> exact heading_of rfl rfl rfl (by decide)

/-! The parts of a tick. -/

/-- A tick at the last second of uptime and of hotel time with no event, and with an event that has not ended; a mark that is clear, of an
unbought event, and of one whose purchase is in each state, below the threshold and at it. -/
theorem meets_TickAdvancesAndFolds :
    let last := { showing [] with events := { (showing []).events with uptime := 4294967295, hotelTime := some 4294967295 } }
    let seen := { film with seen := true }
    let paid (st : PurchaseState) (w : Nat) : State := owning (showing [seen]) [{ bought 5 st 990 none with watched := w }]
    State.reset.settled ∧ State.reset.events.timerRunning = false ∧ last.settled ∧ last.events.timerRunning = true ∧
    (∀ e ∈ (after (exec .tick running)).events.entries, (after (exec .tick running)).events.hasEnded e = false) ∧
    (showing [film]).events.byId 4410#32 = some film ∧ (showing [seen]).events.byId 4410#32 = some seen ∧
    (showing [seen]).purchases.byEvent 4410#32 = none ∧
    (∀ st ∈ [.committing, .committed, .held], ((paid st 298).purchases.byEvent 4410#32).map (·.state) = some st) ∧
    ([(1#32, false)] : List (BitVec 32 × Bool)).all (fun x => !x.2) = true ∧ running.events.uptime = 5000 ∧
    298 + 1 < running.msgs.policy.threshold ∧ running.msgs.policy.threshold ≤ 299 + 1 := by
  unfold State.settled; decide

/-- An event unbought, and bought in each way its end tells apart. -/
theorem meets_EventsEnded :
    let logged := { owning running [bought 5 .committed 990 (some 57)] with
      bills := { running.bills with log := [⟨commitRec 57 false, .due, false⟩] } }
    let acked := { owning running [bought 5 .committed 990 (some 57)] with
      store := { running.store with places := { running.store.places with
        commits := running.store.places.commits.set 47 (.holds (commitRec 57 true)) } } }
    ({ running with owed := [.eventEnd 4410#32 [1#32], .grantExpiry] }).owed = .eventEnd 4410#32 [1#32] :: [.grantExpiry] ∧
    (∀ o ∈ [Owed.grantExpiry], o ≠ .eventEnd 4410#32 []) ∧ running.purchases.byEvent 4410#32 = none ∧
    (∀ st ∈ [.held, .committing, .committed], ((owning running [bought 5 st 990 none]).purchases.byEvent 4410#32).map (·.state) = some st) ∧
    (∃ l ∈ logged.bills.log, l.record.seq = 57) ∧ (∀ l ∈ acked.bills.log, l.record.seq ≠ 57) ∧ acked.store.placeOf 57 = some 47 := by
  decide

theorem meets_OwedPartsDone :
    let out (c : CheckoutTimer) (l : List PurchaseEntry) : State :=
      let s := owning (inRoom running .checkout) l
      { s with msgs := { s.msgs with room := { s.msgs.room with checkout := some c } }, owed := [.checkoutExpiry] }
    let pair := { running with purchases := { running.purchases with heldPairs := [commitRec 60 false] }, owed := [.commitPairOffer] }
    Instr.tick.settlesFirst = true ∧ running.settled ∧
    ({ running with owed := [.grantExpiry, .lockoutExpiry] }).owed = .grantExpiry :: [.lockoutExpiry] ∧
    (Owed.lockoutExpiry.row ≠ Owed.grantExpiry.row ∧ (∃ x ∈ [Owed.lockoutExpiry], x.row = Owed.lockoutExpiry.row) ∧
      ∀ x ∈ [Owed.lockoutExpiry], x.row ≠ Owed.checkoutExpiry.row) ∧
    ({ running with owed := [.rebuiltEntryLimit] }).purchases.handlesDistinct ∧
    (let old (h seq : Nat) : PurchaseEntry := { bought h .committed 990 (some seq) with event := 1#32, taken := 70000, origin := .rebuilt }
     let s := owning (atTime running 98800) [old 5 57, old 6 58]
     s.purchases.handlesDistinct ∧ s.events.hotelTime = some (70000 + 28800) ∧ (∀ v ∈ s.events.entries, v.id ≠ 1#32) ∧
       (s.purchases.entries.filter fun e => e.origin = .rebuilt).length = 2) ∧
    (∀ c, (out ⟨5001, false⟩ []).msgs.room.checkout = some c → 5000 < c.expiry) ∧
    (out ⟨5000, false⟩ [bought 5 .committing 990 (some 57)]).msgs.room.checkout = some ⟨5000, false⟩ ∧
    (∃ e ∈ (out ⟨5000, false⟩ [bought 5 .committing 990 (some 57)]).purchases.entries, e.state = .committing) ∧
    (∀ e ∈ (out ⟨5000, false⟩ [bought 5 .committed 990 (some 57)]).purchases.entries, e.state ≠ .committing) ∧
    pair.owed = .commitPairOffer :: [] ∧ pair.purchases.heldPairs = commitRec 60 false :: [] ∧ pair.store.freePlace = some 0 := by
  refine ⟨by decide, rfl, rfl, by decide, ?_, by unfold PurchaseUnit.handlesDistinct; decide, ?_, by decide, by decide, by decide, rfl, rfl, by decide⟩
  · exact (by decide : ([] : List Nat).Nodup)
  · intro c h; cases h; decide

/-! Commits and the store. -/

/-- A HELD entry at charge 0 with its title in the list and not, and at a charge: with a free place, with none, in a FAULTED store, at the
last number and at an exhausted counter. -/
theorem meets_CommitBegins :
    let s (charge : Nat) : State := owning running [bought 5 .held charge none]
    let titled (l : List (BitVec 32)) : State := { s 0 with purchases := { (s 0).purchases with titles := l } }
    let none' : State := { s 990 with store := { running.store with places := { running.store.places with
      commits := Vector.replicate 48 (.holds (commitRec 1 true)) } } }
    (s 0).purchases.byHandle 5 = some (bought 5 .held 0 none) ∧ 70#32 ∉ (s 0).purchases.titles ∧
    (∀ x ∈ (s 0).purchases.entries, x.state = .held → x.title = 70#32 → x.handle = 5) ∧
    70#32 ∈ (titled [70#32]).purchases.titles ∧
    (s 990).purchases.byHandle 5 = some (bought 5 .held 990 none) ∧ (s 990).store.state = .good ∧
    (s 990).bills.counter = some 58 ∧ (s 990).store.freePlace = some 0 ∧ none'.store.freePlace = none ∧
    none'.purchases.byHandle 5 = some (bought 5 .held 990 none) ∧
    (s 990).purchases.heldPairs = [] ∧ (s 0).purchases.handlesDistinct ∧
    (let faulted := { s 990 with store := { running.store with state := .faulted } }
     faulted.purchases.byHandle 5 = some (bought 5 .held 990 none) ∧ ¬faulted.drainsAtCommitEnd ∧
     (owning (inRoom faulted .checkout) []).drainsAtCommitEnd) ∧
    ({ s 990 with bills := { running.bills with counter := some 4294967279 } }).bills.counter = some 4294967279 ∧
    ({ s 990 with bills := { running.bills with counter := some 4294967280 } }).bills.counter = some 4294967280 ∧
    (let two := owning running [bought 5 .held 990 none, bought 6 .committing 990 (some 57)]
     two.purchases.handlesDistinct ∧ two.purchases.byHandle 5 = some (bought 5 .held 990 none)) := by
  unfold PurchaseUnit.handlesDistinct State.drainsAtCommitEnd; decide

theorem meets_CommitCompletes :
    let s := storing (owning running [bought 6 .committing 990 (some 58)]) [queued (.commit 0 (some (commitRec 58 false)))]
    s.settled ∧ s.store.queue = queued (.commit 0 (some (commitRec 58 false))) :: [] ∧ (commitRec 58 false).acked = false ∧
    s.purchases.committing 58 = some (bought 6 .committing 990 (some 58)) ∧ s.purchases.handlesDistinct ∧ ¬s.drainsAtCommitEnd ∧
    (let last := storing (owning (inRoom running .checkout) [bought 6 .committing 990 (some 58)])
      [queued (.commit 0 (some { commitRec 58 false with stay := 11 }))]
     last.store.queue = queued (.commit 0 (some { commitRec 58 false with stay := 11 })) :: [] ∧
     (after (exec (.storeWriteComplete .verified) last)).msgs.room.state = .vacant) := by
  unfold State.settled PurchaseUnit.handlesDistinct State.drainsAtCommitEnd; decide

/-- An offer that replaces a queued write, a waiting one, joins a queue of 7, and joins the line behind a queue of 8. -/
theorem meets_StoreOffersTaken :
    let st (n : Nat) (l : List LineItem) : Store := { running.store with queue := List.replicate n (queued (.titles none)), line := l }
    ({ running.store with state := .faulted }).state = .faulted ∧ (st 8 []).state = .good ∧
    (∃ q ∈ (st 8 []).queue.drop 1, q.write.samePlace (.titles none) = true) ∧
    (∀ q ∈ (st 8 []).queue.drop 1, q.write.samePlace (.policy none) = false) ∧
    (st 8 [.one (queued (.policy none))]).inLine (.policy none) = true ∧ (st 8 []).inLine (.policy none) = false ∧
    (st 7 []).queue.length < 8 ∧ 8 ≤ (st 8 []).queue.length ∧ (st 7 []).freePlace = some 0 ∧
    (st 6 []).queue.length < 7 ∧ 7 ≤ (st 7 []).queue.length ∧ (∀ q ∈ (st 7 []).queue.drop 1, q.write.samePlace (.room none) = false) ∧
    (st 7 []).inLine (.room none) = false ∧ (st 6 [.one (queued (.room none))]).inLine (.room none) = true ∧
    ({ st 0 [] with places := { running.store.places with commits := running.store.places.commits.set 47 (.holds (commitRec 57 true)) } }).placeOf
      57 = some 47 := by decide

/-- Verified and failed ends with and without COMMITTING entries, of a room that leaves CHECKOUT with them and of one that does not, and a
front of each shape. -/
theorem meets_StoreWritesEnd :
    let s := storing (owning running [bought 6 .committing 990 (some 58)]) [queued (.commit 0 none)]
    let line (l : List LineItem) (n : Nat) : State :=
      { running with store := { running.store with queue := List.replicate n (queued (.titles none)), line := l } }
    running.settled ∧ running.store.queue = [] ∧ s.settled ∧ s.store.queue = queued (.commit 0 none) :: [] ∧
    s.req.startUp ≠ .awaitingRoom ∧ (Verify.failedDamaged ≠ .verified ∧ Verify.failedFormer ≠ .verified) ∧
    (∀ e ∈ running.purchases.entries, e.state ≠ .committing) ∧ (storing running [queued (.titles none)]).settled ∧
    (∃ e ∈ s.purchases.entries, e.state = .committing) ∧ s.purchases.handlesDistinct ∧
    (¬({ s with purchases := { s.purchases with entries := [] } }).drainsAtCommitEnd) ∧
    ({ inRoom s .checkout with purchases := { s.purchases with entries := [] } }).drainsAtCommitEnd ∧
    (∀ n ∈ [6, 7, 8], (line [] n).settled ∧ (line [.one (queued (.policy none))] n).settled ∧
      (line [.pair (queued (.policy none)) (queued (.commit 0 none))] n).settled) := by
  unfold State.settled PurchaseUnit.handlesDistinct State.drainsAtCommitEnd; decide

/-! Reset and start-up. -/

theorem meets_ResetTaken :
    let under (g : Granted) : State := { running with path := { running.path with underWay := some g } }
    running.path.underWay = none ∧ (under (.own (.fetch 0))).path.underWay = some (.own (.fetch 0)) ∧
    (Granted.own (.fetch 0)).writes 0 = none ∧ (under (.own (.index .answerProduce 1#16))).memOk ∧
    ((Granted.own (.index .answerProduce 1#16)).writes 0).isSome = true := by
  unfold State.memOk; decide

/-- The scan at reset, with a ROOM place whose reserve is the last one and above it, and nothing to scan while RUNNING. -/
theorem meets_ScanEnds :
    running.settled ∧ running.req.startUp ≠ .scanning ∧ recovered.settled ∧ recovered.req.startUp = .scanning ∧
    recovered.store.queue = [] ∧ recovered.store.line = [] ∧
    (recovered.store.places.scan 0#54).identity.found.isSome = true ∧ (recovered.store.places.scan 0#54).anyFailed = false ∧
    (recovered.store.places.scan 1#54).identity.found = none ∧ (recovered.store.places.scan (1#54 <<< 26)).anyFailed = true := by
  unfold State.settled; decide

/-- Start-up ends after the scan of `recovered`, and with its other outcomes. -/
theorem meets_StartUpEnds :
    (scanned.settled ∧ scanned.store.queue.map (·.write) =
      [.room (some ⟨.occupied, false, 12, 20000, 3930, 7, none, 0, 74⟩), .commit 20 none]) ∧
    scanned.req.startUp = .awaitingRoom ∧ scanned.req.bringUp = some .storeRecovered ∧ scanned.req.notices = [] ∧
    (scanned.req.scanned.map fun x => (x.identity.isSome, x.binding.isSome, x.room.map (·.state))) = some (true, true, some .occupied) :=
  ⟨by unfold State.settled; decide, by decide, by decide, by decide, by decide⟩

/-- The end of start-up with whatever was recovered, and a log. -/
def awaiting (x : Scanned) (record : RoomRecord) (log : List LogRecord) : State :=
  { State.reset with
    store := { State.reset.store with queue := [queued (.room (some record))] }
    bills := { State.reset.bills with log := log }
    req := { RequestUnit.reset with startUp := .awaitingRoom, scanned := some x, bringUp := some .identityFault } }

/-- Every clause of the statement, by the choice of what was recovered and of the log. -/
theorem meets_StartUpEnds_each_clause (x : Scanned) (record : RoomRecord) (log : List LogRecord) :
    (awaiting x record log).settled ∧ (awaiting x record log).store.queue = [queued (.room (some record))] ∧
    (awaiting x record log).req.startUp = .awaitingRoom ∧ (awaiting x record log).req.scanned = some x ∧
    (awaiting x record log).req.bringUp = some .identityFault ∧ (awaiting x record log).req.notices = [] ∧
    (awaiting x record log).purchases.entries = [] ∧ (awaiting x record log).bills.log = log :=
  ⟨rfl, rfl, rfl, rfl, rfl, rfl, rfl, rfl⟩

end Sys2Proof.Tests
end

section
/-! PROOFS. What one command can do: the inversion of `exec`, from which every invariant of a step is derived. -/

namespace Sys2Proof.Machine

/-- How the block that owns a request kind serves a record of it (R170). -/
def requestService : Nat → Option (Request → State → State)
  | 1 => some serveAttachRing
  | 2 => some serveDetachRing
  | 3 => some serveServiceInfo
  | 4 => some serveKeyInfo
  | 5 => some serveSlateInfo
  | 6 => some serveSetPin
  | 7 => some serveSetGuestCeiling
  | 8 => some serveUnlock
  | 9 => some serveLockNow
  | 10 => some serveLockInfo
  | 11 => some serveReadEvent
  | 12 => some serveQuote
  | 13 => some servePurchase
  | 14 => some serveCancel
  | 15 => some serveListPurchases
  | 16 => some serveBillInfo
  | 17 => some serveStatus
  | _ => none

/-- The row of a request kind hands the fetched record to the block that owns the kind. -/
theorem exec_requestRow {code : Nat} {row : Instr} (h : requestRow code = some row) :
    ∃ serve, requestService code = some serve ∧ ∀ s, exec row s = act (State.serveAs code serve) s := by
  unfold requestRow at h
  split at h <;> cases h <;> exact ⟨_, rfl, fun _ => rfl⟩

/-- The request kinds are the numbers 1 to 17 (R180). -/
theorem requestRow_isSome (n : Nat) : (requestRow n).isSome = true ↔ 1 ≤ n ∧ n ≤ 17 := by
  constructor
  · intro h
    unfold requestRow at h
    split at h
    case h_18 => cases h
    all_goals omega
  · intro ⟨low, high⟩
    unfold requestRow
    split
    case h_18 =>
      exfalso
      simp only [imp_false] at *
      omega
    all_goals rfl

/-- The effect of a command that first does what is owed, on the state in which nothing is owed any more. -/
inductive Effect (s : State) : State → Prop
  | scan (e : ScanEnd) : Effect s (s.scanComplete e)
  | write (w : WriteTxn) : Effect s (s.arriveWrite w)
  | read (r : ReadTxn) : Effect s (s.arriveRead r)
  | returnRead : Effect s s.returnRead
  | grant : Effect s s.grant
  | takeRequest : Effect s s.takeRequest
  | serveUnknown : Effect s s.serveUnknown
  | serve {code : Nat} {f : Request → State → State} (h : requestService code = some f) : Effect s (s.serveAs code f)
  | writeAnswer : Effect s s.writeAnswer
  | writeNotice : Effect s s.writeNotice
  | writeBill : Effect s s.writeBill
  | dealHead : Effect s s.dealHead
  | dealHeadAs (k : MsgKind) : Effect s (s.dealHeadAs k)
  | tick : Effect s s.takeTick
  | completeWrite (v : Verify) : Effect s (s.completeWrite v)
  | advanceLine : Effect s s.advanceLine

/-- A transaction is accepted after what is owed has been done, or faults (log 13). -/
theorem arrival_eq (t : Txn) (s : State) :
    arrival t s = if t.ok then .next (match t with | .write w => s.settle.arriveWrite w | .read r => s.settle.arriveRead r)
      else .fault .notATransaction := by
  cases t <;> rfl

/-- A transaction that arrives has its effect after what is owed. -/
theorem arrival_effect {x : Txn} {s t : State} (h : arrival x s = .next t) : Effect s.settle t := by
  rw [arrival_eq] at h
  split at h
  · cases x with
    | write w => cases h; exact .write w
    | read r => cases h; exact .read r
  · cases h

/-- What a command can do: take the reset, do parts of what is owed, or have its effect once all that is owed has been done. -/
theorem exec_inv {c : Instr} {s t : State} (h : exec c s = .next t) :
    (∃ straps performed, t = s.takeReset straps performed) ∨ (∃ p, t = s.takeOwed p) ∨ Effect s.settle t := by
  cases c with
  | reset straps performed => cases h; exact .inl ⟨straps, performed, rfl⟩
  | eventEnd | grantExpiry | lockoutExpiry | resendDue | rebuiltEntryLimit | checkoutExpiry | commitPairOffer =>
    cases h; exact .inr (.inl ⟨_, rfl⟩)
  | streamSlotWrite w | streamSlotRead w | controlSlotWrite w | requestProduceWrite w | consumeIndexWrite w
  | indexWordWriteIgnored w | passedTransactionArrival w => exact .inr (.inr (arrival_effect h))
  | startUpScanComplete e => cases h; exact .inr (.inr (.scan e))
  | readWordsReturn => cases h; exact .inr (.inr .returnRead)
  | msideGrant => cases h; exact .inr (.inr .grant)
  | requestTake => cases h; exact .inr (.inr .takeRequest)
  | unknownRequest => cases h; exact .inr (.inr .serveUnknown)
  | answerRecordWrite => cases h; exact .inr (.inr .writeAnswer)
  | noticeWrite => cases h; exact .inr (.inr .writeNotice)
  | billNoticeWrite => cases h; exact .inr (.inr .writeBill)
  | messageAtHead => cases h; exact .inr (.inr .dealHead)
  | tick => cases h; exact .inr (.inr .tick)
  | storeWriteComplete v => cases h; exact .inr (.inr (.completeWrite v))
  | storeWaitingLineAdvance => cases h; exact .inr (.inr .advanceLine)
  | bind | unbind | checkIn | checkOut | setCap | entitle | policy | billAck | suspend | resume | hotelKey | clearPin | key
  | serviceMap | event | time | slate => cases h; exact .inr (.inr (.dealHeadAs _))
  | attachRing => cases h; exact .inr (.inr (.serve (code := 1) rfl))
  | detachRing => cases h; exact .inr (.inr (.serve (code := 2) rfl))
  | serviceInfo => cases h; exact .inr (.inr (.serve (code := 3) rfl))
  | keyInfo => cases h; exact .inr (.inr (.serve (code := 4) rfl))
  | slateInfo => cases h; exact .inr (.inr (.serve (code := 5) rfl))
  | setPin => cases h; exact .inr (.inr (.serve (code := 6) rfl))
  | setGuestCeiling => cases h; exact .inr (.inr (.serve (code := 7) rfl))
  | unlock => cases h; exact .inr (.inr (.serve (code := 8) rfl))
  | lockNow => cases h; exact .inr (.inr (.serve (code := 9) rfl))
  | lockInfo => cases h; exact .inr (.inr (.serve (code := 10) rfl))
  | readEvent => cases h; exact .inr (.inr (.serve (code := 11) rfl))
  | quote => cases h; exact .inr (.inr (.serve (code := 12) rfl))
  | purchase => cases h; exact .inr (.inr (.serve (code := 13) rfl))
  | cancel => cases h; exact .inr (.inr (.serve (code := 14) rfl))
  | listPurchases => cases h; exact .inr (.inr (.serve (code := 15) rfl))
  | billInfo => cases h; exact .inr (.inr (.serve (code := 16) rfl))
  | status => cases h; exact .inr (.inr (.serve (code := 17) rfl))

/-- A step idles, or is what a command does to the state with the queue's rest. -/
theorem step_inv {s t : State} (h : step s = .next t) : t = s ∨ ∃ c rest, s.pending = c :: rest ∧ exec c { s with pending := rest } = .next t := by
  unfold step at h
  split at h
  · cases h; exact .inl rfl
  · next c rest e => exact .inr ⟨c, rest, e, h⟩

/-- A request's row either finds no record of its kind or serves the one fetched, the own read being over (R170). -/
theorem State.serveAs_cases (s : State) (code : Nat) (f : Request → State → State) :
    s.serveAs code f = s ∨ ∃ r, s.fetched = some r ∧ r.kind.toNat = code ∧ s.serveAs code f = f r s.fetchDone := by
  unfold State.serveAs
  split
  · exact .inl rfl
  · next r hr =>
    split
    · next hk => exact .inr ⟨r, hr, hk, rfl⟩
    · exact .inl rfl

/-- A message's row either finds no message of its kind that passes or applies it (log 11). -/
theorem State.dealHeadAs_cases (s : State) (k : MsgKind) :
    s.dealHeadAs k = s ∨ ∃ m, s.msgs.headMessage = some m ∧ s.dealHeadAs k = s.applyHead k m := by
  unfold State.dealHeadAs
  split
  · exact .inl rfl
  · next m hm =>
    split
    · exact .inr ⟨m, hm, rfl⟩
    · exact .inl rfl

/-- The head message is not there, or leaves unapplied, or is applied as one of its kind (R148). -/
theorem State.dealHead_cases (s : State) :
    s.dealHead = s ∨ s.dealHead = { s with msgs := s.msgs.dropHead } ∨
      ∃ k m, s.msgs.headMessage = some m ∧ s.dealHead = s.applyHead k m := by
  unfold State.dealHead
  split
  · exact .inl rfl
  · next m hm =>
    split
    · exact .inr (.inl rfl)
    · next k _ => exact .inr (.inr ⟨k, m, hm, rfl⟩)

end Sys2Proof.Machine
end

section
/-! PROOFS. The lockout through everything that a purchase, a commit, a store write, an event or the drain can lead to: it stays as it
is or ends (R80, R91). With `Cascade`, which keeps uptime, it keeps the bound of R81. -/

namespace Sys2Proof.Machine

/-- A lockout after is the lockout before. -/
def LockoutEases (s t : State) : Prop := ∀ e, t.lock.lockout = some e → s.lock.lockout = some e

namespace LockoutEases

theorem refl (s : State) : LockoutEases s s := fun _ => id

theorem trans {s t u : State} (h : LockoutEases s t) (k : LockoutEases t u) : LockoutEases s u := fun e he => h e (k e he)

theorem of_lock {s t : State} (h : t.lock = s.lock) : LockoutEases s t := by
  intro e he; rw [← h]; exact he

theorem of_none {s t : State} (h : t.lock.lockout = none) : LockoutEases s t := by
  intro e he; rw [h] at he; cases he

theorem fold {α : Type} {f : State → α → State} (hf : ∀ s a, LockoutEases s (f s a)) (l : List α) (s : State) :
    LockoutEases s (l.foldl f s) := by
  induction l generalizing s with
  | nil => exact refl s
  | cons a l ih => exact (hf s a).trans (ih _)

theorem ite {p : Prop} [Decidable p] {s t u : State} (h : LockoutEases s t) (k : LockoutEases s u) :
    LockoutEases s (if p then t else u) := by
  split
  · exact h
  · exact k

variable (s : State)

theorem freeIfAcked (c : Caller) (seq : Option Nat) : LockoutEases s (s.freeIfAcked c seq) := by
  unfold State.freeIfAcked
  split
  · exact refl s
  · split
    · split
      · exact of_lock rfl
      · exact refl s
    · exact refl s

theorem retireCommitted (c : Caller) (r : Reason) (e : PurchaseEntry) : LockoutEases s (s.retireCommitted c r e) :=
  freeIfAcked ((s.removePurchase e.handle).raise (e.notice .gone r)) c e.seq

/-- The room's entry to VACANT clears the lock unit (R91). -/
theorem enterVacant (c : Caller) : LockoutEases s (s.enterVacant c) := of_none rfl

theorem testDrain (c : Caller) : LockoutEases s (s.testDrain c) := ite (enterVacant s c) (refl s)

theorem commitEnded (c : Caller) : LockoutEases s (s.commitEnded c) := ite (enterVacant s c) (testDrain s c)

theorem addTitle (t : BitVec 32) : LockoutEases s (s.addTitle t) := by
  unfold State.addTitle
  split
  · exact refl s
  · exact fold (fun s e => of_lock (t := s.clearCharge e) rfl) _ { s with purchases := { s.purchases with titles := joinTitle t s.purchases.titles } }

theorem offerTitlesIf (c : Caller) (b : Bool) : LockoutEases s (s.offerTitlesIf c b) := ite (of_lock rfl) (refl s)

theorem commitFree (c : Caller) (e : PurchaseEntry) : LockoutEases s (s.commitFree c e) :=
  (addTitle (s.mapPurchase e.handle fun _ => { e with state := .committed }) e.title).trans (offerTitlesIf _ _ _)

theorem failCommit (e : PurchaseEntry) : LockoutEases s (s.failCommit e) := of_lock rfl

theorem storeFault : LockoutEases s s.storeFault := fold (fun s e => failCommit s e) _ s.faultStore

theorem offerCommit (c : Caller) (r : CommitRecord) : LockoutEases s (s.offerCommit c r) := by
  unfold State.offerCommit
  split <;> exact of_lock rfl

theorem commitNumbered (c : Caller) (e : PurchaseEntry) (n : Nat) : LockoutEases s (s.commitNumbered c e n) :=
  offerCommit { s.mapPurchase e.handle fun _ => { e with state := .committing, seq := some n } with
    bills := { s.bills with counter := some (n + 1) } } c _

theorem faultFail (c : Caller) (e : PurchaseEntry) : LockoutEases s ((s.storeFault.failCommit e).commitEnded c) :=
  ((storeFault s).trans (failCommit _ e)).trans (commitEnded _ c)

theorem commitCharged (c : Caller) (e : PurchaseEntry) : LockoutEases s (s.commitCharged c e) := by
  unfold State.commitCharged
  split
  · exact (failCommit s e).trans (commitEnded _ c)
  · exact faultFail s c e
  · exact ite (commitNumbered s c e _) (faultFail s c e)

theorem beginCommit (c : Caller) (h : Nat) : LockoutEases s (s.beginCommit c h) := by
  unfold State.beginCommit
  split
  · exact refl s
  · split
    · exact ite (commitFree s c _) (commitCharged s c _)
    · exact refl s
    · exact refl s

theorem completeCommit (r : CommitRecord) : LockoutEases s (s.completeCommit r) := by
  unfold State.completeCommit
  dsimp only
  split
  · exact of_lock rfl
  · next e _ =>
    have spent : LockoutEases s (((s.logRecord r).mapPurchase e.handle fun _ => { e with state := .committed }).spend e.charge) :=
      of_lock rfl
    have noted := ((spent.trans (addTitle _ e.title)).trans (of_lock (t := State.offerRoom .part _) rfl)).trans
      ((offerTitlesIf _ .part (!s.purchases.titles.contains e.title)).trans
        (of_lock (t := State.raise (PurchaseEntry.notice { e with state := .committed } .committed .committed) _) rfl))
    exact (ite (noted.trans (retireCommitted _ _ _ _)) noted).trans (commitEnded _ _)

theorem endPurchase (c : Caller) (id : BitVec 32) : LockoutEases s (s.endPurchase c id) := by
  unfold State.endPurchase
  split
  · exact refl s
  · split
    · exact of_lock rfl
    · exact of_lock rfl
    · exact retireCommitted s _ _ _

theorem endEvent (c : Caller) (id : BitVec 32) : LockoutEases s (s.endEvent c id) := endPurchase s c id

theorem offerHeldPair : LockoutEases s s.offerHeldPair := by
  unfold State.offerHeldPair
  split <;> exact of_lock rfl

theorem watch (e : PurchaseEntry) : LockoutEases s (s.watch e) :=
  ite (beginCommit (s.mapPurchase e.handle fun x => { x with watched := riseWatched e.watched }) .part e.handle) (of_lock rfl)

theorem freeLookSecond (v : EventEntry) : LockoutEases s (s.freeLookSecond v) := ite (of_lock rfl) (refl s)

theorem foldMark (id : BitVec 32) : LockoutEases s (s.foldMark id) := by
  unfold State.foldMark
  split
  · exact refl s
  · dsimp only
    have cleared : LockoutEases s { s with events := s.events.mapId id fun v => { v with seen := false } } := of_lock rfl
    split
    · split
      · exact cleared.trans (freeLookSecond _ _)
      · split
        · exact cleared.trans (watch _ _)
        · exact cleared
        · exact cleared.trans (watch _ _)
    · exact cleared

theorem foldMarks (ids : List (BitVec 32)) : LockoutEases s (s.foldMarks ids) := fold (fun s id => foldMark s id) _ _

theorem expireLockout : LockoutEases s s.expireLockout := by
  intro e he
  simp only [State.expireLockout, Option.filter_eq_some_iff] at he
  exact he.1

theorem limitRebuilt : LockoutEases s s.limitRebuilt := fold (fun s e => retireCommitted s _ _ e) _ _

theorem expireCheckout : LockoutEases s s.expireCheckout := by
  unfold State.expireCheckout
  split
  · refine ite ?_ (refl s)
    dsimp only
    exact ite (of_lock rfl) (of_none rfl)
  · exact refl s

theorem runOwed (o : Owed) : LockoutEases s (s.runOwed o) := by
  cases o with
  | eventEnd id next => exact (endEvent s _ _).trans (foldMarks _ _)
  | grantExpiry => exact fun _ => id
  | lockoutExpiry => exact expireLockout s
  | resendDue => exact of_lock rfl
  | rebuiltEntryLimit => exact limitRebuilt s
  | checkoutExpiry => exact expireCheckout s
  | commitPairOffer => exact offerHeldPair s

theorem doOwed (o : Owed) (os : List Owed) : LockoutEases s (s.doOwed o os) := runOwed s o

theorem settle : LockoutEases s s.settle := by
  unfold State.settle
  generalize s.owed = l
  induction l generalizing s with
  | nil => exact of_lock rfl
  | cons o os ih => exact (doOwed s o os).trans (ih _)

theorem runThrough (p : Owed → Bool) (l : List Owed) : LockoutEases s (State.runThrough p l s) := by
  induction l generalizing s with
  | nil => exact of_lock rfl
  | cons o os ih => exact ite (doOwed s o os) ((doOwed s o os).trans (ih _))

theorem takeOwed (p : Owed → Bool) : LockoutEases s (s.takeOwed p) := ite (runThrough s p _) (refl s)

end LockoutEases

end Sys2Proof.Machine
end

section
/-! PROOFS. The windows of the path unit (R4, R14, R23): when a new window would share an address with one that stands, what attaching
and detaching a ring does to the window list, and that both keep it sound. -/

namespace Sys2Proof.Machine

/-! ### Addresses of a window -/

theorem Window.covers_iff (w : Window) (a : Nat) : w.covers a = true ↔ w.base ≤ a ∧ a < w.base + 128 * w.slots := by
  simp only [Window.covers, Bool.and_eq_true, decide_eq_true_eq]
  rfl

/-- Two ranges that hold an address each meet when one address lies in both. -/
theorem rangesMeet_iff {a aEnd b bEnd : Nat} (ha : a < aEnd) (hb : b < bEnd) :
    rangesMeet a aEnd b bEnd = true ↔ ∃ x, (a ≤ x ∧ x < aEnd) ∧ b ≤ x ∧ x < bEnd := by
  simp only [rangesMeet, Bool.and_eq_true, decide_eq_true_eq]
  constructor
  · intro ⟨_, _⟩
    exact ⟨max a b, by omega, by omega⟩
  · rintro ⟨x, _, _⟩
    omega

/-- Two windows that are not empty meet when an address lies in both. -/
theorem Window.rangesMeet_iff {v w : Window} (hw : 0 < w.slots) (hv : 0 < v.slots) :
    rangesMeet w.base w.last v.base v.last = true ↔ ∃ a, w.covers a = true ∧ v.covers a = true := by
  simp only [Window.covers_iff]
  exact Machine.rangesMeet_iff (by unfold Window.last; omega) (by unfold Window.last; omega)

/-- A window in range holds a slot. -/
theorem Window.inRange.slots_pos {n : Nat} {w : Window} (h : w.inRange n) : 0 < w.slots := by
  obtain ⟨-, -, h⟩ := h
  split at h <;> omega

/-! ### The window list -/

theorem PathUnit.ring_stream (p : PathUnit) (r : Fin 4) : p.ring r.val = p.streams[r] := by
  simp [PathUnit.ring, r.isLt]

theorem PathUnit.ring_control (p : PathUnit) : p.ring 4 = p.control := rfl

/-- The rings are the four stream rings and the control ring. -/
theorem PathUnit.exists_ring (p : PathUnit) (q : Window → Prop) :
    (∃ n v, n ≤ 4 ∧ p.ring n = some v ∧ q v) ↔
      (∃ (r : Fin 4) (v : Window), p.streams[r] = some v ∧ q v) ∨ ∃ v, p.control = some v ∧ q v := by
  constructor
  · rintro ⟨n, v, hn, hv, hq⟩
    by_cases h : n < 4
    · exact .inl ⟨⟨n, h⟩, v, (p.ring_stream ⟨n, h⟩).symm.trans hv, hq⟩
    · obtain rfl : n = 4 := by omega
      exact .inr ⟨v, hv, hq⟩
  · rintro (⟨r, v, hv, hq⟩ | ⟨v, hv, hq⟩)
    · exact ⟨r.val, v, by omega, (p.ring_stream r).trans hv, hq⟩
    · exact ⟨4, v, Nat.le_refl 4, hv, hq⟩

/-- A window meets the window of an entry of the window list. -/
def Window.meets (w : Window) : Option Window → Bool
  | some v => rangesMeet w.base w.last v.base v.last
  | none => false

/-- A window meets an entry that is in range, or absent, when an address lies in both. -/
theorem Window.meets_iff {w : Window} {n : Nat} {o : Option Window} (hw : 0 < w.slots) (ho : ∀ v, o = some v → v.inRange n) :
    w.meets o = true ↔ ∃ v, o = some v ∧ ∃ a, w.covers a = true ∧ v.covers a = true := by
  cases o with
  | none => simp [Window.meets]
  | some v => simp [Window.meets, Window.rangesMeet_iff hw (ho v rfl).slots_pos]

theorem PathUnit.overlaps_eq (p : PathUnit) (w : Window) : p.overlaps w =
    (rangesMeet w.base w.last p.anchorBase (p.anchorBase + 4096) || (List.finRange 4).any (fun r => w.meets p.streams[r])
      || w.meets p.control) := by
  unfold PathUnit.overlaps Window.meets
  cases p.control <;> rfl

/-- A new window meets the anchor page or a window that stands when it shares an address with it (R14, check 3). -/
theorem PathUnit.overlaps_iff {p : PathUnit} (sound : p.WindowsSound) {w : Window} (hw : 0 < w.slots) :
    p.overlaps w = true ↔
      ∃ a, w.covers a = true ∧ (p.inAnchor a ∨ ∃ n v, n ≤ 4 ∧ p.ring n = some v ∧ v.covers a = true) := by
  have anchor : rangesMeet w.base w.last p.anchorBase (p.anchorBase + 4096) = true ↔ ∃ a, w.covers a = true ∧ p.inAnchor a := by
    simp only [Window.covers_iff, PathUnit.inAnchor]
    exact rangesMeet_iff (by unfold Window.last; omega) (by omega)
  have streams : (List.finRange 4).any (fun r => w.meets p.streams[r]) = true ↔
      ∃ (r : Fin 4) (v : Window), p.streams[r] = some v ∧ ∃ a, w.covers a = true ∧ v.covers a = true := by
    simp only [List.any_eq_true, List.mem_finRange, true_and]
    exact exists_congr fun r =>
      Window.meets_iff (n := r.val) hw fun v hv => sound.inRange r.val v (by omega) ((p.ring_stream r).trans hv)
  have control := Window.meets_iff (o := p.control) hw fun v hv => sound.inRange 4 v (Nat.le_refl 4) hv
  rw [PathUnit.overlaps_eq, Bool.or_eq_true, Bool.or_eq_true, anchor, streams, control, or_assoc, ← p.exists_ring]
  constructor
  · rintro (⟨a, ha, h⟩ | ⟨n, v, hn, hv, a, ha, h⟩)
    · exact ⟨a, ha, .inl h⟩
    · exact ⟨a, ha, .inr ⟨n, v, hn, hv, h⟩⟩
  · rintro ⟨a, ha, h | ⟨n, v, hn, hv, h⟩⟩
    · exact .inl ⟨a, ha, h⟩
    · exact .inr ⟨n, v, hn, hv, a, ha, h⟩

/-! ### A ring's entry replaced -/

@[simp] theorem PathUnit.setRing_straps (p : PathUnit) (n : Nat) (w : Option Window) : (p.setRing n w).straps = p.straps := by
  unfold PathUnit.setRing; split <;> rfl

@[simp] theorem PathUnit.setRing_anchorBase (p : PathUnit) (n : Nat) (w : Option Window) :
    (p.setRing n w).anchorBase = p.anchorBase := by
  simp [PathUnit.anchorBase]

/-- The entry replaced is the ring's, every other ring's stays. -/
theorem PathUnit.ring_setRing (p : PathUnit) {n m : Nat} (hn : n ≤ 4) (hm : m ≤ 4) (w : Option Window) :
    (p.setRing n w).ring m = if m = n then w else p.ring m := by
  unfold PathUnit.setRing PathUnit.ring
  by_cases h : n < 4 <;> by_cases k : m < 4
  · simp only [h, k, dif_pos, Vector.getElem_set, eq_comm]
  · have : m ≠ n := by omega
    simp [h, k, this]
  · have : m ≠ n := by omega
    simp [h, k, this]
  · obtain rfl : m = n := by omega
    simp [h]

/-- The stream slots of an entry of the window list. -/
def slotsOf (o : Option Window) : Nat := match o with | some w => w.slots | none => 0

@[simp] theorem slotsOf_none : slotsOf none = 0 := rfl
@[simp] theorem slotsOf_some (w : Window) : slotsOf (some w) = w.slots := rfl

theorem PathUnit.streamSlots_eq (p : PathUnit) : p.streamSlots =
    slotsOf (p.ring 0) + slotsOf (p.ring 1) + slotsOf (p.ring 2) + slotsOf (p.ring 3) := by
  have rings : List.finRange 4 = [0, 1, 2, 3] := rfl
  have sum : p.streamSlots = ((List.finRange 4).map fun r => slotsOf p.streams[r]).sum := rfl
  rw [rings] at sum
  have four : p.streamSlots = slotsOf (p.ring 0) + (slotsOf (p.ring 1) + (slotsOf (p.ring 2) + (slotsOf (p.ring 3) + 0))) := sum
  omega

/-- The stream slots are counted anew for the ring replaced (R14). -/
theorem PathUnit.streamSlots_setRing (p : PathUnit) {n : Nat} (hn : n < 4) (w : Option Window) :
    (p.setRing n w).streamSlots + slotsOf (p.ring n) = p.streamSlots + slotsOf w := by
  have others := fun m hm => p.ring_setRing (n := n) (m := m) (by omega) hm w
  rw [PathUnit.streamSlots_eq, PathUnit.streamSlots_eq, others 0 (by omega), others 1 (by omega), others 2 (by omega),
    others 3 (by omega)]
  obtain rfl | rfl | rfl | rfl : n = 0 ∨ n = 1 ∨ n = 2 ∨ n = 3 := by omega
  all_goals simp; omega

/-- The control ring holds no stream slots. -/
theorem PathUnit.streamSlots_setControl (p : PathUnit) (w : Option Window) : (p.setRing 4 w).streamSlots = p.streamSlots := rfl

/-- A sound window list in which a ring's entry is dropped is sound. -/
theorem PathUnit.WindowsSound.drop {p : PathUnit} (h : p.WindowsSound) {n : Nat} (hn : n ≤ 4) : (p.setRing n none).WindowsSound := by
  have kept : ∀ m w, m ≤ 4 → (p.setRing n none).ring m = some w → p.ring m = some w := fun m w hm e => by
    rw [p.ring_setRing hn hm] at e
    split at e
    · cases e
    · exact e
  refine ⟨fun m w hm e => h.inRange m w hm (kept m w hm e),
    fun m m' v w hm hm' hne e e' => h.apart m m' v w hm hm' hne (kept m v hm e) (kept m' w hm' e'),
    fun m w a hm e ha => h.anchor m w a hm (kept m w hm e) ?_, ?_⟩
  · rwa [PathUnit.inAnchor, PathUnit.setRing_anchorBase] at ha
  · by_cases hn4 : n < 4
    · have := p.streamSlots_setRing hn4 none
      have := h.slots
      simp only [slotsOf_none] at *
      omega
    · obtain rfl : n = 4 := by omega
      exact h.slots

/-- A window that is in range, shares no address with what stands and does not exceed the stream slots joins a sound list (R14). -/
theorem PathUnit.WindowsSound.add {p : PathUnit} (h : p.WindowsSound) {n : Nat} (hn : n ≤ 4) {w : Window} (range : w.inRange n)
    (free : p.ring n = none)
    (clear : ¬∃ a, w.covers a = true ∧ (p.inAnchor a ∨ ∃ n v, n ≤ 4 ∧ p.ring n = some v ∧ v.covers a = true))
    (slots : n < 4 → p.streamSlots + w.slots ≤ Config.maxStreamSlots) : (p.setRing n (some w)).WindowsSound := by
  have entry : ∀ {m : Nat} {v : Window}, m ≤ 4 → (p.setRing n (some w)).ring m = some v → (m = n ∧ v = w) ∨ (m ≠ n ∧ p.ring m = some v) := by
    intro m v hm e
    rw [p.ring_setRing hn hm] at e
    split at e
    · next hmn => cases e; exact .inl ⟨hmn, rfl⟩
    · next hmn => exact .inr ⟨hmn, e⟩
  constructor
  · intro m v hm e
    rcases entry hm e with ⟨rfl, rfl⟩ | ⟨-, e⟩
    · exact range
    · exact h.inRange m v hm e
  · intro m m' v v' hm hm' hne e e' a ha
    refine Bool.eq_false_iff.2 fun ha' => ?_
    rcases entry hm e with ⟨hmn, rfl⟩ | ⟨-, old⟩ <;> rcases entry hm' e' with ⟨hmn', rfl⟩ | ⟨-, old'⟩
    · exact hne (hmn.trans hmn'.symm)
    · exact clear ⟨a, ha, .inr ⟨m', v', hm', old', ha'⟩⟩
    · exact clear ⟨a, ha', .inr ⟨m, v, hm, old, ha⟩⟩
    · exact absurd ha' (Bool.eq_false_iff.1 (h.apart m m' v v' hm hm' hne old old' a ha))
  · intro m v a hm e ha
    rw [PathUnit.inAnchor, PathUnit.setRing_anchorBase] at ha
    rcases entry hm e with ⟨rfl, rfl⟩ | ⟨-, e⟩
    · exact Bool.eq_false_iff.2 fun hc => clear ⟨a, hc, .inl ha⟩
    · exact h.anchor m v a hm e ha
  · by_cases hn4 : n < 4
    · have total := p.streamSlots_setRing hn4 (some w)
      have := slots hn4
      rw [free] at total
      simp only [slotsOf_none, slotsOf_some] at total
      omega
    · obtain rfl : n = 4 := by omega
      exact h.slots

/-! ### Windows and tags together -/

/-- The windows are sound and each attached stream ring has one tag for each slot (R4, R14, R23). -/
def State.WindowsFit (s : State) : Prop := s.path.WindowsSound ∧ s.tagsFit

/-- What the windows' soundness depends on. -/
theorem PathUnit.WindowsSound.congr {p q : PathUnit} (straps : q.straps = p.straps) (streams : q.streams = p.streams)
    (control : q.control = p.control) (h : p.WindowsSound) : q.WindowsSound := by
  have ring : ∀ n, q.ring n = p.ring n := fun n => by unfold PathUnit.ring; rw [streams, control]
  have base : q.anchorBase = p.anchorBase := by unfold PathUnit.anchorBase; rw [straps]
  constructor
  · simpa only [ring] using h.inRange
  · simpa only [ring] using h.apart
  · simpa only [ring, PathUnit.inAnchor, base] using h.anchor
  · rw [PathUnit.streamSlots, streams]; exact h.slots

/-- What the fit of windows and tags depends on. -/
theorem State.WindowsFit.congr {s t : State} (straps : t.path.straps = s.path.straps) (streams : t.path.streams = s.path.streams)
    (control : t.path.control = s.path.control) (tags : ∀ r : Fin 4, t.slots.tags[r].length = s.slots.tags[r].length)
    (h : s.WindowsFit) : t.WindowsFit := by
  refine ⟨h.1.congr straps streams control, fun r => ?_⟩
  rw [tags r, streams]; exact h.2 r

/-- With no window and no tag, as after reset, windows and tags fit. -/
theorem State.windowsFit_of_none {s : State} (streams : s.path.streams = Vector.replicate 4 none) (control : s.path.control = none)
    (tags : s.slots.tags = Vector.replicate 4 []) : s.WindowsFit := by
  have ring : ∀ n, s.path.ring n = none := fun n => by
    unfold PathUnit.ring
    rw [streams, control]
    split
    · exact Vector.getElem_replicate _
    · rfl
  refine ⟨⟨fun n w _ h => ?_, fun m n v w _ _ _ h => ?_, fun n w a _ h => ?_, ?_⟩, fun r => ?_⟩
  · rw [ring] at h; cases h
  · rw [ring] at h; cases h
  · rw [ring] at h; cases h
  · rw [PathUnit.streamSlots_eq, ring, ring, ring, ring]; exact Nat.zero_le _
  · simp [streams, tags]

/-- A ring's tags made anew, as many as its new entry has slots. -/
theorem State.tagsFit_setRing {s : State} (h : s.tagsFit) {n : Nat} (hn : n ≤ 4) (w : Option Window) :
    ({ s with path := s.path.setRing n w, slots := s.slots.create n (slotsOf w) }).tagsFit := by
  intro r
  have hr := h r
  by_cases hn4 : n < 4
  · simp only [PathUnit.setRing, SlotTable.create, hn4, dif_pos, Fin.getElem_fin, Vector.getElem_set]
    split
    · next e => subst e; cases w <;> simp
    · exact hr
  · obtain rfl : n = 4 := by omega
    exact hr

end Sys2Proof.Machine
end

section
/-! PROOFS. The lines of the path unit (R2, R17, R18), and what arrivals leave of the path unit and of the slot tags' number. -/

namespace Sys2Proof.Machine

/-- A list that is not full takes one more. -/
theorem length_snoc_le {α : Type} {l : List α} {n : Nat} (x : α) (h : l.length < n) : (l ++ [x]).length ≤ n := by
  rw [List.length_append]; exact h

/-! ### The lines -/

/-- The bounds of the P-side line, the own-traffic queue and the arbiter's count (R2, R17, R18). -/
structure PathUnit.LinesBounded (p : PathUnit) : Prop where
  pSide   : p.pSide.length ≤ Config.pSideCapacity
  own     : p.own.length ≤ Config.ownCapacity
  toIssue : p.toIssue = [] ∨ p.own.length = Config.ownCapacity
  ownWait : p.ownWait ≤ Config.maxOwnWait
  noOwn   : p.own = [] → p.ownWait = 0

/-- Filling the own-traffic queue moves transactions from the waiting ones, in order. -/
theorem PathUnit.fill_append (p : PathUnit) : p.fill.own ++ p.fill.toIssue = p.own ++ p.toIssue := by
  simp [PathUnit.fill]

theorem PathUnit.fill_own_length (p : PathUnit) (h : p.own.length ≤ Config.ownCapacity) :
    p.fill.own.length ≤ Config.ownCapacity := by
  simp only [PathUnit.fill, List.length_append, List.length_take]
  omega

/-- After filling, transactions wait only while the queue is full (R17). -/
theorem PathUnit.fill_toIssue (p : PathUnit) (h : p.own.length ≤ Config.ownCapacity) :
    p.fill.toIssue = [] ∨ p.fill.own.length = Config.ownCapacity := by
  simp only [PathUnit.fill, List.length_append, List.length_take, List.drop_eq_nil_iff]
  omega

/-- Filling keeps the bounds, and brings the waiting ones within theirs. -/
theorem PathUnit.LinesBounded.fill {p : PathUnit} (pSide : p.pSide.length ≤ Config.pSideCapacity)
    (own : p.own.length ≤ Config.ownCapacity) (ownWait : p.ownWait ≤ Config.maxOwnWait) (noOwn : p.own = [] → p.ownWait = 0) :
    p.fill.LinesBounded :=
  ⟨pSide, p.fill_own_length own, p.fill_toIssue own, ownWait, fun h => noOwn (List.append_eq_nil_iff.1 h).1⟩

theorem PathUnit.LinesBounded.issue {p : PathUnit} (h : p.LinesBounded) (l : List OwnTxn) : (p.issue l).LinesBounded :=
  .fill h.pSide h.own h.ownWait h.noOwn

/-- A granted own transaction leaves a place, which one waiting to be issued takes (R17). -/
theorem PathUnit.LinesBounded.grantOwn {p : PathUnit} (h : p.LinesBounded) {o : OwnTxn} {rest : List OwnTxn} (e : p.own = o :: rest) :
    ({ p with own := rest, underWay := some (.own o), ownWait := 0 }).fill.LinesBounded := by
  have := h.own
  rw [e, List.length_cons] at this
  exact .fill h.pSide (Nat.le_of_succ_le this) (Nat.zero_le _) fun _ => rfl

/-- A granted P-side transaction leaves the line; the count rises only while an own transaction waits (R18). -/
theorem PathUnit.LinesBounded.grantPSide {p : PathUnit} (h : p.LinesBounded) {c : Carried} {rest : List Carried} {n : Nat}
    (e : p.pSide = c :: rest) (hn : n ≤ Config.maxOwnWait) (h0 : p.own = [] → n = 0) :
    ({ p with pSide := rest, underWay := some (.pSide c), ownWait := n }).LinesBounded := by
  have := h.pSide
  rw [e, List.length_cons] at this
  exact ⟨Nat.le_of_succ_le this, h.own, h.toIssue, hn, h0⟩

/-! ### What an arriving write leaves of the path unit -/

@[simp] theorem State.installKey_path (ks : Fin 64) (p : Phase) (w : Word) (s : State) : (s.installKey ks p w).path = s.path := rfl

@[simp] theorem State.installStaged_path (ks : Fin 64) (q : Phase) (s : State) : (s.installStaged ks q).path = s.path := by
  unfold State.installStaged; split <;> rfl

@[simp] theorem State.phaseReport_path (ring : Fin 4) (slot : Nat) (ks : Fin 64) (q : Phase) (s : State) :
    (s.phaseReport ring slot ks q).path = s.path := by
  unfold State.phaseReport; dsimp only; split <;> exact State.installStaged_path ks q s

@[simp] theorem State.replaceTag_path (ring : Fin 4) (slot : Nat) (tag : Option SlotTag) (s : State) :
    (s.replaceTag ring slot tag).path = s.path := rfl

@[simp] theorem State.setSlotTag_path (ring : Fin 4) (slot : Nat) (w : Word) (s : State) :
    (s.setSlotTag ring slot w).path = s.path := by
  unfold State.setSlotTag
  dsimp only
  split
  · rfl
  · split
    · rfl
    · split
      · exact State.phaseReport_path ..
      · rfl

@[simp] theorem State.streamWrite_path (w : WriteTxn) (ring : Fin 4) (slot : Nat) (q : Portion) (s : State) :
    (s.streamWrite w ring slot q).path = s.path := by
  unfold State.streamWrite
  split
  · rfl
  · split
    · split
      · split
        · split
          · exact State.setSlotTag_path ..
          · rfl
        · rfl
      · rfl
    · rfl

@[simp] theorem State.controlWrite_path (w : WriteTxn) (q : Portion) (s : State) : (s.controlWrite w q).path = s.path := by
  unfold State.controlWrite
  split
  · rfl
  · split <;> rfl

@[simp] theorem State.writePortion_path (w : WriteTxn) (q : Portion) (s : State) : (s.writePortion w q).path = s.path := by
  unfold State.writePortion
  split
  · exact State.streamWrite_path ..
  · exact State.controlWrite_path ..
  all_goals rfl

@[simp] theorem State.writePortions_path (w : WriteTxn) (l : List Portion) (s : State) :
    (l.foldl (fun s q => s.writePortion w q) s).path = s.path := by
  induction l generalizing s with
  | nil => rfl
  | cons q l ih => exact (ih _).trans (State.writePortion_path w q s)

/-! ### What an arriving read changes -/

/-- A portion of a read leaves the part as it is, or raises one seen mark (R73). -/
theorem readPortion_cases (r : ReadTxn) (a : State × List HeldPortion) (q : Portion) :
    (readPortion r a q).1 = a.1 ∨ ∃ id, (readPortion r a q).1 =
      { a.1 with events := a.1.events.mapId id fun v => { v with seen := true } } := by
  unfold readPortion
  dsimp only
  split
  · split
    · exact .inl rfl
    · split
      · dsimp only [State.raiseSeen]
        split
        · exact .inl rfl
        · next v _ => exact .inr ⟨v.id, rfl⟩
      · exact .inl rfl
  all_goals exact .inl rfl

@[simp] theorem readPortion_path (r : ReadTxn) (a : State × List HeldPortion) (q : Portion) : (readPortion r a q).1.path = a.1.path := by
  rcases readPortion_cases r a q with h | ⟨id, h⟩ <;> rw [h]

@[simp] theorem readPortions_path (r : ReadTxn) (l : List Portion) (a : State × List HeldPortion) :
    (l.foldl (readPortion r) a).1.path = a.1.path := by
  induction l generalizing a with
  | nil => rfl
  | cons q l ih => exact (ih _).trans (readPortion_path r a q)

/-! ### The number of a ring's tags -/

/-- Each ring has as many tags as before. -/
def SlotTable.SameSize (t u : SlotTable) : Prop := ∀ r : Fin 4, u.tags[r].length = t.tags[r].length

theorem SlotTable.setTag_size (t : SlotTable) (ring : Fin 4) (slot : Nat) (tag : Option SlotTag) :
    t.SameSize (t.setTag ring slot tag) := by
  intro r
  simp only [SlotTable.setTag, Fin.getElem_fin, Vector.getElem_set]
  split
  · next e => simp [← e]
  · rfl

theorem SlotTable.clearRefs_size (t : SlotTable) (i : Option (Fin 192)) : t.SameSize (t.clearRefs i) := by
  intro r
  cases i <;> simp [SlotTable.clearRefs]

@[simp] theorem SlotTable.clearRefs_services (t : SlotTable) (i : Option (Fin 192)) : (t.clearRefs i).services = t.services := by
  cases i <;> rfl

@[simp] theorem SlotTable.mapService_length (t : SlotTable) (n : BitVec 12) (f : ServiceEntry → ServiceEntry) :
    (t.mapService n f).services.length = t.services.length := by
  simp [SlotTable.mapService]

end Sys2Proof.Machine
end

section
/-! PROOFS. The invariants of the memory path and of the part's capacities: one relation between the states before and after, kept by
every command. -/

namespace Sys2Proof.Machine

/-- What every command keeps: the memory canonical, the windows sound with their tags, the bounds of lines, queues and tables, and a
lockout within its span (R2, R4, R14, R17, R18, R23, R31, R77, R81, R96, R108, R132, R148). -/
structure Keeps (s t : State) : Prop where
  mem       : s.memOk → t.memOk
  windows   : s.WindowsFit → t.WindowsFit
  lines     : s.path.LinesBounded → t.path.LinesBounded
  services  : s.slots.services.length ≤ Config.maxServices → t.slots.services.length ≤ Config.maxServices
  grants    : s.lock.grants.length ≤ Config.maxGrants → t.lock.grants.length ≤ Config.maxGrants
  events    : s.events.entries.length ≤ Config.maxEvents → t.events.entries.length ≤ Config.maxEvents
  purchases : s.purchases.entries.length ≤ Config.maxPurchases → t.purchases.entries.length ≤ Config.maxPurchases
  queue     : s.store.queue.length ≤ Config.storeCapacity → t.store.queue.length ≤ Config.storeCapacity
  intake    : s.msgs.intake.length ≤ Config.intakeCapacity → t.msgs.intake.length ≤ Config.intakeCapacity
  lockout   : s.lockoutBounded → t.lockoutBounded

namespace Keeps

theorem refl (s : State) : Keeps s s := ⟨id, id, id, id, id, id, id, id, id, id⟩

theorem trans {s t u : State} (h : Keeps s t) (k : Keeps t u) : Keeps s u where
  mem := k.mem ∘ h.mem
  windows := k.windows ∘ h.windows
  lines := k.lines ∘ h.lines
  services := k.services ∘ h.services
  grants := k.grants ∘ h.grants
  events := k.events ∘ h.events
  purchases := k.purchases ∘ h.purchases
  queue := k.queue ∘ h.queue
  intake := k.intake ∘ h.intake
  lockout := k.lockout ∘ h.lockout

theorem fold {α : Type} {f : State → α → State} (hf : ∀ s a, Keeps s (f s a)) (l : List α) (s : State) : Keeps s (l.foldl f s) := by
  induction l generalizing s with
  | nil => exact refl s
  | cons a l ih => exact (hf s a).trans (ih _)

theorem ite {p : Prop} [Decidable p] {s t u : State} (h : Keeps s t) (k : Keeps s u) : Keeps s (if p then t else u) := by
  split
  · exact h
  · exact k

theorem withinCapacity {s t : State} (h : Keeps s t) (w : s.WithinCapacity) : t.WithinCapacity := by
  obtain ⟨pSide, own, toIssue, ownWait, noOwn⟩ := h.lines ⟨w.pSide, w.own, w.toIssue, w.ownWait, w.noOwn⟩
  exact ⟨pSide, own, toIssue, ownWait, noOwn, h.services w.services, h.grants w.grants, h.events w.events, h.purchases w.purchases,
    h.queue w.queue, h.intake w.intake⟩

/-- A cascade that eases the lockout keeps everything. -/
theorem of_cascade {s t : State} (h : Cascade s t) (l : LockoutEases s t) : Keeps s t where
  mem := by unfold State.memOk; rw [h.mem]; exact id
  windows := State.WindowsFit.congr (by rw [h.path]) (by rw [h.path]) (by rw [h.path]) (by rw [h.slots]; exact fun _ => rfl)
  lines := by rw [h.path]; exact id
  services := by rw [h.slots]; exact id
  grants := Nat.le_trans h.grants
  events := Nat.le_trans h.events
  purchases := Nat.le_trans h.purchases
  queue := h.queue
  intake := Nat.le_trans h.intake
  lockout := fun b e he => by rw [h.uptime]; exact b e (l e he)

variable (s : State)

/-! ### Shared operations -/

theorem offer (c : Caller) (w : StoreWrite) : Keeps s (s.offer c w) := of_cascade (.offer s c w) (.refl s)

theorem offerRoom (c : Caller) : Keeps s (s.offerRoom c) := offer s c _

theorem raise (n : Notice) : Keeps s (s.raise n) := { refl s with }

theorem testDrain (c : Caller) : Keeps s (s.testDrain c) := of_cascade (.testDrain s c) (.testDrain s c)

theorem beginCommit (c : Caller) (h : Nat) : Keeps s (s.beginCommit c h) := of_cascade (.beginCommit s c h) (.beginCommit s c h)

theorem endPurchase (c : Caller) (id : BitVec 32) : Keeps s (s.endPurchase c id) :=
  of_cascade (.endPurchase s c id) (.endPurchase s c id)

theorem mapEvents (id : BitVec 32) (f : EventEntry → EventEntry) : Keeps s { s with events := s.events.mapId id f } :=
  of_cascade (.mapEvents s id f) (.of_lock rfl)

/-- The tags of the rings changed in place, whatever becomes of the key pool. -/
theorem setSlots (k : KeyPool) {t : SlotTable} (size : s.slots.SameSize t)
    (services : s.slots.services.length ≤ Config.maxServices → t.services.length ≤ Config.maxServices) :
    Keeps s { s with keys := k, slots := t } :=
  { refl s with windows := .congr rfl rfl rfl size, services := services }

/-- The lines of the path unit changed, the windows left. -/
theorem setLines (p : PathUnit) (straps : p.straps = s.path.straps) (streams : p.streams = s.path.streams)
    (control : p.control = s.path.control) (lines : s.path.LinesBounded → p.LinesBounded) : Keeps s { s with path := p } :=
  { refl s with windows := .congr straps streams control fun _ => rfl, lines := lines }

theorem issue (l : List OwnTxn) : Keeps s (s.issue l) := setLines s _ rfl rfl rfl fun h => h.issue l

/-- Nothing under way any more. -/
theorem setUnderWay (g : Option Granted) (r : Option ReadReturn) :
    Keeps s { s with path := { s.path with underWay := g, readReturn := r } } :=
  setLines s _ rfl rfl rfl fun h => ⟨h.pSide, h.own, h.toIssue, h.ownWait, h.noOwn⟩

theorem fetchDone : Keeps s s.fetchDone := setUnderWay s none s.path.readReturn

/-! ### Keys -/

theorem installKey (ks : Fin 64) (p : Phase) (w : Word) : Keeps s (s.installKey ks p w) :=
  setSlots s _ (s.slots.clearRefs_size _) (by rw [SlotTable.clearRefs_services]; exact id)

theorem installStaged (ks : Fin 64) (q : Phase) : Keeps s (s.installStaged ks q) := by
  unfold State.installStaged
  split
  · exact refl s
  · next w _ => exact (installKey s ks q.other w).trans { refl _ with }

theorem announceKey (ks : Fin 64) (p : Phase) (w : Word) : Keeps s (s.announceKey ks p w) := by
  unfold State.announceKey
  split
  · exact installKey s ks p w
  · exact ite (refl s) { refl s with }

/-! ### Arrivals -/

theorem replaceTag (ring : Fin 4) (slot : Nat) (tag : Option SlotTag) : Keeps s (s.replaceTag ring slot tag) :=
  setSlots s _ (s.slots.setTag_size ring slot tag) id

theorem phaseReport (ring : Fin 4) (slot : Nat) (ks : Fin 64) (q : Phase) : Keeps s (s.phaseReport ring slot ks q) := by
  refine (installStaged s ks q).trans ?_
  unfold State.phaseReport
  dsimp only
  split
  · exact { refl _ with }
  · exact setSlots _ _ (SlotTable.setTag_size _ ring slot _) id

theorem mapService (n : BitVec 12) (f : ServiceEntry → ServiceEntry) : Keeps s { s with slots := s.slots.mapService n f } :=
  setSlots s s.keys (fun _ => rfl) (by rw [SlotTable.mapService_length]; exact id)

theorem setSlotTag (ring : Fin 4) (slot : Nat) (w : Word) : Keeps s (s.setSlotTag ring slot w) := by
  refine (replaceTag s ring slot (some (SlotTag.ofHeader w))).trans ?_
  unfold State.setSlotTag
  dsimp only
  split
  · exact refl _
  · split
    · exact refl _
    · refine (mapService _ (SlotTag.ofHeader w).service fun e => e.continuity (SlotTag.ofHeader w).cellCount).trans ?_
      split
      · exact phaseReport ..
      · exact refl _

theorem streamWrite (w : WriteTxn) (ring : Fin 4) (slot : Nat) (q : Portion) : Keeps s (s.streamWrite w ring slot q) := by
  unfold State.streamWrite
  split
  · exact refl s
  · refine ite (ite ?_ (refl s)) (replaceTag ..)
    split
    · exact ite (setSlotTag ..) (replaceTag ..)
    · exact refl s

/-- A control cell joins the intake queue only while that holds fewer than 8 (R148). -/
theorem take (m : Message) : Keeps s { s with msgs := s.msgs.take m } := by
  refine { refl s with intake := ?_ }
  dsimp only [MessageUnit.take]
  split
  · next h => exact fun _ => length_snoc_le m h
  · exact id

theorem controlWrite (w : WriteTxn) (q : Portion) : Keeps s (s.controlWrite w q) := by
  unfold State.controlWrite
  split
  · exact refl s
  · exact ite (take s _) (refl s)

theorem writePortion (w : WriteTxn) (q : Portion) : Keeps s (s.writePortion w q) := by
  unfold State.writePortion
  split
  · exact streamWrite ..
  · exact controlWrite ..
  · exact { refl s with }
  · exact refl s
  · exact refl s

/-- A transaction joins the P-side line while that holds fewer than 8 (R2). -/
theorem enqueue (c : Carried) (h : s.path.pSide.length < Config.pSideCapacity) : Keeps s (s.enqueue c) :=
  setLines s _ rfl rfl rfl fun b => ⟨length_snoc_le c h, b.own, b.toIssue, b.ownWait, b.noOwn⟩

theorem arriveWrite (w : WriteTxn) : Keeps s (s.arriveWrite w) := by
  unfold State.arriveWrite
  split
  · next h =>
    refine (fold (fun s q => writePortion s w q) _ s).trans (enqueue _ _ ?_)
    rw [State.writePortions_path]
    exact h
  · exact refl s

theorem readPortions (r : ReadTxn) (l : List Portion) (a : State × List HeldPortion) : Keeps a.1 (l.foldl (readPortion r) a).1 := by
  induction l generalizing a with
  | nil => exact refl _
  | cons q l ih =>
    refine Keeps.trans ?_ (ih (readPortion r a q))
    rcases readPortion_cases r a q with h | ⟨id, h⟩ <;> rw [h]
    · exact refl _
    · exact mapEvents _ _ _

theorem arriveRead (r : ReadTxn) : Keeps s (s.arriveRead r) := by
  unfold State.arriveRead
  split
  · next h =>
    refine (readPortions r _ (s, [])).trans (enqueue _ _ ?_)
    rw [readPortions_path]
    exact h
  · exact refl s

/-! ### The memory side -/

theorem grantOwn {o : OwnTxn} {rest : List OwnTxn} (h : s.path.own = o :: rest) : Keeps s (s.grantOwn o rest) :=
  { refl s with windows := .congr rfl rfl rfl fun _ => rfl, lines := fun b => b.grantOwn h }

theorem grantPSide {c : Carried} {rest : List Carried} {n : Nat} (h : s.path.pSide = c :: rest)
    (hn : s.path.LinesBounded → n ≤ Config.maxOwnWait) (h0 : s.path.LinesBounded → s.path.own = [] → n = 0) :
    Keeps s (s.grantPSide c rest n) :=
  setLines s _ rfl rfl rfl fun b => b.grantPSide h (hn b) (h0 b)

theorem arbitrate : Keeps s s.arbitrate := by
  unfold State.arbitrate
  split
  · exact refl s
  · next hp ho => exact grantPSide s hp (fun b => b.ownWait) fun b => b.noOwn
  · next hp ho => exact grantOwn s ho
  · next hp ho =>
    split
    · next hw => exact grantPSide s hp (fun _ => hw) fun _ h => by rw [ho] at h; cases h
    · exact grantOwn s ho

/-- A write performed leaves the memory canonical (log 1). -/
theorem performWrite (g : Granted) : Keeps s (s.performWrite g) :=
  (setUnderWay s none s.path.readReturn).trans { refl _ with mem := fun h => Memory.wf_perform _ _ h }

theorem grant : Keeps s s.grant := by
  unfold State.grant
  split
  · exact arbitrate s
  · split
    · exact refl s
    · exact (performWrite s _).trans (arbitrate _)

theorem returnRead : Keeps s s.returnRead := by
  unfold State.returnRead
  split
  · exact setUnderWay ..
  · exact refl s

/-! ### Requests -/

theorem takeRequest : Keeps s s.takeRequest := ite ((issue s _).trans { refl _ with }) (refl s)

theorem answer (r : Request) (c : AnswerCode) (ws : List Word) : Keeps s (s.answer r c ws) := { refl s with }

theorem answerAtWrite (r : Request) (c : AnswerCode) (ws : List Word) : Keeps s (s.answerAtWrite r c ws) := by
  unfold State.answerAtWrite
  split <;> exact { refl s with }

theorem answerOnceQueued (r : Request) (c : AnswerCode) (ws : List Word) : Keeps s (s.answerOnceQueued r c ws) :=
  ite { refl s with } { refl s with }

theorem serveUnknown : Keeps s s.serveUnknown := by
  unfold State.serveUnknown
  split
  · exact refl s
  · exact ite (refl s) ((fetchDone s).trans (answer _ _ _ _))

end Keeps

end Sys2Proof.Machine
end

section
/-! PROOFS. Every request, every message, the start-up and the store's writes keep what `Keeps` says. -/

namespace Sys2Proof.Machine

/-- The grant that leaves a full list is one of it (R87). -/
theorem earliestGrant_lt {l : List Grant} (h : l ≠ []) : earliestGrant l < l.length := by
  induction l with
  | nil => exact absurd rfl h
  | cons g l ih =>
    cases l with
    | nil => exact Nat.zero_lt_one
    | cons g' l =>
      have rest := ih (List.cons_ne_nil g' l)
      rw [earliestGrant]
      · split
        · exact Nat.succ_lt_succ rest
        · exact Nat.zero_lt_succ _
      · exact fun none => List.cons_ne_nil g' l none

/-- A grant added leaves the grant list within its capacity (R87). -/
theorem addGrant_length (g : Grant) {l : List Grant} (h : l.length ≤ Config.maxGrants) : (addGrant g l).length ≤ Config.maxGrants := by
  unfold addGrant
  split
  · next replaces =>
    obtain ⟨x, hx, same⟩ := List.any_eq_true.1 replaces
    have fewer : (l.filter (·.scope != g.scope)).length < l.length :=
      List.length_filter_lt_length_iff_exists.2 ⟨x, hx, by simpa using same⟩
    rw [List.length_append, List.length_singleton]
    omega
  · split
    · rw [List.length_append, List.length_singleton]
      omega
    · next full =>
      have holds : l ≠ [] := fun none => full (by rw [none]; decide)
      have := List.length_pos_iff.2 holds
      rw [List.length_append, List.length_singleton, List.length_eraseIdx_of_lt (earliestGrant_lt holds)]
      omega

/-- A lockout's span is at most 3840 seconds (R81). -/
theorem lockoutSpan_le (base f : Nat) : lockoutSpan base f ≤ Config.maxLockout := Nat.min_le_left _ _

namespace Keeps

variable (s : State)

/-! ### The lock unit -/

/-- The lock unit changed: its grants within their capacity, its lockout within its span. -/
theorem setLock (l : LockUnit) (grants : s.lock.grants.length ≤ Config.maxGrants → l.grants.length ≤ Config.maxGrants)
    (lockout : s.lockoutBounded → ∀ e, l.lockout = some e → e ≤ s.events.uptime + Config.maxLockout) : Keeps s { s with lock := l } :=
  { refl s with grants := grants, lockout := lockout }

theorem pinFailure : Keeps s s.pinFailure := by
  refine setLock s _ id fun b e he => ?_
  dsimp only at he
  split at he
  · cases he
    exact Nat.add_le_add_left (lockoutSpan_le _ _) _
  · exact b e he

theorem wrongPin (c : Caller) : Keeps s (s.wrongPin c).1 := (pinFailure s).trans (offerRoom _ c)

theorem setPinTo (p : Pin) (f : Nat) : Keeps s (s.setPinTo p f) := setLock s _ id id

theorem setCeiling (v : Nat) : Keeps s (s.setCeiling v) := by
  refine setLock s _ ?_ id
  dsimp only
  split
  · exact id
  · exact fun _ => Nat.zero_le _

theorem grantTo (g : Grant) : Keeps s (s.grantTo g) := setLock s _ (addGrant_length g) id

theorem clearLock : Keeps s s.clearLock := setLock s _ (fun _ => Nat.zero_le _) fun _ _ h => by cases h

/-! ### Requests -/

/-- A ring attached after the checks of R14 joins a sound window list with its tags. -/
theorem attach {n : Nat} {w : Window} (hn : n ≤ 4) (range : w.inRange n) (free : s.path.ring n = none)
    (clear : s.path.overlaps w = false) (slots : n < 4 → s.path.streamSlots + w.slots ≤ Config.maxStreamSlots) :
    Keeps s (s.attach n w) := by
  refine { refl s with windows := fun h => ⟨?_, ?_⟩, lines := ?_, services := ?_, intake := ?_ }
  · refine h.1.add hn range free ?_ slots
    rw [← PathUnit.overlaps_iff h.1 range.slots_pos, clear]
    exact Bool.false_ne_true
  · exact State.tagsFit_setRing h.2 hn (some w)
  · intro b
    dsimp only [State.attach, PathUnit.setRing]
    split <;> exact ⟨b.pSide, b.own, b.toIssue, b.ownWait, b.noOwn⟩
  · dsimp only [State.attach, SlotTable.create]
    split <;> exact id
  · dsimp only [State.attach]
    split <;> exact id

theorem detach {n : Nat} (hn : n ≤ 4) : Keeps s (s.detach n) := by
  refine { refl s with windows := fun h => ⟨h.1.drop hn, ?_⟩, lines := ?_, services := ?_, intake := ?_ }
  · exact State.tagsFit_setRing h.2 hn none
  · intro b
    dsimp only [State.detach, PathUnit.setRing]
    split <;> exact ⟨b.pSide, b.own, b.toIssue, b.ownWait, b.noOwn⟩
  · dsimp only [State.detach, SlotTable.create]
    split <;> exact id
  · dsimp only [State.detach]
    split <;> exact id

end Keeps

/-- The range checks of ATTACH_RING (R14, check 1). -/
theorem Request.attachOk_iff (r : Request) : r.attachOk = true ↔ r.arg 1 ≤ 4 ∧ r.arg 2 ≤ 0xFFFFFFFF ∧ r.arg 2 % 128 = 0 ∧
    (if r.arg 1 = 4 then 8 ≤ r.arg 3 ∧ r.arg 3 ≤ 256 else 16 ≤ r.arg 3 ∧ r.arg 3 ≤ 1024 ∧ r.arg 5 ≤ 0xFFFF) ∧ r.arg 4 ≤ 15 := by
  unfold Request.attachOk
  split <;> simp only [Bool.and_eq_true, decide_eq_true_eq, and_assoc]

/-- A window whose arguments pass checks 1 and 3 is in range (R4, R14). -/
theorem Request.window_inRange {r : Request} (ok : r.attachOk = true) (last : r.window.last ≤ 0x100000000) :
    r.window.inRange (r.arg 1) := by
  obtain ⟨-, -, base, slots, -⟩ := r.attachOk_iff.1 ok
  refine ⟨base, last, ?_⟩
  split at slots
  · next h => rw [if_pos h]; exact slots
  · next h => rw [if_neg h]; exact ⟨slots.1, slots.2.1⟩

namespace Keeps

variable (s : State)

theorem serveAttachRing (r : Request) : Keeps s (serveAttachRing r s) := by
  unfold Machine.serveAttachRing
  dsimp only
  split
  · exact answer s _ _ _
  · next ok =>
    split
    · exact answer s _ _ _
    · next busy =>
      split
      · exact answer s _ _ _
      · next overlap =>
        split
        · exact answer s _ _ _
        · next full =>
          have ok : r.attachOk = true := by simpa using ok
          refine (attach s ((r.attachOk_iff.1 ok).1) (r.window_inRange ok ?_) ?_ ?_ fun h => ?_).trans (answer _ _ _ _)
          · exact Nat.le_of_not_lt fun h => overlap (.inr h)
          · simpa using busy
          · exact Bool.eq_false_iff.2 fun h => overlap (.inl h)
          · exact Nat.le_of_not_lt fun k => full ⟨h, k⟩

theorem serveDetachRing (r : Request) : Keeps s (serveDetachRing r s) := by
  unfold Machine.serveDetachRing
  split
  · exact answer s _ _ _
  · next h => exact ite (answer s _ _ _) ((detach s (Nat.le_of_not_lt h)).trans (answer _ _ _ _))

theorem serveServiceInfo (r : Request) : Keeps s (serveServiceInfo r s) := by
  refine ite (answer s _ _ _) (ite (answer s _ _ _) (ite (answer s _ _ _) ?_))
  dsimp only
  split
  · exact answer s _ _ _
  · refine trans ?_ (answer _ _ _ _)
    exact ite (mapService s _ _) (refl s)

theorem serveKeyInfo (r : Request) : Keeps s (serveKeyInfo r s) := by
  refine ite (answer s _ _ _) (ite (answer s _ _ _) ?_)
  split
  · exact answer s _ _ _
  · dsimp only
    refine trans ?_ (answer _ _ _ _)
    exact ite { refl s with } (refl s)

theorem serveSetPin (r : Request) : Keeps s (serveSetPin r s) := by
  unfold Machine.serveSetPin
  dsimp only
  split
  · exact answer s _ _ _
  · refine ite (answer s _ _ _) (ite (answer s _ _ _) ?_)
    split
    · exact ((setPinTo s _ _).trans (offerRoom _ _)).trans (answerAtWrite _ _ _ _)
    · exact ite (answer s _ _ _) (ite (((setPinTo s _ _).trans (offerRoom _ _)).trans (answerAtWrite _ _ _ _))
        ((wrongPin s _).trans (answerAtWrite _ _ _ _)))

theorem serveSetGuestCeiling (r : Request) : Keeps s (serveSetGuestCeiling r s) := by
  unfold Machine.serveSetGuestCeiling
  split
  · exact answer s _ _ _
  · refine ite (answer s _ _ _) (ite (answer s _ _ _) ?_)
    split
    · exact answer s _ _ _
    · exact ite (((setCeiling s _).trans (offerRoom _ _)).trans (answerAtWrite _ _ _ _))
        ((wrongPin s _).trans (answerAtWrite _ _ _ _))

theorem serveUnlock (r : Request) : Keeps s (serveUnlock r s) := by
  unfold Machine.serveUnlock
  split
  · refine ite (answer s _ _ _) (ite (answer s _ _ _) ?_)
    split
    · exact answer s _ _ _
    · exact ite (ite ((grantTo s _).trans (answer _ _ _ _)) (((grantTo s _).trans (offerRoom _ _)).trans (answerOnceQueued _ _ _ _)))
        ((wrongPin s _).trans (answerOnceQueued _ _ _ _))
  · exact answer s _ _ _

theorem serveLockNow (r : Request) : Keeps s (serveLockNow r s) :=
  (setLock s { s.lock with grants := [] } (fun _ => Nat.zero_le _) id).trans (answer _ _ _ _)

theorem serveReadEvent (r : Request) : Keeps s (serveReadEvent r s) := by
  refine ite (answer s _ _ _) ?_
  split <;> exact answer s _ _ _

theorem serveQuote (r : Request) : Keeps s (serveQuote r s) := by
  refine ite (answer s _ _ _) (ite (answer s _ _ _) ?_)
  split
  · exact answer s _ _ _
  · split
    · exact answer s _ _ _
    · split <;> exact answer s _ _ _

/-- A purchase is taken only while the list holds fewer than 8 entries (R116, check 9). -/
theorem takePurchase (v : EventEntry) (c h : Nat) (room : s.purchases.entries.length < Config.maxPurchases) :
    Keeps s (s.takePurchase v c h) :=
  { refl s with purchases := fun _ => length_snoc_le _ room }

theorem purchaseEvent (r : Request) (v : EventEntry) (h : Nat) : Keeps s (s.purchaseEvent r v h) := by
  unfold State.purchaseEvent
  split
  · exact answer s _ _ _
  · split
    · exact answer s _ _ _
    · next room =>
      exact ite (answer s _ _ _) (ite (answer s _ _ _) ((takePurchase s v _ h (Nat.lt_of_not_le room)).trans { refl _ with }))

theorem servePurchase (r : Request) : Keeps s (servePurchase r s) := by
  refine ite (answer s _ _ _) (ite (answer s _ _ _) (ite (answer s _ _ _) ?_))
  split
  · exact answer s _ _ _
  · split
    · exact answer s _ _ _
    · split
      · exact answer s _ _ _
      · exact purchaseEvent s r _ _

theorem serveCancel (r : Request) : Keeps s (serveCancel r s) := by
  refine ite (answer s _ _ _) ?_
  split
  · exact answer s _ _ _
  · split
    · exact (of_cascade (.releaseHeld s .cancelled _) (.of_lock rfl)).trans (answer _ _ _ _)
    · exact answer s _ _ _
    · exact answer s _ _ _

theorem serveListPurchases (r : Request) : Keeps s (serveListPurchases r s) := by
  refine ite (answer s _ _ _) (ite (answer s _ _ _) ?_)
  split <;> exact answer s _ _ _

/-- Every request keeps what every command keeps. -/
theorem request {code : Nat} {f : Request → State → State} (h : requestService code = some f) (r : Request) : Keeps s (f r s) := by
  unfold requestService at h
  split at h <;> cases h
  · exact serveAttachRing s r
  · exact serveDetachRing s r
  · exact serveServiceInfo s r
  · exact serveKeyInfo s r
  · exact answer s _ _ _
  · exact serveSetPin s r
  · exact serveSetGuestCeiling s r
  · exact serveUnlock s r
  · exact serveLockNow s r
  · exact answer s _ _ _
  · exact serveReadEvent s r
  · exact serveQuote s r
  · exact servePurchase s r
  · exact serveCancel s r
  · exact serveListPurchases s r
  · exact answer s _ _ _
  · exact answer s _ _ _

theorem serveAs {code : Nat} {f : Request → State → State} (h : requestService code = some f) : Keeps s (s.serveAs code f) := by
  rcases s.serveAs_cases code f with e | ⟨r, -, -, e⟩ <;> rw [e]
  · exact refl s
  · exact (fetchDone s).trans (request _ h r)

/-! ### Records -/

theorem writeAnswer : Keeps s s.writeAnswer := by
  unfold State.writeAnswer
  split
  · next a h _ =>
    refine ite ?_ (refl s)
    have issued : Keeps s (s.issueAnswer a) := (issue s _).trans { refl _ with }
    refine issued.trans ?_
    cases h with
    | none => exact refl _
    | some n => exact beginCommit _ _ _
  all_goals exact refl s

theorem writeNotice : Keeps s s.writeNotice := by
  unfold State.writeNotice
  split
  · exact refl s
  · exact ite ((issue s _).trans { refl _ with }) (refl s)

theorem writeBill : Keeps s s.writeBill := by
  unfold State.writeBill
  split
  · exact ite ((issue s _).trans { refl _ with }) (refl s)
  · exact refl s

end Keeps

end Sys2Proof.Machine
end

section
/-! PROOFS. Every message, the start-up, the store's writes and the tick keep what `Keeps` says, and so does every step. -/

namespace Sys2Proof.Machine

/-- The purchase list rebuilt at the end of start-up holds at most 8 entries (R129). -/
theorem rebuiltEntries_length (h : Nat) (l : List CommitRecord) : (rebuiltEntries h l).length = l.length := by
  induction l generalizing h with
  | nil => rfl
  | cons r l ih => rw [rebuiltEntries, List.length_cons, ih, List.length_cons]

theorem Scanned.rebuilt_length (x : Scanned) : x.purchasesTaken.entries.length ≤ Config.maxPurchases := by
  have : x.purchasesTaken.entries.length = x.rebuiltRecords.length := rebuiltEntries_length 1 _
  rw [this, Scanned.rebuiltRecords, List.length_drop]
  omega

@[simp] theorem Scanned.lockTaken_lockout (x : Scanned) : x.lockTaken.lockout = none := by
  unfold Scanned.lockTaken
  split
  · split <;> rfl
  · rfl

@[simp] theorem Scanned.lockTaken_grants (x : Scanned) : x.lockTaken.grants = [] := by
  unfold Scanned.lockTaken
  split
  · split <;> rfl
  · rfl

theorem SlotTable.mapIn_length (t : SlotTable) (e : ServiceEntry) (h : t.services.length ≤ Config.maxServices) :
    (t.mapIn e).services.length ≤ Config.maxServices := by
  unfold SlotTable.mapIn
  split
  · rw [SlotTable.mapService_length]; exact h
  · split
    · next room => exact length_snoc_le e room
    · exact h

theorem SlotTable.applyMapEntry_length (t : SlotTable) (w : Word) (h : t.services.length ≤ Config.maxServices) :
    (t.applyMapEntry w).services.length ≤ Config.maxServices := by
  unfold SlotTable.applyMapEntry
  split
  · exact Nat.le_trans (List.length_filter_le _ _) h
  · split
    · exact h
    · exact t.mapIn_length _ h

theorem SlotTable.applyMapEntry_tags (t : SlotTable) (w : Word) : (t.applyMapEntry w).tags = t.tags := by
  unfold SlotTable.applyMapEntry
  split
  · rfl
  · split
    · rfl
    · unfold SlotTable.mapIn
      split
      · rfl
      · split <;> rfl

/-- The map entries of a message leave the tags as they are and the service table within its capacity (R33, R35). -/
theorem SlotTable.applyMapEntries (m : Message) (l : List Nat) (t : SlotTable) :
    (l.foldl (fun t j => t.applyMapEntry (m.body (1 + j))) t).tags = t.tags ∧
      (t.services.length ≤ Config.maxServices →
        (l.foldl (fun t j => t.applyMapEntry (m.body (1 + j))) t).services.length ≤ Config.maxServices) := by
  induction l generalizing t with
  | nil => exact ⟨rfl, id⟩
  | cons j l ih =>
    obtain ⟨tags, services⟩ := ih (t.applyMapEntry (m.body (1 + j)))
    exact ⟨tags.trans (t.applyMapEntry_tags _), fun h => services (t.applyMapEntry_length _ h)⟩

/-- Uptime does not fall (R93). -/
theorem le_nextSecond (t : Nat) : t ≤ nextSecond t := by
  unfold nextSecond; split <;> omega

namespace Keeps

variable (s : State)

/-- The request unit changed. -/
theorem setReq (q : RequestUnit) : Keeps s { s with req := q } := { refl s with }

/-! ### Messages -/

/-- The room, the policy or what is kept of the last serials changed, the intake queue left. -/
theorem setMsgs (m : MessageUnit) (h : m.intake = s.msgs.intake) : Keeps s { s with msgs := m } :=
  { refl s with intake := by dsimp only; rw [h]; exact id }

theorem dropHead : Keeps s { s with msgs := s.msgs.dropHead } :=
  { refl s with intake := fun h => by simp only [MessageUnit.dropHead, List.length_drop]; omega }

theorem leaveOrWait : Keeps s s.leaveOrWait := ite (setMsgs s _ rfl) (dropHead s)

theorem consumeSerial (k : MsgKind) (n : Nat) : Keeps s (s.consumeSerial k n) := by
  unfold State.consumeSerial
  split
  · exact refl s
  · refine Keeps.trans ?_ (offer _ _ _)
    exact setMsgs s _ rfl

theorem applyBind (m : Message) : Keeps s (applyBind m s) := by
  unfold Machine.applyBind
  split
  · refine Keeps.trans ?_ ((((offer _ _ _).trans (offer _ _ _)).trans (offerRoom _ _)).trans (raise _ _))
    exact (clearLock s).trans { refl _ with }
  · exact refl s

theorem applyUnbind : Keeps s (applyUnbind s) := by
  refine ite ?_ (refl s)
  have cleared : Keeps s { s.clearLock with
      msgs := { s.msgs with room := s.msgs.room.unbound, policy := Policy.defaults }
      purchases := { s.purchases with titles := [] } } := (clearLock s).trans { refl _ with }
  exact (((((cleared.trans (offer _ _ _)).trans (offer _ _ _)).trans (offer _ _ _)).trans (offerRoom _ _)).trans (raise _ _))

theorem applyHotelKey (m : Message) : Keeps s (applyHotelKey m s) := by
  unfold Machine.applyHotelKey
  split
  · exact refl s
  · exact refl s
  · refine Keeps.trans ?_ (offer _ _ _)
    exact setMsgs s _ rfl

theorem applyCheckIn (m : Message) : Keeps s (applyCheckIn m s) := by
  unfold Machine.applyCheckIn
  split
  · refine Keeps.trans ?_ ((offerRoom _ _).trans (raise _ _))
    refine Keeps.trans (t := { s with lock := { LockUnit.cleared with guestCeiling := min (bytesAt (m.body 0) 4 1) 7 } }) ?_ { refl _ with }
    exact setLock s _ (fun _ => Nat.zero_le _) fun _ _ h => by cases h
  all_goals exact refl s

theorem applyCheckOut : Keeps s (applyCheckOut s) := by
  unfold Machine.applyCheckOut
  split
  · have opened : Keeps s (s.setRoomState .checkout) := setMsgs s _ rfl
    have released : ∀ u : State, Keeps u u.releaseAllHeld := fun u => fold (fun u e => of_cascade (.releaseHeld u _ e) (.of_lock rfl)) _ u
    have started : ∀ u : State, Keeps u u.startCheckoutTimer := fun u => setMsgs u _ rfl
    exact ((((opened.trans (offerRoom _ _)).trans (released _)).trans (started _)).trans (raise _ _)).trans (testDrain _ _)
  all_goals exact refl s

theorem applySetCap (m : Message) : Keeps s (applySetCap m s) := by
  refine ite (Keeps.trans ?_ (offerRoom _ _)) (refl s)
  exact setMsgs s _ rfl

theorem applyEntitle (m : Message) : Keeps s (applyEntitle m s) := ite (refl s) (setMsgs s _ rfl)

theorem setSuspended (v : Bool) : Keeps s (s.setSuspended v) := by
  refine ite (refl s) (Keeps.trans ?_ ((offerRoom _ _).trans (raise _ _)))
  exact setMsgs s _ rfl

theorem applyClearPin : Keeps s (applyClearPin s) :=
  ite (refl s) ((setLock s _ (fun _ => Nat.zero_le _) fun _ _ h => by cases h).trans (offerRoom _ _))

theorem applyPolicy (m : Message) : Keeps s (applyPolicy m s) := by
  refine ite (refl s) (Keeps.trans (Keeps.trans ?_ (offer _ _ _)) (fold (fun u h => beginCommit u .head h) _ _))
  exact setMsgs s _ rfl

theorem ackWrite (l : LogRecord) : Keeps s (s.ackWrite l) := by
  unfold State.ackWrite
  split
  · exact refl s
  · exact ite (offer s _ _) (offer s _ _)

theorem ackUpTo (n : Nat) : Keeps s (s.ackUpTo n) := by
  unfold State.ackUpTo
  dsimp only
  have logged : Keeps s { s with bills := { s.bills with log := s.bills.log.filter fun l => decide (n < l.record.seq) } } :=
    { refl s with }
  split
  · exact logged
  · exact (logged.trans (offerRoom _ _)).trans (fold (fun u l => ackWrite u l) _ _)

theorem applyBillAck (m : Message) : Keeps s (applyBillAck m s) := by
  refine ite (refl s) ?_
  split
  · exact testDrain s _
  · exact ite ((ackUpTo s _).trans (testDrain _ _)) (testDrain s _)

theorem applyKey (m : Message) : Keeps s (applyKey m s) := by
  unfold Machine.applyKey
  split
  · exact refl s
  · refine ite (fold (fun u j => ?_) _ s) (refl s)
    unfold applyKeyEntry
    dsimp only
    split
    · exact ite (announceKey u _ _ _) (ite (announceKey u _ _ _) (refl u))
    · exact refl u

theorem applyServiceMap (m : Message) : Keeps s (applyServiceMap m s) := by
  refine ite ?_ (refl s)
  obtain ⟨tags, services⟩ := SlotTable.applyMapEntries m (List.range (bytesAt (m.body 0) 0 1)) s.slots
  exact setSlots s s.keys (fun r => by rw [tags]) services

theorem updateEvent (a : EventEntry) : Keeps s (s.updateEvent a) := mapEvents s _ _

theorem replaceEvent (o : BitVec 32) (a : EventEntry) : Keeps s (s.replaceEvent o a) := mapEvents s _ _

theorem removeEvent (id : BitVec 32) : Keeps s (s.removeEvent id) :=
  { refl s with events := Nat.le_trans (List.length_filter_le _ _) }

theorem announceKnown (a : EventEntry) : Keeps s (s.announceKnown a) := by
  unfold State.announceKnown
  split
  · exact updateEvent s a
  · exact ite ((removeEvent s _).trans (updateEvent _ a))
      (ite ((of_cascade (.endEvent s _ _) (.endEvent s _ _)).trans (updateEvent _ a)) (refl s))

theorem announceReuse (o a : EventEntry) : Keeps s (s.announceReuse o a) :=
  ite (replaceEvent s _ a) (ite ((endPurchase s _ _).trans (replaceEvent _ _ a)) (refl s))

/-- A new entry is created while the table holds fewer than 48, and takes another's place otherwise (R104). -/
theorem announceNew (a : EventEntry) : Keeps s (s.announceNew a) := by
  unfold State.announceNew
  split
  · next room => exact { refl s with events := fun _ => length_snoc_le a room }
  · split
    · exact refl s
    · exact replaceEvent s _ a

theorem announce (a : EventEntry) : Keeps s (s.announce a) := by
  unfold State.announce
  split
  · exact announceKnown s a
  · refine ite (endPurchase s _ _) ?_
    split
    · exact announceReuse s _ a
    · exact announceNew s a

theorem applyEvent (m : Message) : Keeps s (applyEvent m s) := by
  refine ite (fold (fun u j => ?_) _ s) (refl s)
  split
  · exact refl u
  · exact announce u _

theorem applySlate (m : Message) : Keeps s (applySlate m s) := by
  unfold Machine.applySlate
  dsimp only
  split
  · exact { refl s with }
  · exact refl s

theorem applyKind (k : MsgKind) (m : Message) : Keeps s (applyKind k m s) := by
  cases k with
  | bind => exact applyBind s m
  | unbind => exact applyUnbind s
  | checkIn => exact applyCheckIn s m
  | checkOut => exact applyCheckOut s
  | setCap => exact applySetCap s m
  | entitle => exact applyEntitle s m
  | policy => exact applyPolicy s m
  | billAck => exact applyBillAck s m
  | suspend => exact setSuspended s true
  | resume => exact setSuspended s false
  | hotelKey => exact applyHotelKey s m
  | clearPin => exact applyClearPin s
  | key => exact applyKey s m
  | serviceMap => exact applyServiceMap s m
  | event => exact applyEvent s m
  | time => exact { refl s with }
  | slate => exact applySlate s m

theorem applyHead (k : MsgKind) (m : Message) : Keeps s (s.applyHead k m) :=
  ((consumeSerial s k _).trans (applyKind _ k m)).trans (leaveOrWait _)

theorem dealHeadAs (k : MsgKind) : Keeps s (s.dealHeadAs k) := by
  rcases s.dealHeadAs_cases k with e | ⟨m, -, e⟩ <;> rw [e]
  · exact refl s
  · exact applyHead s k m

theorem dealHead : Keeps s s.dealHead := by
  rcases s.dealHead_cases with e | e | ⟨k, m, -, e⟩ <;> rw [e]
  · exact refl s
  · exact dropHead s
  · exact applyHead s k m

/-! ### Start-up -/

theorem freeRecords (l : List CommitRecord) : Keeps s (s.freeRecords l) :=
  fold (fun (u : State) (r : CommitRecord) => of_cascade (.freeIfAcked u .part (some r.seq)) (.freeIfAcked u .part (some r.seq))) l s

/-- The owners take what was recovered: at most 8 purchases, no grants and no lockout (R129, R177). -/
theorem takeRecovered (x : Scanned) : Keeps s (s.startTimer.takeRecovered x) := by
  unfold State.takeRecovered
  dsimp only
  refine Keeps.trans ?_ (freeRecords _ _)
  have taken : ∀ room : Room, Keeps s { s.startTimer with
      msgs := { s.msgs with identity := x.identity, room := room, policy := x.policyTaken, serials := x.serialsTaken }
      lock := x.lockTaken
      purchases := x.purchasesTaken } := fun room =>
    { refl s with
      grants := fun _ => by dsimp only; rw [x.lockTaken_grants]; exact Nat.zero_le _
      purchases := fun _ => x.rebuilt_length
      lockout := fun _ e he => by dsimp only at he; rw [x.lockTaken_lockout] at he; cases he }
  exact ite (taken _) ((taken _).trans (offerRoom _ _))

theorem startUpLockout : Keeps s s.startUpLockout := by
  refine ite (setLock s _ id fun _ e he => ?_) (refl s)
  cases he
  exact Nat.add_le_add_left (lockoutSpan_le _ _) _

theorem startUpCheckout : Keeps s s.startUpCheckout := by
  refine ite (Keeps.trans (t := s.startCheckoutTimer) ?_ (testDrain _ _)) (refl s)
  exact setMsgs s _ rfl

theorem endStartUp : Keeps s s.endStartUp := by
  have recovered := takeRecovered s (s.req.scanned.getD Scanned.nothing)
  have ready := (recovered.trans (startUpLockout _)).trans (startUpCheckout _)
  exact (ready.trans (raise _ (State.startNotice _ (State.startUpCheckout _)))).trans (setReq _ _)

theorem scanComplete (e : ScanEnd) : Keeps s (s.scanComplete e) := by
  unfold State.scanComplete
  split
  · cases e with
    | unreadable =>
      refine Keeps.trans ?_ (endStartUp _)
      exact { refl s with }
    | read failed =>
      refine Keeps.trans ?_ (fold (fun u w => offer u .part w) _ _)
      refine Keeps.trans ?_ (offer _ _ _)
      exact { refl s with }
  · exact refl s
  · exact refl s

/-! ### Store writes -/

theorem endStartUpIf : Keeps s s.endStartUpIf := by
  unfold State.endStartUpIf
  split
  · exact endStartUp s
  · exact refl s
  · exact refl s

theorem writeDone (q : QueuedWrite) : Keeps s (s.writeDone q) := by
  unfold State.writeDone
  split
  · refine Keeps.trans ?_ (endStartUpIf _)
    exact ite (setReq s _) (refl s)
  · exact ite (refl s) (of_cascade (.completeCommit s _) (.completeCommit s _))
  · exact ite (refl s) { refl s with }
  all_goals exact refl s

theorem failedCommits (before : State) : Keeps s (State.failedCommits before s) :=
  ite (of_cascade (.commitEnded s _) (.commitEnded s _)) (refl s)

theorem storeFault : Keeps s s.storeFault := of_cascade (.storeFault s) (.storeFault s)

theorem completeWrite (v : Verify) : Keeps s (s.completeWrite v) := by
  unfold State.completeWrite
  split
  · exact refl s
  · next q rest hq =>
    cases v with
    | verified =>
      refine Keeps.trans ?_ (writeDone _ q)
      refine { refl s with queue := fun h => ?_ }
      rw [hq, List.length_cons] at h
      exact Nat.le_of_succ_le h
    | failedFormer => exact ((storeFault s).trans (failedCommits _ s)).trans (endStartUpIf _)
    | failedDamaged =>
      have damaged : Keeps s { s with store := { s.store with places := s.store.places.damage q.write } } := { refl s with }
      exact ((damaged.trans (storeFault _)).trans (failedCommits _ s)).trans (endStartUpIf _)

theorem goOn : Keeps s s.goOn := by
  unfold State.goOn
  refine Keeps.trans ?_ (ite (dropHead _) (refl _))
  exact ite (refl s) (setReq s _)

theorem advanceLine : Keeps s s.advanceLine := by
  refine Keeps.trans ?_ (goOn _)
  exact { refl s with queue := Store.advance_queue _ }

/-! ### The tick -/

/-- Uptime rises; a lockout's expiry stays, so its bound holds all the more (R81, R93). -/
theorem takeTick : Keeps s s.takeTick := by
  refine ite ?_ (refl s)
  have advanced : Keeps s { s with events := s.events.advance } :=
    { refl s with lockout := fun b e he => Nat.le_trans (b e he) (Nat.add_le_add_right (le_nextSecond _) _) }
  refine Keeps.trans (advanced.trans (of_cascade (.foldMarks _ _) (.foldMarks _ s.events.advance.plan.1))) ?_
  exact { refl _ with }

/-! ### Reset, and every step -/

theorem takeReset (straps : BitVec 4) (performed : BitVec 128) : Keeps s (s.takeReset straps performed) where
  mem := fun h => by
    show (s.memAtReset performed).wf = true
    unfold State.memAtReset
    split
    · exact h
    · exact Memory.wf_performPart _ _ _ h
  windows := fun _ => State.windowsFit_of_none rfl rfl rfl
  lines := fun _ => ⟨Nat.zero_le _, (by decide : 3 ≤ Config.ownCapacity), .inl rfl, Nat.zero_le _, fun _ => rfl⟩
  services := fun _ => Nat.zero_le _
  grants := fun _ => Nat.zero_le _
  events := fun _ => Nat.zero_le _
  purchases := fun _ => Nat.zero_le _
  queue := fun _ => Nat.zero_le _
  intake := fun _ => Nat.zero_le _
  lockout := fun _ _ h => by cases h

theorem of_effect {s t : State} (h : Effect s t) : Keeps s t := by
  cases h with
  | scan e => exact scanComplete s e
  | write w => exact arriveWrite s w
  | read r => exact arriveRead s r
  | returnRead => exact returnRead s
  | grant => exact grant s
  | takeRequest => exact takeRequest s
  | serveUnknown => exact serveUnknown s
  | serve h => exact serveAs s h
  | writeAnswer => exact writeAnswer s
  | writeNotice => exact writeNotice s
  | writeBill => exact writeBill s
  | dealHead => exact dealHead s
  | dealHeadAs k => exact dealHeadAs s k
  | tick => exact takeTick s
  | completeWrite v => exact completeWrite s v
  | advanceLine => exact advanceLine s

theorem of_exec {c : Instr} {s t : State} (h : exec c s = .next t) : Keeps s t := by
  rcases exec_inv h with ⟨straps, performed, rfl⟩ | ⟨p, rfl⟩ | h
  · exact takeReset s straps performed
  · exact of_cascade (.takeOwed s p) (.takeOwed s p)
  · exact (of_cascade (.settle s) (.settle s)).trans (of_effect h)

/-- What every step keeps. -/
theorem of_step {s t : State} (h : step s = .next t) : Keeps s t := by
  rcases step_inv h with rfl | ⟨c, rest, -, h⟩
  · exact refl t
  · exact Keeps.trans (t := { s with pending := rest }) { refl s with } (of_exec h)

end Keeps

end Sys2Proof.Machine
end

section
/-! PROOFS. The invariants of every step (O3, O4, O5), the state after reset (O10), and which commands complete (O2). -/

namespace Sys2Proof.Machine

/-- A command that carries a transaction is its arrival, and is well formed when the transaction is one. -/
theorem exec_arriving {c : Instr} {x : Txn} (h : c.arriving = some x) (s : State) : exec c s = arrival x s ∧ c.wellFormed = x.ok := by
  cases c <;> cases h <;> exact ⟨rfl, rfl⟩

/-- Every other command is well formed and completes. -/
theorem exec_not_arriving {c : Instr} (h : c.arriving = none) (s : State) : c.wellFormed = true ∧ ∃ t, exec c s = .next t := by
  cases c <;> cases h <;> exact ⟨rfl, _, rfl⟩

/-- A transaction that is one is accepted or waits; what is none faults (log 13). -/
theorem arrival_completes (x : Txn) (s : State) :
    (x.ok = true → ∃ t, arrival x s = .next t) ∧ (x.ok = false → arrival x s = .fault .notATransaction) := by
  rw [arrival_eq]
  exact ⟨fun h => ⟨_, if_pos h⟩, fun h => if_neg (Bool.eq_false_iff.1 h)⟩

/-! ### The state after reset -/

theorem KeyPool.slot_reset (ks : Fin 64) (p : Phase) : KeyPool.reset.slot ks p = ⟨none, none⟩ := by
  cases p <;> simp [KeyPool.reset, KeyPool.slot, KeySet.slot]

theorem KeyPool.pool_reset (i : Fin 192) : KeyPool.reset.pool[i] = { key := 0#64, state := .free, stamp := 0#16, refs := 0 } := by
  simp [KeyPool.reset]

theorem State.reset_tags (r : Fin 4) : State.reset.slots.tags[r] = [] := by
  simp [State.reset]

theorem KeyPool.reset_orderly : KeyPool.reset.Orderly where
  retired i := by rw [KeyPool.pool_reset]; simp [KeyPool.reset]
  once := List.nodup_nil
  current ks p i h := by rw [KeyPool.slot_reset] at h; cases h
  distinct ks p _ _ i h := by rw [KeyPool.slot_reset] at h; cases h

theorem State.reset_handlesSound : State.reset.HandlesSound where
  distinct := List.nodup_nil
  next := by decide
  few := Nat.zero_le _
  starting _ := ⟨rfl, rfl⟩
  serving h := by cases h

theorem State.reset_staySound : State.reset.StaySound where
  toHandlesSound := State.reset_handlesSound
  binding := ⟨fun _ => rfl, fun _ => rfl⟩
  noStay _ := ⟨rfl, rfl, rfl, rfl, rfl, rfl⟩
  charged := Nat.le_refl _

theorem State.reset_billsSound : State.reset.BillsSound where
  toHandlesSound := State.reset_handlesSound
  rising := .nil
  below r h := by cases h
  behind r h := by cases h
  committing e h := by cases h
  few32 := by decide

theorem State.reset_referencesCounted : State.reset.ReferencesCounted where
  counted i := by
    have unreferenced : ∀ r, State.reset.slots.refsTo r = 0 := fun r => by simp only [SlotTable.refsTo, State.reset_tags, List.countP_nil]; rfl
    rw [unreferenced]
    exact congrArg PoolEntry.refs (KeyPool.pool_reset i)
  free i _ := congrArg PoolEntry.refs (KeyPool.pool_reset i)
  older ring o r h := by rw [State.reset_tags] at h; cases h

theorem State.reset_withinCapacity : State.reset.WithinCapacity := by
  constructor <;> decide

end Sys2Proof.Machine

open Sys2Proof Sys2Proof.Machine

/-- Settles O3: a granted write, in full or in part at a reset, is all that changes the memory. -/
theorem memoryStaysCanonical : Obligations.MemoryStaysCanonical :=
  fun _ _ ok h => (Keeps.of_step h).mem ok

/-- Settles O4: each line, queue and table is joined only within its capacity. -/
theorem capacitiesAreKept : Obligations.CapacitiesAreKept :=
  ⟨fun _ _ within h => (Keeps.of_step h).withinCapacity within, fun _ _ bounded h => (Keeps.of_step h).lockout bounded⟩

/-- Settles O5: only ATTACH_RING adds a window, behind the checks of R14. -/
theorem windowsStaySound : Obligations.WindowsStaySound :=
  fun _ _ sound fit h => (Keeps.of_step h).windows ⟨sound, fit⟩

/-- Settles O10: after reset there is nothing in any line, list or table for an invariant to fail of. -/
theorem resetMeetsTheInvariants : Obligations.ResetMeetsTheInvariants := by
  have fit : State.reset.WindowsFit := State.windowsFit_of_none rfl rfl rfl
  exact ⟨rfl, State.reset_withinCapacity, fit.1, fit.2, KeyPool.reset_orderly, (fun _ h => by cases h), State.reset_referencesCounted,
    State.reset_billsSound, State.reset_staySound⟩

/-- Settles O2: a command either carries a transaction or always completes. -/
theorem wellFormedCommandsComplete : Obligations.WellFormedCommandsComplete := by
  intro c s
  cases h : c.arriving with
  | none =>
    obtain ⟨ok, completes⟩ := exec_not_arriving h s
    exact ⟨fun _ => completes, fun bad => absurd ok (Bool.eq_false_iff.1 bad)⟩
  | some x =>
    obtain ⟨arrives, ok⟩ := exec_arriving h s
    rw [arrives, ok]
    exact arrival_completes x s
end

section
/-! PROOFS. Transactions arriving on the P-side: passed ones (O21), reads judged at their arrival (O15), and index words (O20). -/

namespace Sys2Proof.Machine

/-! ### Acceptance -/

/-- A fold whose function leaves its start as it is, for every element of the list. -/
theorem foldl_unchanged {α β : Type} {f : β → α → β} {b : β} {l : List α} (h : ∀ x ∈ l, f b x = b) : l.foldl f b = b := by
  induction l with
  | nil => rfl
  | cons x l ih =>
    rw [List.foldl_cons, h x List.mem_cons_self]
    exact ih fun y hy => h y (List.mem_cons_of_mem _ hy)

/-- An accepted write: its portions are handed on, and it joins the P-side line (R2, R3). -/
theorem arrival_write {s : State} {w : WriteTxn} (h : s.accepts (.write w)) : arrival (.write w) s =
    .next (((s.path.portions w.addr w.words.length).foldl (fun s q => s.writePortion w q) s).joined (.write w)) := by
  obtain ⟨settled, ok, room⟩ := h
  rw [arrival_accepted settled ok]
  exact congrArg _ (if_pos room)

/-- The portions of a read handed on to the part: the state with the seen marks raised, and the verdicts held. -/
def State.judgeRead (r : ReadTxn) (s : State) : State × List HeldPortion := (s.path.portions r.addr r.len).foldl (readPortion r) (s, [])

/-- An accepted read: its portions are judged, and it joins the P-side line with its verdicts (R2, R59). -/
theorem arrival_read {s : State} {r : ReadTxn} (h : s.accepts (.read r)) :
    arrival (.read r) s = .next ((s.judgeRead r).1.joined (.read r (s.judgeRead r).2)) := by
  obtain ⟨settled, ok, room⟩ := h
  rw [arrival_accepted settled ok]
  exact congrArg _ (if_pos room)

/-- While the P-side holds 8 transactions nothing arrives (R2; log 7). -/
theorem arrival_full {s : State} {x : Txn} (settled : s.settled) (ok : x.ok = true) (full : Config.pSideCapacity ≤ s.path.pSide.length) :
    arrival x s = .next s := by
  rw [arrival_accepted settled ok]
  cases x with
  | write w => exact congrArg _ (if_neg (Nat.not_lt.2 full))
  | read r => exact congrArg _ (if_neg (Nat.not_lt.2 full))

/-! ### Portions of a read -/

/-- A portion outside the stream slots is not judged (R3). -/
theorem readPortion_elsewhere (r : ReadTxn) (a : State × List HeldPortion) {q : Portion}
    (h : ∀ ring slot, q.region ≠ .streamSlot ring slot) : readPortion r a q = a := by
  unfold readPortion
  split
  · next ring slot e => exact absurd e (h ring slot)
  all_goals rfl

/-- A portion in a stream slot is judged when the initiator is in the ring's reader set (R5, R59). -/
theorem readPortion_stream (r : ReadTxn) (s : State) (held : List HeldPortion) {q : Portion} {ring : Fin 4} {slot : Nat} {win : Window}
    (hq : q.region = .streamSlot ring slot) (hw : s.path.streams[ring] = some win) :
    readPortion r (s, held) q =
      if s.isReader win r.initiator then
        (s.raiseSeen (s.marks (s.slots.tag ring slot) (s.judge (s.slots.tag ring slot)) q),
          held ++ [⟨q.start, q.first, q.count, (s.judge (s.slots.tag ring slot)).verdict⟩])
      else (s, held) := by
  unfold readPortion
  rw [hq]
  dsimp only
  rw [hw]

/-- A portion read by an initiator in no attached ring's reader set is not judged (R5, R67). -/
theorem readPortion_noReader (r : ReadTxn) {s : State} (held : List HeldPortion) (q : Portion)
    (h : ∀ (ring : Fin 4) (win : Window), s.path.streams[ring] = some win → s.isReader win r.initiator = false) :
    readPortion r (s, held) q = (s, held) := by
  by_cases hq : ∃ ring slot, q.region = .streamSlot ring slot
  · obtain ⟨ring, slot, hq⟩ := hq
    cases hw : s.path.streams[ring] with
    | none => unfold readPortion; rw [hq]; dsimp only; rw [hw]
    | some win => rw [readPortion_stream r s held hq hw, h ring win hw]; rfl
  · exact readPortion_elsewhere r _ fun ring slot e => hq ⟨ring, slot, e⟩

/-- The seen mark of a delivered PAY cell's event, with a payload word covered (R73). -/
theorem State.marks_some {s : State} {tag : Option SlotTag} {t : SlotTag} {e : ServiceEntry} {v : EventEntry} {j : Judgement}
    {q : Portion} (ht : tag = some t) (he : s.slots.service t.service = some e) (hc : e.cls = .pay)
    (hv : s.events.byTag t.service t.eventTag = some v) (hj : j.step = 8 ∨ j.step = 10) (hq : 1 < q.first + q.count) :
    s.marks tag j q = some v := by
  subst ht
  have : q.coversPayload = true := decide_eq_true hq
  simp [State.marks, he, hc, hj, this, hv]

/-- No mark is raised where nothing is delivered, no payload word is covered or the service is not PAY (R73). -/
theorem State.marks_none {s : State} {tag : Option SlotTag} {j : Judgement} {q : Portion}
    (h : q.first + q.count ≤ 1 ∨ (j.step ≠ 8 ∧ j.step ≠ 10) ∨
      ∀ t e, tag = some t → s.slots.service t.service = some e → e.cls ≠ .pay) : s.marks tag j q = none := by
  unfold State.marks
  split
  · rfl
  · next t =>
    split
    · rfl
    · next e he =>
      refine if_neg fun ⟨hj, hc, hq⟩ => ?_
      rcases h with h | ⟨h8, h10⟩ | h
      · exact absurd (of_decide_eq_true hq) (Nat.not_lt.2 h)
      · exact hj.elim h8 h10
      · exact h t e rfl he hc

/-! ### A read that passes from one region into another -/

/-- A held portion whose place in the transaction is `m` words later. -/
def HeldPortion.later (m : Nat) (h : HeldPortion) : HeldPortion := { h with start := h.start + m }

/-- The verdict of a portion joins those held already, and its place in the transaction moves with the portion's. -/
theorem readPortion_shift (r : ReadTxn) (m : Nat) (s : State) (held : List HeldPortion) (q : Portion) :
    readPortion r (s, held) (q.shift m) =
      ((readPortion r (s, []) q).1, held ++ (readPortion r (s, []) q).2.map (HeldPortion.later m)) := by
  by_cases hq : ∃ ring slot, q.region = .streamSlot ring slot
  · obtain ⟨ring, slot, hq⟩ := hq
    have hq' : (q.shift m).region = .streamSlot ring slot := hq
    cases hw : s.path.streams[ring] with
    | none => unfold readPortion; rw [hq, hq']; dsimp only; rw [hw]; simp
    | some win =>
      rw [readPortion_stream r s held hq' hw, readPortion_stream r s [] hq hw]
      split
      · rfl
      · simp
  · have hq : ∀ ring slot, q.region ≠ .streamSlot ring slot := fun ring slot e => hq ⟨ring, slot, e⟩
    rw [readPortion_elsewhere r _ hq, readPortion_elsewhere r _ (q := q.shift m) hq]
    simp

/-- What a portion's judging comes to does not depend on the verdicts held already. -/
theorem readPortion_held (r : ReadTxn) (s : State) (held : List HeldPortion) (q : Portion) :
    readPortion r (s, held) q = ((readPortion r (s, []) q).1, held ++ (readPortion r (s, []) q).2) := by
  have h := readPortion_shift r 0 s held q
  rwa [show Portion.shift 0 q = q from rfl, show HeldPortion.later 0 = id from rfl, List.map_id] at h

theorem readPortions_held (r : ReadTxn) (l : List Portion) (s : State) (held : List HeldPortion) : l.foldl (readPortion r) (s, held) =
    ((l.foldl (readPortion r) (s, [])).1, held ++ (l.foldl (readPortion r) (s, [])).2) := by
  induction l generalizing s held with
  | nil => simp
  | cons q l ih =>
    rw [List.foldl_cons, List.foldl_cons, readPortion_held, ih, ih (readPortion r (s, []) q).1 (readPortion r (s, []) q).2,
      List.append_assoc]

/-- Portions that stand `m` words later raise the same marks, and their verdicts stand `m` words later. -/
theorem readPortions_shift (r : ReadTxn) (m : Nat) (l : List Portion) (s : State) (held : List HeldPortion) :
    (l.map (Portion.shift m)).foldl (readPortion r) (s, held) =
      ((l.foldl (readPortion r) (s, [])).1, held ++ (l.foldl (readPortion r) (s, [])).2.map (HeldPortion.later m)) := by
  induction l generalizing s held with
  | nil => simp
  | cons q l ih =>
    rw [List.map_cons, List.foldl_cons, List.foldl_cons, readPortion_shift, ih,
      readPortions_held r l (readPortion r (s, []) q).1 (readPortion r (s, []) q).2, List.map_append, List.append_assoc]

/-- Of a read, judging its portions depends on the initiator alone. -/
theorem readPortion_initiator {r r' : ReadTxn} (h : r.initiator = r'.initiator) : readPortion r = readPortion r' := by
  unfold readPortion
  rw [h]

@[simp] theorem State.judgeRead_path (r : ReadTxn) (s : State) : (s.judgeRead r).1.path = s.path := readPortions_path r _ (s, [])

@[simp] theorem State.judgeRead_owed (r : ReadTxn) (s : State) : (s.judgeRead r).1.owed = s.owed := by
  have : ∀ (l : List Portion) (a : State × List HeldPortion), (l.foldl (readPortion r) a).1.owed = a.1.owed := by
    intro l
    induction l with
    | nil => exact fun _ => rfl
    | cons q l ih =>
      intro a
      refine (ih _).trans ?_
      rcases readPortion_cases r a q with h | ⟨id, h⟩ <;> rw [h]
  exact this _ (s, [])

/-- A read that passes into another region before its word `m` is judged as its two parts, one after the other (R3, R59). -/
theorem State.judgeRead_split {s : State} {r front back : ReadTxn} {m : Nat} (ok : burstOk r.addr r.len = true) (h0 : 0 < m)
    (h1 : m < r.len) (hb : (s.path.locate (r.addr.toNat + 8 * (m - 1))).1 ≠ (s.path.locate (r.addr.toNat + 8 * m)).1)
    (hf : front = ⟨r.initiator, r.addr, m⟩) (hk : back = ⟨r.initiator, BitVec.ofNat 32 (r.addr.toNat + 8 * m), r.len - m⟩) :
    s.judgeRead r = (((s.judgeRead front).1.judgeRead back).1,
      (s.judgeRead front).2 ++ ((s.judgeRead front).1.judgeRead back).2.map (HeldPortion.later m)) := by
  obtain ⟨parts, -, -⟩ := s.path.portions_split r.addr r.len m h0 h1 ok hb
  have sameFront : readPortion front = readPortion r := readPortion_initiator (by rw [hf])
  have sameBack : readPortion back = readPortion r := readPortion_initiator (by rw [hk])
  have path : (s.judgeRead front).1.path = s.path := State.judgeRead_path front s
  generalize hs : s.judgeRead front = a at *
  unfold State.judgeRead at hs ⊢
  rw [parts, List.foldl_append, path, sameBack]
  rw [sameFront] at hs
  subst hf hk
  dsimp only at hs ⊢
  rw [hs]
  exact readPortions_shift r m _ a.1 a.2

/-! ### Index words -/

/-- Index word `n` lies at its place in the anchor page (R7, R8). -/
theorem PathUnit.locate_index (p : PathUnit) {n a : Nat} (hn : n < 8) (ha : a = p.anchorBase + 0xC00 + 8 * n) :
    p.locate a = (.indexBlock, n) := by
  unfold PathUnit.locate
  rw [if_pos (by omega), if_pos (by omega)]
  congr 1
  omega

/-- A burst over index words from word `n` on is one portion of them. -/
theorem PathUnit.portions_index (p : PathUnit) {addr : BitVec 32} {len n : Nat} (h0 : 0 < len) (h : n + len ≤ 8)
    (ha : addr.toNat = p.anchorBase + 0xC00 + 8 * n) : p.portions addr len = [⟨.indexBlock, n, 0, len⟩] :=
  p.portions_single addr len .indexBlock n h0 fun _ hj => p.locate_index (by omega) (by omega)

/-- Index words are taken one by one, in ascending order (R9). -/
theorem RequestUnit.indexWords_eq_foldl (q : RequestUnit) (n : Nat) (ws : List WriteWord) :
    q.indexWords n ws = (List.range ws.length).foldl (fun q j => q.indexWord (n + j) (ws.getD j ⟨0#64, 0#8⟩)) q := by
  induction ws generalizing q n with
  | nil => rfl
  | cons x ws ih =>
    rw [RequestUnit.indexWords, ih, List.length_cons, List.range_succ_eq_map, List.foldl_cons, List.foldl_map]
    have later : (fun (q : RequestUnit) j => q.indexWord (n + 1 + j) (ws.getD j ⟨0#64, 0#8⟩)) =
        fun q j => q.indexWord (n + Nat.succ j) ((x :: ws).getD (Nat.succ j) ⟨0#64, 0#8⟩) := by
      funext q j
      rw [Nat.add_assoc, Nat.add_comm 1 j, List.getD_cons_succ]
    rw [later]
    rfl

/-- A write over index words hands them to the request unit and joins the P-side line (R9). -/
theorem arrival_index {s : State} {w : WriteTxn} {n : Nat} (h : s.accepts (.write w)) (hn : n + w.words.length ≤ 8)
    (ha : w.addr.toNat = s.path.anchorBase + 0xC00 + 8 * n) :
    arrival (.write w) s = .next ({ s with req := s.req.indexWords n w.words }.joined (.write w)) := by
  have ⟨_, ok, _⟩ := h
  rw [arrival_write h, s.path.portions_index (burstOk_pos ok) hn ha]
  simp [State.writePortion, portionWords]

/-- A write over one index word (R9). -/
theorem arrival_indexWord {s : State} {w : WriteTxn} {x : WriteWord} {n : Nat} (h : s.accepts (.write w)) (hw : w.words = [x])
    (hn : n < 8) (ha : w.addr.toNat = s.path.anchorBase + 0xC00 + 8 * n) :
    arrival (.write w) s = .next ({ s with req := s.req.indexWord n x }.joined (.write w)) := by
  rw [arrival_index h (by rw [hw]; exact hn) ha, hw]
  rfl

theorem RequestUnit.indexWord_full (q : RequestUnit) (n : Nat) {x : WriteWord} (h : x.enables = 0xFF#8) :
    q.indexWord n x = q.writeIndex n (x.data.extractLsb' 0 16) := if_pos h

/-- Words 3 to 7 of the index block, and a word with any byte enable off, are ignored (R9). -/
theorem RequestUnit.indexWord_ignored (q : RequestUnit) {n : Nat} {x : WriteWord} (h : 3 ≤ n ∨ x.enables ≠ 0xFF#8) :
    q.indexWord n x = q := by
  unfold RequestUnit.indexWord
  split
  · next full =>
    have three : 3 ≤ n := h.resolve_right fun off => off full
    obtain ⟨m, rfl⟩ : ∃ m, n = m + 3 := ⟨n - 3, by omega⟩
    rfl
  · rfl

theorem RequestUnit.serving_iff (q : RequestUnit) : q.serving = true ↔ q.service ≠ .idle := by
  unfold RequestUnit.serving
  cases q.service <;> simp

/-- A written request-produce value is taken by the test of R10. -/
theorem RequestUnit.takesProduce_iff (q : RequestUnit) (v : BitVec 16) :
    q.takesProduce v = true ↔ (v - q.requestConsume).toNat ≤ 16 ∧ ¬(q.service ≠ .idle ∧ v = q.requestConsume) := by
  simp only [RequestUnit.takesProduce, Bool.and_eq_true, decide_eq_true_eq, Bool.not_eq_true', Bool.eq_false_iff, ne_eq,
    beq_iff_eq, q.serving_iff]

/-- What an index write leaves of what the attention line depends on, but for the consume values (R19). -/
theorem RequestUnit.indexWord_written (q : RequestUnit) (n : Nat) (x : WriteWord) :
    (q.indexWord n x).startGranted = q.startGranted ∧ (q.indexWord n x).writtenAnswer = q.writtenAnswer ∧
      (q.indexWord n x).writtenBill = q.writtenBill := by
  unfold RequestUnit.indexWord
  split
  · unfold RequestUnit.writeIndex
    split
    · split <;> exact ⟨rfl, rfl, rfl⟩
    · split <;> exact ⟨rfl, rfl, rfl⟩
    · split <;> exact ⟨rfl, rfl, rfl⟩
    · exact ⟨rfl, rfl, rfl⟩
  · exact ⟨rfl, rfl, rfl⟩

/-- The attention line stands by the written and the consume values once the START notice's index write has been granted (R19, R177). -/
theorem State.attention_iff (s : State) : s.attention = true ↔ s.req.startGranted = true ∧
    (s.req.writtenAnswer ≠ s.req.answerConsume ∨ s.req.writtenBill ≠ s.req.billConsume) := by
  simp [State.attention]

/-- The attention line depends on the request unit alone. -/
theorem State.attention_congr {s t : State} (h : t.req = s.req) : t.attention = s.attention := by
  unfold State.attention; rw [h]

end Sys2Proof.Machine

open Sys2Proof Sys2Proof.Machine

/-- Settles O21: no portion of a passed transaction is one the part acts on. -/
theorem passedTransactionsTouchNothing : Obligations.PassedTransactionsTouchNothing := by
  refine ⟨⟨fun s w h passed => ?_, fun s r h elsewhere => ?_⟩, fun s r h noReader => ?_, fun s c x settled hc ok full => ?_⟩
  · have untouched : (s.path.portions w.addr w.words.length).foldl (fun s q => s.writePortion w q) s = s :=
      foldl_unchanged fun q hq => by
        obtain ⟨j, hj, region⟩ := s.path.portions_region _ _ q hq
        unfold State.writePortion
        rcases passed j hj with k | k <;> rw [← region, k]
    exact (arrival_write h).trans (by rw [untouched])
  · have : s.judgeRead r = (s, []) := foldl_unchanged fun q hq => readPortion_elsewhere r _ fun ring slot e => by
      obtain ⟨j, hj, region⟩ := s.path.portions_region _ _ q hq
      exact elsewhere j ring slot hj (region.trans e)
    exact (arrival_read h).trans (by rw [this])
  · have outsider : ∀ (ring : Fin 4) (win : Window), s.path.streams[ring] = some win → s.isReader win r.initiator = false :=
      fun ring win hw => Bool.and_eq_false_iff.2 (noReader ring win hw)
    have : s.judgeRead r = (s, []) := foldl_unchanged fun q _ => readPortion_noReader r [] q outsider
    have passed := arrival_read h
    rw [this] at passed
    exact ⟨passed, passed⟩
  · rw [(exec_arriving hc s).1]
    exact arrival_full settled ok full

/-- Settles O15: a read within one slot is one judged portion; a longer one is judged as its parts are. -/
theorem readIsJudgedOnArrival : Obligations.ReadIsJudgedOnArrival := by
  constructor
  · intro s r ring slot k win h hw inSlot tag verdict isReader
    have ⟨_, ok, _⟩ := h
    have one : s.judgeRead r = readPortion r (s, []) ⟨.streamSlot ring slot, k, 0, r.len⟩ := by
      rw [State.judgeRead, s.path.portions_single r.addr r.len _ k (burstOk_pos ok) inSlot]
      rfl
    have arrives : exec (.streamSlotRead r) s = .next ((s.judgeRead r).1.joined (.read r (s.judgeRead r).2)) := arrival_read h
    rw [arrives, one, readPortion_stream r s [] rfl hw, show s.isReader win r.initiator = isReader from rfl]
    refine ⟨fun no => by rw [no]; rfl, fun yes => ⟨fun t e v ht he hc hv hj pay => ?_, fun undelivered => ?_⟩⟩
    · rw [yes, if_pos rfl, State.marks_some ht he hc hv hj pay]
      rfl
    · have unmarked : s.marks tag (s.judge tag) ⟨.streamSlot ring slot, k, 0, r.len⟩ = none :=
        State.marks_none (undelivered.imp_left fun ⟨first, one⟩ => by dsimp only; omega)
      rw [yes, if_pos rfl, unmarked]
      rfl
  · intro s r m h h0 h1 hb front back
    have ⟨settled, ok, room⟩ := h
    obtain ⟨-, okFront, okBack⟩ := s.path.portions_split r.addr r.len m h0 h1 ok hb
    have hf : s.accepts (.read front) := ⟨settled, okFront, room⟩
    have hk : (s.judgeRead front).1.accepts (.read back) :=
      ⟨(State.judgeRead_owed front s).trans settled, okBack, by rw [State.judgeRead_path]; exact room⟩
    refine ⟨(s.judgeRead front).1, ((s.judgeRead front).1.judgeRead back).1, (s.judgeRead front).2,
      ((s.judgeRead front).1.judgeRead back).2, State.judgeRead_path front s, ?_, arrival_read hf, arrival_read hk, ?_⟩
    · rw [State.judgeRead_path, State.judgeRead_path]
    · refine (arrival_read h).trans ?_
      rw [State.judgeRead_split (front := front) (back := back) ok h0 h1 hb rfl rfl]
      rfl

/-- Settles O20: a burst over index words is one portion, whose words are taken one by one. -/
theorem indexWordsTakenOrIgnored : Obligations.IndexWordsTakenOrIgnored := by
  refine ⟨fun s w x n h hw hn ha => ?_, fun s w n h hn ha => ?_, fun s w x n h hw hn _ ha => ?_⟩
  · have arrives := arrival_indexWord h hw hn ha
    refine ⟨fun h0 full => arrives.trans ?_, fun h1 full => arrives.trans ?_, fun h2 full => arrives.trans ?_,
      fun ignored => arrives.trans ?_⟩
    · subst h0
      rw [RequestUnit.indexWord_full _ _ full]
      simp only [RequestUnit.writeIndex, RequestUnit.takesProduce_iff]
      split <;> rfl
    · subst h1
      rw [RequestUnit.indexWord_full _ _ full]
      simp only [RequestUnit.writeIndex, takesConsume, decide_eq_true_eq]
      split <;> rfl
    · subst h2
      rw [RequestUnit.indexWord_full _ _ full]
      simp only [RequestUnit.writeIndex, takesConsume, decide_eq_true_eq]
      split <;> rfl
    · rw [RequestUnit.indexWord_ignored _ ignored]
  · have arrives := arrival_index h hn ha
    rw [RequestUnit.indexWords_eq_foldl] at arrives
    exact ⟨arrives, arrives⟩
  · refine ⟨_, arrival_indexWord h hw (by omega) ha, ?_⟩
    obtain ⟨started, answer, bill⟩ := s.req.indexWord_written n x
    rw [State.attention_iff]
    dsimp only [State.joined]
    rw [started, answer, bill]
end

section
/-! PROOFS. The memory side: what a grant does (O22), the bytes a granted write stores (O23) and a reset leaves of it (O58), and the words
a read returns (O18). -/

namespace Sys2Proof.Machine

/-! ### Bytes stored -/

/-- A byte within the words stored: that of its word where the word's enable is on, and as before where it is off (R1). -/
theorem Memory.get_setWords_inside {m : Memory} {a j i : Nat} {ws : List WriteWord} {x : WriteWord} (h : m.wf = true)
    (hx : ws[j]? = some x) (hi : i < 8) : Memory.get (m.setWords a ws) (a + 8 * j + i) =
      if x.enables.getLsbD i = true then byteOf x.data i else Memory.get m (a + 8 * j + i) := by
  induction ws generalizing m a j with
  | nil => cases hx
  | cons w ws ih =>
    have ok := Memory.wf_setWord a w h
    rw [Memory.setWords]
    cases j with
    | zero =>
      cases hx
      rw [Memory.get_setWords_outside (a + 8) _ ws ok (by omega), Memory.get_setWord x a _ h]
      have place : a + 8 * 0 + i - a = i := by omega
      have within : a ≤ a + 8 * 0 + i ∧ a + 8 * 0 + i < a + 8 := by omega
      simp only [place, within, true_and]
    | succ j =>
      have moved : a + 8 * (j + 1) + i = a + 8 + 8 * j + i := by omega
      have beyond : ¬(a ≤ a + 8 + 8 * j + i ∧ a + 8 + 8 * j + i < a + 8 ∧ w.enables.getLsbD (a + 8 + 8 * j + i - a) = true) := by
        omega
      rw [moved, ih ok hx, Memory.get_setWord w a _ h, if_neg beyond]

theorem partWords_length (performed : BitVec 128) (n : Nat) (ws : List WriteWord) : (partWords performed n ws).length = ws.length := by
  induction ws generalizing n with
  | nil => rfl
  | cons w ws ih => rw [partWords, List.length_cons, ih, List.length_cons]

/-- Of a word of a write, the enables that memory had performed are left (R20). -/
theorem partWords_getElem? {performed : BitVec 128} {n j : Nat} {ws : List WriteWord} {x : WriteWord} (h : ws[j]? = some x) :
    (partWords performed n ws)[j]? = some { x with enables := x.enables &&& performed.extractLsb' (8 * (n + j)) 8 } := by
  induction ws generalizing n j with
  | nil => cases h
  | cons w ws ih =>
    cases j with
    | zero => cases h; rfl
    | succ j =>
      have later : n + 1 + j = n + (j + 1) := by omega
      exact later ▸ ih (n := n + 1) h

/-! ### Grants -/

theorem exec_grant {s : State} (h : s.settled) : exec .msideGrant s = .next s.grant := act_settled _ h

/-- With nothing under way the arbiter makes the next grant (R18). -/
theorem State.grant_free {s : State} (h : s.path.underWay = none) : s.grant = s.arbitrate := by
  unfold State.grant; rw [h]

/-- A write under way is performed before the next grant (R18; log 2). -/
theorem State.grant_write {s : State} {g : Granted} {a : Nat} {ws : List WriteWord} (h : s.path.underWay = some g)
    (hw : g.writes s.path.anchorBase = some (a, ws)) :
    s.grant = State.arbitrate { s with mem := s.mem.setWords a ws, path := { s.path with underWay := none } } := by
  unfold State.grant State.performWrite Memory.perform
  rw [h]
  dsimp only
  rw [hw]

/-- While a read's words have not come back no grant is made (R18). -/
theorem State.grant_read {s : State} {g : Granted} (h : s.path.underWay = some g) (hw : g.writes s.path.anchorBase = none) :
    s.grant = s := by
  unfold State.grant
  rw [h]
  dsimp only
  rw [hw]

theorem State.arbitrate_idle {s : State} (hp : s.path.pSide = []) (ho : s.path.own = []) : s.arbitrate = s := by
  unfold State.arbitrate; rw [hp, ho]

theorem State.arbitrate_pSide {s : State} {c : Carried} {rest : List Carried} (hp : s.path.pSide = c :: rest) (ho : s.path.own = []) :
    s.arbitrate = s.grantPSide c rest s.path.ownWait := by
  unfold State.arbitrate; rw [hp, ho]

theorem State.arbitrate_own {s : State} {o : OwnTxn} {rest : List OwnTxn} (hp : s.path.pSide = []) (ho : s.path.own = o :: rest) :
    s.arbitrate = s.grantOwn o rest := by
  unfold State.arbitrate; rw [hp, ho]

/-- Of two oldest transactions the P-side's is granted until the own one has waited through four grants (R18). -/
theorem State.arbitrate_both {s : State} {c : Carried} {prest : List Carried} {o : OwnTxn} {orest : List OwnTxn}
    (hp : s.path.pSide = c :: prest) (ho : s.path.own = o :: orest) :
    s.arbitrate = if s.path.ownWait < 4 then s.grantPSide c prest (s.path.ownWait + 1) else s.grantOwn o orest := by
  unfold State.arbitrate; rw [hp, ho]; rfl

@[simp] theorem State.arbitrate_mem (s : State) : s.arbitrate.mem = s.mem := by
  unfold State.arbitrate
  split
  · rfl
  · rfl
  · rfl
  · split <;> rfl

/-- An own grant made whenever one waits and either the P-side is empty or the count has reached 4 (R18). -/
theorem State.arbitrate_ownTurn {s : State} {o : OwnTxn} {rest : List OwnTxn} (ho : s.path.own = o :: rest)
    (turn : s.path.pSide = [] ∨ 4 ≤ s.path.ownWait) : s.arbitrate = s.grantOwn o rest := by
  cases hp : s.path.pSide with
  | nil => exact State.arbitrate_own hp ho
  | cons c prest =>
    rw [State.arbitrate_both hp ho, if_neg]
    rcases turn with h | h
    · rw [hp] at h; cases h
    · omega

/-- Otherwise the grant leaves the request unit, and with it the attention line, as they are (R19). -/
theorem State.arbitrate_req {s : State} (turn : s.path.own = [] ∨ (s.path.pSide ≠ [] ∧ s.path.ownWait < 4)) :
    s.arbitrate.req = s.req := by
  cases ho : s.path.own with
  | nil =>
    cases hp : s.path.pSide with
    | nil => rw [State.arbitrate_idle hp ho]
    | cons c rest => rw [State.arbitrate_pSide hp ho]; rfl
  | cons o orest =>
    obtain ⟨p, wait⟩ := turn.resolve_left (by rw [ho]; exact List.cons_ne_nil _ _)
    cases hp : s.path.pSide with
    | nil => exact absurd hp p
    | cons c rest => rw [State.arbitrate_both hp ho, if_pos wait]; rfl

/-- The written values of R19 after an own grant, value by value. -/
theorem RequestUnit.written_eq (q : RequestUnit) (o : OwnTxn) : q.written o = { q with
    writtenAnswer := match o with | .index .answerProduce v => v | _ => q.writtenAnswer
    writtenBill := match o with | .index .billProduce v => v | _ => q.writtenBill
    startGranted := match o with | .index .answerProduce v => q.startGranted || decide (v ≠ 0#16) | _ => q.startGranted } := by
  cases o with
  | fetch n => rfl
  | record n ws => rfl
  | index i v =>
    cases i with
    | requestConsume => rfl
    | billProduce => rfl
    | answerProduce =>
      have differs : (v != 0#16) = decide (v ≠ 0#16) := by rw [Bool.eq_iff_iff]; simp
      rw [RequestUnit.written, differs]

/-- Only an own write of index word 4 or 5 changes a written value (R19). -/
theorem RequestUnit.written_other (q : RequestUnit) {o : OwnTxn}
    (h : ∀ v, o ≠ .index .answerProduce v ∧ o ≠ .index .billProduce v) : q.written o = q := by
  cases o with
  | fetch n => rfl
  | record n ws => rfl
  | index i v =>
    cases i with
    | requestConsume => rfl
    | answerProduce => exact absurd rfl (h v).1
    | billProduce => exact absurd rfl (h v).2

/-- An issue that the queue has room for, with nothing waiting before it, joins the queue (R17). -/
theorem PathUnit.issue_room {p : PathUnit} {l : List OwnTxn} (waiting : p.toIssue = []) (room : p.own.length + l.length ≤ 16) :
    p.issue l = { p with own := p.own ++ l } := by
  have fits : l.length ≤ Config.ownCapacity - p.own.length := by
    have : Config.ownCapacity = 16 := rfl
    omega
  simp only [PathUnit.issue, PathUnit.fill, waiting, List.nil_append, List.take_of_length_le fits, List.drop_of_length_le fits]

/-! ### Words returned -/

/-- The words of a P-side read under way come back (R66). -/
theorem exec_returnRead {s : State} {r : ReadTxn} {held : List HeldPortion} (h : s.settled)
    (hu : s.path.underWay = some (.pSide (.read r held))) : exec .readWordsReturn s = .next { s with path := { s.path with
      underWay := none, readReturn := some ⟨r.initiator, r.addr, returnWords s.mem r held⟩ } } := by
  refine (act_settled _ h).trans ?_
  unfold State.returnRead
  rw [hu]

theorem returnWords_length (m : Memory) (r : ReadTxn) (held : List HeldPortion) : (returnWords m r held).length = r.len := by
  simp [returnWords]

theorem returnWords_getElem? (m : Memory) {r : ReadTxn} (held : List HeldPortion) {j : Nat} (hj : j < r.len) :
    (returnWords m r held)[j]? = some (returnWord held j (m.word (r.addr.toNat + 8 * j))) := by
  simp [returnWords, hj]

/-- A word of no judged portion comes back as stored (R1). -/
theorem returnWord_stored {held : List HeldPortion} {j : Nat} (stored : Word) (h : ∀ x ∈ held, j < x.start ∨ x.start + x.count ≤ j) :
    returnWord held j stored = stored := by
  unfold returnWord; rw [heldAt_none h]

/-- A word of a judged portion comes back by that portion's verdict (R66). -/
theorem returnWord_judged {held : List HeldPortion} {j : Nat} {h : HeldPortion} (stored : Word)
    (apart : held.Pairwise fun h h' => h.start + h.count ≤ h'.start) (hm : h ∈ held) (h1 : h.start ≤ j) (h2 : j < h.start + h.count) :
    returnWord held j stored = h.verdict.word (h.first + (j - h.start)) stored := by
  unfold returnWord; rw [heldAt_of_mem apart hm h1 h2]

theorem Verdict.word_descramble (key : Word) (service : BitVec 12) (count : BitVec 16) (k : Nat) (stored : Word) :
    (Verdict.descramble key service count).word k stored = if k = 0 then stored else
      stored ^^^ mix (key ^^^ BitVec.ofNat 64 (service.toNat * 2 ^ 32 + count.toNat * 2 ^ 8 + k)) := rfl

theorem Verdict.word_slate (header : Word) (bytes : BitVec 960) (k : Nat) (stored : Word) :
    (Verdict.slate header bytes).word k stored = if k = 0 then header else bytes.extractLsb' (64 * (k - 1)) 64 := rfl

end Sys2Proof.Machine

open Sys2Proof Sys2Proof.Machine

/-- Settles O23: the write is stored before the arbiter, which leaves memory alone, makes its grant. -/
theorem grantedWriteReachesMemory : Obligations.GrantedWriteReachesMemory := by
  refine ⟨fun s g a ws settled ok hu hw => ⟨_, exec_grant settled, ?_⟩, fun s g settled hu hw => ?_⟩
  · rw [State.grant_write hu hw, State.arbitrate_mem]
    exact ⟨fun c hc => Memory.get_setWords_outside a c ws ok hc, fun j i x hx hi => Memory.get_setWords_inside ok hx hi⟩
  · rw [exec_grant settled, State.grant_read hu hw]

/-- Settles O58: every reset value stands in `State.reset`, and memory keeps the bytes that were performed. -/
theorem resetTaken : Obligations.ResetTaken := by
  intro s straps performed
  refine ⟨s.memAtReset performed, rfl, fun hu => ?_, fun g hu hw => ?_, fun g a ws ok hu hw => ?_,
    ⟨rfl, rfl, rfl, rfl, rfl, rfl, fun ring => ⟨by simp [State.reset, PathUnit.reset], State.reset_tags ring⟩⟩,
    ⟨rfl, rfl, rfl, rfl, rfl, rfl, rfl, rfl, rfl, rfl, rfl, rfl, rfl⟩,
    ⟨fun i => ?_, KeyPool.slot_reset, rfl, rfl⟩, fun i => by simp [State.reset], rfl, rfl, rfl, rfl, rfl, rfl, rfl, rfl, rfl, rfl, rfl,
    rfl, rfl, rfl, fun u hu => by cases hu; rfl⟩
  · unfold State.memAtReset; rw [hu]
  · simp only [State.memAtReset, hu, Memory.performPart, hw]
  · have part : s.memAtReset performed = s.mem.setWords a (partWords performed 0 ws) := by
      simp only [State.memAtReset, hu, Memory.performPart, hw]
    rw [part]
    refine ⟨fun c hc => ?_, fun j i x hx hi => ?_⟩
    · exact Memory.get_setWords_outside a c _ ok (by rw [partWords_length]; exact hc)
    · rw [Memory.get_setWords_inside ok (partWords_getElem? hx) hi]
      simp [hi]
  · have entry : State.reset.keys.pool[i] = _ := KeyPool.pool_reset i
    exact ⟨congrArg PoolEntry.state entry, congrArg PoolEntry.stamp entry, congrArg PoolEntry.refs entry⟩

/-- Settles O18: each word comes back by the one held portion that covers it, if any. -/
theorem readWordsReturned : Obligations.ReadWordsReturned := by
  refine ⟨fun s r k v settled hu => ⟨_, exec_returnRead settled hu, returnWords_length .., fun j hj => ?_⟩,
    fun s r settled hu => ?_,
    fun s r held settled hu apart => ⟨_, exec_returnRead settled hu, returnWords_length .., fun j hj => ?_⟩⟩
  · have judged : returnWord [⟨0, k, r.len, v⟩] j (s.mem.word (r.addr.toNat + 8 * j)) =
        v.word (k + j) (s.mem.word (r.addr.toNat + 8 * j)) :=
      returnWord_judged (h := ⟨0, k, r.len, v⟩) _ (List.pairwise_singleton _ _) List.mem_cons_self (Nat.zero_le j) (by simpa using hj)
    rw [returnWords_getElem? s.mem _ hj, judged]
    refine ⟨fun hv => by rw [hv]; rfl, fun key service count hv => ?_, fun header bytes hv => ?_⟩
    · rw [hv, Verdict.word_descramble]
      exact ⟨fun h => by rw [if_pos h], fun h => by rw [if_neg h]⟩
    · rw [hv, Verdict.word_slate]
      exact ⟨fun h => by rw [if_pos h], fun h => by rw [if_neg h]⟩
  · rw [exec_returnRead settled hu]
    rfl
  · rw [returnWords_getElem? s.mem held hj]
    refine ⟨fun outside => by rw [returnWord_stored _ outside], fun h hm h1 h2 => ?_⟩
    rw [returnWord_judged _ apart hm h1 h2]
    refine ⟨fun hv => by rw [hv]; rfl, fun key service count hv => ?_, fun header bytes hv => ?_⟩
    · rw [hv, Verdict.word_descramble]
    · rw [hv, Verdict.word_slate]

/-- Settles O22: the arbiter by its branches, and the attention line by what a grant writes of it. -/
theorem grantFollowsTheCount : Obligations.GrantFollowsTheCount := by
  refine ⟨fun s settled free => ?_, fun s g a ws settled hu hw => ?_, fun p txns => ⟨?_, fun h => ⟨?_, ?_⟩, PathUnit.issue_room⟩,
    fun s => ⟨s.attention_iff, fun settled free => ?_⟩⟩
  · intro pGrant ownGrant
    have own : ∀ o rest, s.grantOwn o rest = ownGrant o rest := fun o rest => by
      unfold State.grantOwn
      rw [RequestUnit.written_eq] <;> rfl
    rw [exec_grant settled, State.grant_free free]
    refine ⟨fun hp ho => by rw [State.arbitrate_idle hp ho], fun c rest hp ho => by rw [State.arbitrate_pSide hp ho]; rfl,
      fun o rest hp ho => by rw [State.arbitrate_own hp ho, own], fun c prest o orest hp ho wait => ?_,
      fun c prest o orest hp ho wait => ?_⟩
    · rw [State.arbitrate_both hp ho, if_pos wait]; rfl
    · rw [State.arbitrate_ownTurn ho (.inr wait), own]
  · rw [exec_grant settled, State.grant_write hu hw, exec_grant (by exact settled), State.grant_free rfl]
  · exact (PathUnit.fill_append _).trans (List.append_assoc ..).symm
  · exact PathUnit.fill_own_length _ h
  · exact PathUnit.fill_toIssue _ h
  · rw [exec_grant settled, State.grant_free free]
    refine ⟨fun turn => ⟨_, rfl, State.attention_congr (State.arbitrate_req turn)⟩, fun o rest ho turn => ⟨_, rfl, ?_⟩⟩
    rw [State.arbitrate_ownTurn ho turn]
    refine ⟨fun v ho => ?_, fun v ho => ?_, fun other =>
      State.attention_congr (s.req.written_other other)⟩
    · subst ho
      rw [State.attention_iff]
      simp [State.grantOwn, RequestUnit.written]
    · subst ho
      exact State.attention_iff _
end

section
/-! PROOFS. Requests: taking and routing them (O24), attaching a ring (O25) and detaching one (O26). -/

namespace Sys2Proof.Machine

/-! ### Taking and routing (R169, R170) -/

/-- The own-traffic queue can take the first transaction of a further step (R17). -/
theorem PathUnit.canIssue_iff (p : PathUnit) : p.canIssue = true ↔ p.toIssue = [] ∧ p.own.length < 16 := by
  rw [PathUnit.canIssue, Bool.and_eq_true, List.isEmpty_iff, decide_eq_true_eq]
  exact Iff.rfl

/-- The answer ring has a free record (R8). -/
theorem RequestUnit.answerFree_iff (q : RequestUnit) : q.answerFree = true ↔ (q.answerProduce - q.answerConsume).toNat < 16 :=
  decide_eq_true_iff

/-- The conditions for taking a request (R169). -/
theorem State.canTake_iff (s : State) : s.canTake = true ↔ s.req.startUp = .running ∧ s.req.service = .idle ∧
    s.req.requestProduce ≠ s.req.requestConsume ∧ (s.req.answerProduce - s.req.answerConsume).toNat < 16 ∧ s.req.notices = [] ∧
    s.path.toIssue = [] ∧ s.path.own.length < 16 := by
  simp only [State.canTake, Bool.and_eq_true, decide_eq_true_eq, bne_iff_ne, List.isEmpty_iff, RequestUnit.answerFree_iff,
    PathUnit.canIssue_iff, and_assoc]

/-- The row of a request kind does nothing while no record of the kind has been fetched (log 7). -/
theorem State.serveAs_other {s : State} {code : Nat} (serve : Request → State → State)
    (h : ∀ r, s.fetched = some r → r.kind.toNat ≠ code) : s.serveAs code serve = s := by
  rcases s.serveAs_cases code serve with e | ⟨r, hr, hk, -⟩
  · exact e
  · exact absurd hk (h r hr)

/-- A fetched record is answered UNKNOWN_REQUEST when its kind has no row, and left to its row otherwise (R170). -/
theorem State.serveUnknown_fetched {s : State} {r : Request} (h : s.fetched = some r) :
    s.serveUnknown = if (requestRow r.kind.toNat).isSome = true then s else s.replied r .unknownRequest [] := by
  unfold State.serveUnknown
  rw [h]
  dsimp only
  simp only [requestRow_isSome, State.answer_fetchDone]

/-- The row of a request kind, with a record of that kind fetched. -/
theorem act_serving {s : State} {code : Nat} {r : Request} (serve : Request → State → State) (h : s.serving code r) :
    act (State.serveAs code serve) s = .next (serve r s.fetchDone) := by
  rw [act_settled _ h.1, State.serveAs_serving serve h]

/-! ### Attaching (R14, R15) -/

/-- An argument of ATTACH_RING is out of range (R14, check 1). -/
theorem Request.attachOk_false_iff (r : Request) : r.attachOk = false ↔
    4 < r.arg 1 ∨ 0xFFFFFFFF < r.arg 2 ∨ r.arg 2 % 128 ≠ 0 ∨ (r.arg 1 = 4 ∧ (r.arg 3 < 8 ∨ 256 < r.arg 3)) ∨
      (r.arg 1 ≠ 4 ∧ (r.arg 3 < 16 ∨ 1024 < r.arg 3 ∨ 0xFFFF < r.arg 5)) ∨ 15 < r.arg 4 := by
  rw [← Bool.not_eq_true, r.attachOk_iff]
  split <;> omega

/-- A window whose arguments are in range holds a slot. -/
theorem Request.window_slots_pos {r : Request} (h : r.attachOk = true) : 0 < r.window.slots := by
  obtain ⟨-, -, -, slots, -⟩ := r.attachOk_iff.1 h
  show 0 < r.arg 3
  split at slots <;> omega

theorem State.attach_stream {n : Nat} (h : n < 4) (w : Window) (s : State) : s.attach n w = { s with
    path := { s.path with streams := s.path.streams.set n (some w) }
    slots := { s.slots with tags := s.slots.tags.set n (List.replicate w.slots none) } } := by
  have stream : n ≠ 4 := by omega
  simp only [State.attach, PathUnit.setRing, SlotTable.create, h, dif_pos, if_neg stream]

theorem State.attach_control (w : Window) (s : State) :
    s.attach 4 w = { s with path := { s.path with control := some w }, msgs := { s.msgs with watching := true } } := rfl

theorem State.detach_stream {n : Nat} (h : n < 4) (s : State) : s.detach n = { s with
    path := { s.path with streams := s.path.streams.set n none }
    keys := s.keys.dropTags s.slots.tags[n]
    slots := { s.slots with tags := s.slots.tags.set n [] } } := by
  have stream : n ≠ 4 := by omega
  simp only [State.detach, PathUnit.setRing, SlotTable.create, h, dif_pos, if_neg stream, List.replicate_zero]

theorem State.detach_control (s : State) :
    s.detach 4 = { s with path := { s.path with control := none }, msgs := { s.msgs with watching := false } } := rfl

/-- The stream slots once a detached stream ring has a window (R15). -/
theorem PathUnit.streamSlots_add {p : PathUnit} {n : Nat} (h : n < 4) (free : p.ring n = none) (w : Window) :
    (p.setRing n (some w)).streamSlots = p.streamSlots + w.slots := by
  have total := p.streamSlots_setRing h (some w)
  rwa [free] at total

/-- The stream slots once an attached stream ring has no window any more (R16). -/
theorem PathUnit.streamSlots_drop {p : PathUnit} {n : Nat} {w : Window} (h : n < 4) (attached : p.ring n = some w) :
    (p.setRing n none).streamSlots = p.streamSlots - w.slots := by
  have total := p.streamSlots_setRing h none
  rw [attached] at total
  simp only [slotsOf_none, slotsOf_some] at total
  omega

/-- ATTACH_RING behind the first check (R14). -/
theorem serveAttachRing_ok {r : Request} (s : State) (ok : r.attachOk = true) : serveAttachRing r s =
    if (s.path.ring (r.arg 1)).isSome then s.answer r .ringBusy []
    else if s.path.overlaps r.window ∨ 0x100000000 < r.window.last then s.answer r .overlap []
    else if r.arg 1 < 4 ∧ Config.maxStreamSlots < s.path.streamSlots + r.window.slots then s.answer r .noSlots []
    else (s.attach (r.arg 1) r.window).answer r .ok
      [single (s.attach (r.arg 1) r.window).path.streamSlots, single r.window.last] := by
  unfold serveAttachRing
  exact if_neg (by rw [ok]; exact Bool.noConfusion)

/-- DETACH_RING of an attached ring (R16). -/
theorem serveDetachRing_ok {r : Request} {s : State} {w : Window} (ok : r.arg 1 ≤ 4) (attached : s.path.ring (r.arg 1) = some w) :
    serveDetachRing r s.fetchDone =
      (s.fetchDone.detach (r.arg 1)).answer r .ok [single (s.fetchDone.detach (r.arg 1)).path.streamSlots] := by
  have present : ¬(s.fetchDone.path.ring (r.arg 1)).isNone = true := fun h => by
    have : s.path.ring (r.arg 1) = none := Option.isNone_iff_eq_none.1 h
    rw [attached] at this
    cases this
  unfold serveDetachRing
  rw [if_neg (Nat.not_lt.2 ok), if_neg present]

/-! ### References dropped (R28, R49, R50) -/

/-- A stale reference changes nothing (R49). -/
theorem KeyPool.drop_stale {k : KeyPool} {r : KeyRef} (h : k.pool[r.entry].stamp ≠ r.stamp) : k.drop r = k := if_neg h

/-- A matching reference lowers its entry's count, the last one of a RETIRED entry frees it (R49, R50). -/
theorem KeyPool.drop_matching {k : KeyPool} {r : KeyRef} (h : k.pool[r.entry].stamp = r.stamp) : k.drop r =
    if k.pool[r.entry].state = .retired ∧ k.pool[r.entry].refs ≤ 1 then
      { k with
        pool := k.pool.set r.entry { k.pool[r.entry] with refs := 0, state := .free }
        retireOrder := k.retireOrder.filter (· != r.entry) }
    else { k with pool := k.pool.set r.entry { k.pool[r.entry] with refs := k.pool[r.entry].refs - 1 } } := if_pos h

end Sys2Proof.Machine

open Sys2Proof Sys2Proof.Machine

/-- Settles O24: the conditions of R169 are the model's, and a row serves a record of its own kind alone. -/
theorem requestTakenAndRouted : Obligations.RequestTakenAndRouted := by
  refine ⟨fun s settled => ⟨fun may => ?_, fun may => ?_⟩, fun s code row settled hrow other => ?_, fun s r settled hr unknown => ?_,
    fun s r settled hr known => ?_⟩
  · refine (act_settled State.takeRequest settled).trans ?_
    have ⟨_, _, _, _, _, waiting, room⟩ := may
    rw [State.takeRequest, if_pos (s.canTake_iff.2 may), PathUnit.issue_room (l := [_]) waiting (Nat.succ_le_of_lt room)]
    rfl
  · refine (act_settled State.takeRequest settled).trans ?_
    rw [State.takeRequest, if_neg fun can => may (s.canTake_iff.1 can)]
  · obtain ⟨serve, -, runs⟩ := exec_requestRow hrow
    rw [runs, act_settled _ settled, State.serveAs_other serve other]
  · refine (act_settled State.serveUnknown settled).trans ?_
    rw [State.serveUnknown_fetched hr, unknown]
    rfl
  · refine (act_settled State.serveUnknown settled).trans ?_
    rw [State.serveUnknown_fetched hr, if_pos known]

/-- Settles O25: the checks of R14 in their order, with the overlap of R14 put in addresses. -/
theorem attachRingServed : Obligations.AttachRingServed := by
  intro s r serving sound ring base slots w bad overlap full
  have served : exec .attachRing s = .next (serveAttachRing r s.fetchDone) := act_serving _ serving
  have ok : ¬bad → r.attachOk = true := fun good =>
    eq_true_of_ne_false fun h => good (r.attachOk_false_iff.1 h)
  have free : s.path.ring ring = none → ¬(s.fetchDone.path.ring (r.arg 1)).isSome = true := fun absent busy => by
    have : (s.path.ring ring).isSome = true := busy
    rw [absent] at this
    cases this
  have meets : ¬bad → ((s.fetchDone.path.overlaps r.window ∨ 0x100000000 < r.window.last) ↔ overlap) := fun good =>
    or_congr_left (PathUnit.overlaps_iff sound (r.window_slots_pos (ok good)))
  rw [served]
  refine ⟨fun hbad => congrArg _ (if_pos (r.attachOk_false_iff.2 hbad)), fun good busy => ?_, fun good absent shared => ?_,
    fun good absent clear many => ?_, fun good absent clear room => ?_⟩
  · rw [serveAttachRing_ok _ (ok good)]
    exact congrArg _ (if_pos busy)
  · rw [serveAttachRing_ok _ (ok good), if_neg (free absent)]
    exact congrArg _ (if_pos ((meets good).2 shared))
  · rw [serveAttachRing_ok _ (ok good), if_neg (free absent), if_neg fun h => clear ((meets good).1 h)]
    exact congrArg _ (if_pos many)
  · rw [serveAttachRing_ok _ (ok good), if_neg (free absent), if_neg fun h => clear ((meets good).1 h), if_neg (by exact room)]
    refine ⟨fun h => ?_, fun h => ?_⟩
    · have slots : (s.fetchDone.attach ring w).path.streamSlots = s.path.streamSlots + slots :=
        PathUnit.streamSlots_add (p := s.fetchDone.path) h absent w
      rw [show r.arg 1 = ring from rfl, show r.window = w from rfl, slots, State.attach_stream h]
      rfl
    · rw [show r.arg 1 = 4 from h]
      rfl

/-- Settles O26: the ring's entry and tags go, and each reference is dropped by the cases of R49 and R50. -/
theorem detachRingServed : Obligations.DetachRingServed := by
  refine ⟨fun s r serving => ?_, fun k l => ⟨rfl, rfl, fun t => rfl⟩, fun k r => ⟨rfl, KeyPool.drop_stale, fun matching some => ?_⟩⟩
  · have served : exec .detachRing s = .next (serveDetachRing r s.fetchDone) := act_serving _ serving
    rw [served]
    refine ⟨fun bad => congrArg _ (if_pos bad), fun ok absent => ?_, fun h w attached => ?_, fun w control attached => ?_⟩
    · exact congrArg _ ((if_neg (Nat.not_lt.2 ok)).trans (if_pos (Option.isNone_iff_eq_none.2 absent)))
    · have ring : s.path.ring (r.arg 1) = some w := (s.path.ring_stream ⟨r.arg 1, h⟩).trans attached
      have slots : (s.fetchDone.detach (r.arg 1)).path.streamSlots = s.path.streamSlots - w.slots :=
        PathUnit.streamSlots_drop (p := s.fetchDone.path) h ring
      rw [serveDetachRing_ok (Nat.le_of_lt h) ring, slots, State.detach_stream h]
      rfl
    · have ring : s.path.ring (r.arg 1) = some w := by rw [control]; exact attached
      rw [serveDetachRing_ok (Nat.le_of_eq control) ring, control]
      rfl
  · rw [KeyPool.dropOption, KeyPool.drop_matching matching]
    refine ⟨fun kept => if_neg ?_, fun retired last => if_pos ⟨retired, Nat.le_of_eq last⟩⟩
    rintro ⟨retired, few⟩
    rcases kept with h | h
    · exact h retired
    · omega
end

section
/-! PROOFS. The records the part writes into the anchor page: answers, notices and bill notices (O40). -/

namespace Sys2Proof.Machine

/-- The words of an answer record: kind, tag and outcome, six result words, and a last word of zero (R171, R181). -/
theorem Answer.words_eq (a : Answer) : a.words =
    [put 0 2 a.kind.toNat ||| put 2 2 a.tag.toNat ||| put 4 2 a.outcome.code, a.results.getD 0 0#64, a.results.getD 1 0#64,
      a.results.getD 2 0#64, a.results.getD 3 0#64, a.results.getD 4 0#64, a.results.getD 5 0#64, 0#64] := rfl

/-- The content words of a notice's flag (R173, R181). -/
def Notice.content (room : Room) : Notice → List Word
  | .start code serial state store =>
    [put 0 1 1, put 0 1 code.code ||| put 1 1 state.code ||| put 2 1 store.code, put 0 6 serial.toNat]
  | .room => [put 0 1 2, put 0 1 room.state.code ||| put 1 1 (flag room.suspended), put 0 4 room.stay]
  | .purchase handle event state reason charge seq =>
    [put 0 1 3, put 0 1 handle ||| put 1 1 state.code ||| put 2 1 reason.code ||| put 3 1 (flag seq.isSome) ||| put 4 2 charge,
      put 0 4 event.toNat ||| put 4 4 (seq.getD 0)]

/-- A notice's words: the NOTICE kind code, its content and zeros (R174, R181). -/
theorem Notice.words_eq (room : Room) (n : Notice) :
    n.words room = put 0 2 0x00FF :: n.content room ++ List.replicate 4 0#64 := by
  have head : put 0 2 noticeKind.toNat ||| put 2 2 (0#16).toNat ||| put 4 2 AnswerCode.ok.code = put 0 2 0x00FF := by decide
  cases n <;> exact congrArg (· :: _) head

/-- The conditions for writing a notice (R174). -/
theorem State.canNotice_iff (s : State) : s.canNotice = true ↔ s.req.startUp = .running ∧ s.req.service = .idle ∧
    (s.req.answerProduce - s.req.answerConsume).toNat < 16 ∧ s.path.canIssue = true := by
  simp only [State.canNotice, Bool.and_eq_true, decide_eq_true_eq, RequestUnit.answerFree_iff, and_assoc]

/-- The START notice is pending (R177). -/
theorem any_isStart_iff (l : List Notice) :
    l.any Notice.isStart = true ↔ ∃ code serial room store, Notice.start code serial room store ∈ l := by
  rw [List.any_eq_true]
  constructor
  · rintro ⟨n, hn, start⟩
    cases n with
    | start code serial room store => exact ⟨code, serial, room, store, hn⟩
    | room => cases start
    | purchase => cases start
  · rintro ⟨code, serial, room, store, hn⟩
    exact ⟨_, hn, rfl⟩

/-- The conditions for offering a bill notice (R139, R177). -/
theorem State.canBill_iff (s : State) : s.canBill = true ↔ s.req.startUp = .running ∧
    (∀ code serial room store, Notice.start code serial room store ∉ s.req.notices) ∧ s.msgs.room.state ≠ .unbound ∧
    (s.req.billProduce - s.req.billConsume).toNat < 16 ∧ s.path.canIssue = true := by
  have free : s.req.billFree = true ↔ (s.req.billProduce - s.req.billConsume).toNat < 16 := decide_eq_true_iff
  have started : (!s.req.notices.any Notice.isStart) = true ↔
      ∀ code serial room store, Notice.start code serial room store ∉ s.req.notices := by
    rw [Bool.not_eq_true', ← Bool.not_eq_true, any_isStart_iff]
    simp only [not_exists]
  simp only [State.canBill, Bool.and_eq_true, decide_eq_true_eq, started, free, and_assoc, ne_eq]

theorem LogRecord.isDue_iff (l : LogRecord) : l.isDue = true ↔ l.offer = .due := by
  unfold LogRecord.isDue
  cases l.offer <;> simp

/-- The record offered is the first of the log that is DUE (R139). -/
theorem BillLog.firstDue_eq (b : BillLog) : b.firstDue = b.log.find? fun l => l.offer = .due := by
  have same : LogRecord.isDue = fun l => decide (l.offer = .due) := funext fun l => by
    rw [Bool.eq_iff_iff, l.isDue_iff, decide_eq_true_iff]
  rw [BillLog.firstDue, same]

theorem BillLog.firstDue_none {b : BillLog} (h : ∀ l ∈ b.log, l.offer ≠ .due) : b.firstDue = none :=
  List.find?_eq_none.2 fun l hl due => h l hl (l.isDue_iff.1 due)

/-- The record of a sequence number becomes OFFERED, and the highest sequence offered rises to it (R139). -/
theorem BillLog.markOffered_eq (b : BillLog) (seq uptime : Nat) : b.markOffered seq uptime = { b with
    log := b.log.map fun m => if m.record.seq = seq then { m with offer := OfferState.offered uptime, offeredBefore := true } else m
    highestOffered := some (match b.highestOffered with | none => seq | some x => max x seq) } := by
  simp only [BillLog.markOffered, beq_iff_eq] <;> rfl

/-- A ready answer is issued once the own-traffic queue has a place, and a PURCHASE's commit follows it (R117, R171). -/
theorem State.writeAnswer_answering {s : State} {a : Answer} {h : Option Nat} (ready : s.req.service = .answering a h) :
    s.writeAnswer = if s.path.canIssue = true then (s.issueAnswer a).commitAfter h else s := by
  unfold State.writeAnswer; rw [ready]

theorem State.writeAnswer_none {s : State} (h : ∀ a n, s.req.service ≠ .answering a n) : s.writeAnswer = s := by
  unfold State.writeAnswer
  split
  · next a n e => exact absurd e (h a n)
  all_goals rfl

theorem State.writeNotice_cons {s : State} {n : Notice} {rest : List Notice} (h : s.req.notices = n :: rest) :
    s.writeNotice = if s.canNotice = true then
      { s.issue [.record (recordOffset 0x400 s.req.answerProduce) (n.words s.msgs.room),
          .index .answerProduce (s.req.answerProduce + 1)] with
        req := { s.req with answerProduce := s.req.answerProduce + 1, notices := rest } }
    else s := by
  unfold State.writeNotice; rw [h]

theorem State.writeBill_due {s : State} {b : Binding} {l : LogRecord} (hb : s.msgs.room.binding = some b)
    (hl : s.bills.firstDue = some l) : s.writeBill = if s.canBill = true then s.issueBill b l else s := by
  unfold State.writeBill; rw [hb, hl]

theorem State.writeBill_none {s : State} (h : s.msgs.room.binding = none ∨ s.bills.firstDue = none) : s.writeBill = s := by
  unfold State.writeBill
  split
  · next hb hl =>
    rcases h with h | h
    · rw [h] at hb; cases hb
    · rw [h] at hl; cases hl
  · rfl

end Sys2Proof.Machine

open Sys2Proof Sys2Proof.Machine

/-- Settles O40: each record is written when its conditions hold, with the words of R181, and nothing happens otherwise. -/
theorem recordsWritten : Obligations.RecordsWritten := by
  refine ⟨fun s a h settled ready => ?_, fun s n rest settled pending => ?_, fun s b l settled bound due => ?_,
    fun s settled => ⟨fun unready => ?_, fun unflagged => ?_, fun undue => ?_⟩, ⟨rfl, rfl, rfl, rfl, rfl, rfl, rfl, rfl⟩⟩
  · intro q record t
    have issued : s.issueAnswer a = t := rfl
    have written : exec .answerRecordWrite s = .next (if s.path.canIssue = true then t.commitAfter h else s) :=
      (act_settled _ settled).trans (congrArg _ (State.writeAnswer_answering ready))
    rw [written]
    refine ⟨fun room h0 => ?_, fun handle room h1 => ?_, fun full => ?_⟩
    · rw [if_pos room, h0]; rfl
    · rw [if_pos room, h1]; rfl
    · rw [if_neg (by rw [full]; exact Bool.false_ne_true)]
  · intro q may content
    have words : n.words s.msgs.room = put 0 2 0x00FF :: content ++ List.replicate 4 0#64 := by
      rw [Notice.words_eq]
      cases n with
      | start => rfl
      | room => rfl
      | purchase _ _ _ _ _ seq => cases seq <;> rfl
    have written := (act_settled State.writeNotice settled).trans (congrArg _ (State.writeNotice_cons pending))
    rw [words] at written
    refine ⟨fun can => written.trans (congrArg _ (if_pos (s.canNotice_iff.2 can))), fun cannot => written.trans (congrArg _ (if_neg ?_))⟩
    exact fun can => cannot (s.canNotice_iff.1 can)
  · intro q r fields tag may
    have written := (act_settled State.writeBill settled).trans
      (congrArg _ (State.writeBill_due bound ((BillLog.firstDue_eq _).trans due)))
    refine ⟨fun can => written.trans ?_, fun cannot => written.trans (congrArg _ (if_neg ?_))⟩
    · rw [if_pos (s.canBill_iff.2 can), State.issueBill, BillLog.markOffered_eq] <;> rfl
    · exact fun can => cannot (s.canBill_iff.1 can)
  · exact (act_settled _ settled).trans (congrArg _ (State.writeAnswer_none unready))
  · refine (act_settled State.writeNotice settled).trans ?_
    unfold State.writeNotice
    rw [unflagged]
  · exact (act_settled _ settled).trans (congrArg _ (State.writeBill_none (undue.imp_right BillLog.firstDue_none)))
end

section
/-! PROOFS. The operations on the slot table and the key pool, rule by rule: what reads back what was written, and what is left as it
was. -/

namespace Sys2Proof.Machine

/-! ### The slot table and the service table -/

/-- The tag of a slot once it has been replaced. -/
theorem SlotTable.tag_setTag {t : SlotTable} {ring : Fin 4} {slot : Nat} (tag : Option SlotTag) (h : slot < t.tags[ring].length) :
    (t.setTag ring slot tag).tag ring slot = tag := by
  have h' : slot < t.tags[ring.val].length := h
  simp [SlotTable.tag, SlotTable.setTag, List.getD_eq_getElem?_getD, h']

/-- A tag without a reference is the same once the references to an entry have been made absent (R52). -/
theorem SlotTable.tag_clearRefs {t : SlotTable} {ring : Fin 4} {slot : Nat} {tag : SlotTag} (i : Option (Fin 192))
    (h : t.tag ring slot = some tag) (unreferenced : tag.keyRef = none) : (t.clearRefs i).tag ring slot = some tag := by
  cases i with
  | none => exact h
  | some i =>
    have cleared : tag.clearRef i = tag := by unfold SlotTag.clearRef; rw [unreferenced]
    have held : t.tags[ring.val][slot]? = some (some tag) := by
      have h' : t.tags[ring.val][slot]?.getD none = some tag := by rw [← List.getD_eq_getElem?_getD]; exact h
      cases e : t.tags[ring.val][slot]? with
      | none => rw [e] at h'; cases h'
      | some o => rw [e] at h'; exact congrArg some h'
    simp [SlotTable.tag, SlotTable.clearRefs, List.getD_eq_getElem?_getD, held, cleared]

/-- A service that is not in the table has no entry to change. -/
theorem SlotTable.mapService_absent {t : SlotTable} {n : BitVec 12} (f : ServiceEntry → ServiceEntry) (h : t.service n = none) :
    t.mapService n f = t := by
  have other : ∀ e ∈ t.services, ¬(e.service == n) = true := List.find?_eq_none.1 h
  have same : (t.services.map fun e => if e.service == n then f e else e) = t.services :=
    (List.map_congr_left fun e he => if_neg (other e he)).trans (List.map_id' _)
  unfold SlotTable.mapService
  rw [same]

/-! ### The key pool -/

@[simp] theorem KeySet.slot_setSlot (k : KeySet) (p : Phase) (v : KeySlot) : (k.setSlot p v).slot p = v := by cases p <;> rfl

@[simp] theorem KeyPool.slot_setSlot (k : KeyPool) (ks : Fin 64) (p : Phase) (v : KeySlot) : (k.setSlot ks p v).slot ks p = v := by
  simp [KeyPool.slot, KeyPool.setSlot]

@[simp] theorem KeyPool.pool_setSlot (k : KeyPool) (ks : Fin 64) (p : Phase) (v : KeySlot) : (k.setSlot ks p v).pool = k.pool := rfl

theorem KeyPool.pool_setEntry (k : KeyPool) (i j : Fin 192) (e : PoolEntry) :
    (k.setEntry i e).pool[j] = if i = j then e else k.pool[j] := by
  simp [KeyPool.setEntry, Vector.getElem_set, Fin.ext_iff]

/-- An entry that takes another's key has it. -/
theorem KeyPool.key_setEntry (k : KeyPool) (i j : Fin 192) {e : PoolEntry} (h : e.key = k.pool[i].key) :
    (k.setEntry i e).pool[j].key = k.pool[j].key := by
  rw [KeyPool.pool_setEntry]
  split
  · next same => rw [h, same]
  · rfl

/-- A placed key is the current key of its key set and phase (R48). -/
theorem KeyPool.place_current (k : KeyPool) (ks : Fin 64) (p : Phase) (w : Word) (i : Fin 192) :
    ((k.place ks p w i).slot ks p).current = some i ∧ (k.place ks p w i).pool[i].key = w := by
  have placed : (k.setEntry i { k.pool[i] with key := w, state := .current, refs := 0 }).pool[i].key = w := by
    rw [KeyPool.pool_setEntry, if_pos rfl]
  constructor
  · simp [KeyPool.place]
  · unfold KeyPool.place
    dsimp only
    rw [KeyPool.pool_setSlot]
    split
    · exact placed
    · next c _ =>
      split
      · refine Eq.trans (KeyPool.key_setEntry _ c i ?_) placed; rfl
      · refine Eq.trans (KeyPool.key_setEntry _ c i ?_) placed; rfl

/-- An installed key is the current key of its key set and phase, where an entry is FREE or RETIRED (R48). -/
theorem KeyPool.install_current {k : KeyPool} (ks : Fin 64) (p : Phase) (w : Word) (h : k.lowestFree ≠ none ∨ k.retireOrder ≠ []) :
    ∃ i, ((k.install ks p w).1.slot ks p).current = some i ∧ (k.install ks p w).1.pool[i].key = w := by
  unfold KeyPool.install
  split
  · next i _ => exact ⟨i, k.place_current ks p w i⟩
  · next full =>
    split
    · next empty => exact absurd empty (h.resolve_left fun some => some full)
    · next i _ _ => exact ⟨i, (k.reclaim i).place_current ks p w i⟩

/-- Taking a reference leaves the key sets as they are (R44). -/
@[simp] theorem KeyPool.takeRef_slot (k : KeyPool) (ks : Fin 64) (q : Phase) : (k.takeRef ks q).1.slot = k.slot := by
  unfold KeyPool.takeRef; split <;> rfl

/-- Taking a reference leaves the keys of the pool as they are (R44). -/
@[simp] theorem KeyPool.takeRef_key (k : KeyPool) (ks : Fin 64) (q : Phase) (i : Fin 192) :
    (k.takeRef ks q).1.pool[i].key = k.pool[i].key := by
  unfold KeyPool.takeRef
  split
  · rfl
  · exact KeyPool.key_setEntry _ _ _ rfl

end Sys2Proof.Machine
end

section
/-! PROOFS. Stream slot writes: the tag a header sets (O11), the phase report it sends (O12) and continuity (O13). -/

namespace Sys2Proof.Machine

/-! ### Installation of a staged key and the phase report (R44) -/

theorem State.installStaged_none {s : State} {ks : Fin 64} {q : Phase} (h : (s.keys.slot ks q.other).staged = none) :
    s.installStaged ks q = s := by
  unfold State.installStaged; rw [h]

theorem State.installStaged_some {s : State} {ks : Fin 64} {q : Phase} {w : Word} (h : (s.keys.slot ks q.other).staged = some w) :
    s.installStaged ks q = { s with
      keys := (s.keys.install ks q.other w).1.setSlot ks q.other
        { (s.keys.install ks q.other w).1.slot ks q.other with staged := none }
      slots := s.slots.clearRefs (s.keys.install ks q.other w).2 } := by
  unfold State.installStaged; rw [h]; rfl

@[simp] theorem State.installStaged_services (s : State) (ks : Fin 64) (q : Phase) :
    (s.installStaged ks q).slots.services = s.slots.services := by
  unfold State.installStaged
  split
  · rfl
  · exact SlotTable.clearRefs_services _ _

/-- Installing a staged key leaves the number of tags of each ring as it is. -/
theorem State.installStaged_size (s : State) (ks : Fin 64) (q : Phase) : s.slots.SameSize (s.installStaged ks q).slots := by
  unfold State.installStaged
  split
  · exact fun _ => rfl
  · exact SlotTable.clearRefs_size _ _

/-- Installing a staged key leaves a tag without a reference as it is. -/
theorem State.installStaged_tag {s : State} {ring : Fin 4} {slot : Nat} {tag : SlotTag} (ks : Fin 64) (q : Phase)
    (h : s.slots.tag ring slot = some tag) (unreferenced : tag.keyRef = none) :
    (s.installStaged ks q).slots.tag ring slot = some tag := by
  unfold State.installStaged
  split
  · exact h
  · exact SlotTable.tag_clearRefs _ h unreferenced

@[simp] theorem State.phaseReport_keys (ring : Fin 4) (slot : Nat) (ks : Fin 64) (q : Phase) (s : State) :
    (s.phaseReport ring slot ks q).keys = ((s.installStaged ks q).keys.takeRef ks q).1 := by
  unfold State.phaseReport; dsimp only; split <;> rfl

@[simp] theorem State.phaseReport_services (ring : Fin 4) (slot : Nat) (ks : Fin 64) (q : Phase) (s : State) :
    (s.phaseReport ring slot ks q).slots.services = s.slots.services := by
  unfold State.phaseReport; dsimp only; split <;> exact State.installStaged_services s ks q

/-- With no current entry for its phase, a phase report takes no reference. -/
theorem State.phaseReport_absent {s : State} {ks : Fin 64} {q : Phase} (ring : Fin 4) (slot : Nat)
    (h : ((s.installStaged ks q).keys.slot ks q).current = none) : s.phaseReport ring slot ks q = s.installStaged ks q := by
  simp only [State.phaseReport, KeyPool.takeRef, h]

/-- The current entry of its phase is referenced by the tag, with its stamp, and counts one reference more. -/
theorem State.phaseReport_current {s : State} {ks : Fin 64} {q : Phase} {i : Fin 192} (ring : Fin 4) (slot : Nat)
    (h : ((s.installStaged ks q).keys.slot ks q).current = some i) : s.phaseReport ring slot ks q =
      let s1 := s.installStaged ks q
      { s1 with
        keys := s1.keys.setEntry i { s1.keys.pool[i] with refs := s1.keys.pool[i].refs + 1 }
        slots := s1.slots.setTag ring slot
          ((s1.slots.tag ring slot).map fun t => { t with keyRef := some ⟨i, s1.keys.pool[i].stamp⟩ }) } := by
  simp only [State.phaseReport, KeyPool.takeRef, h]

/-! ### The tag a header word sets (R25, R30) -/

/-- The state behind steps 1 to 3 of R25 for a sound header: the old reference is dropped, the tag is set from the header without a
reference, and continuity is applied to its service. -/
def State.soundTag (ring : Fin 4) (slot : Nat) (w : Word) (s : State) : State :=
  { s with
    keys := s.keys.dropOption ((s.slots.tag ring slot).bind SlotTag.keyRef)
    slots := (s.slots.setTag ring slot (some (SlotTag.ofHeader w))).mapService (headerService w) fun e =>
      e.continuity (headerCount w) }

/-- A damaged header sets the tag and does nothing else (R25, R30). -/
theorem State.setSlotTag_damaged {s : State} {w : Word} (ring : Fin 4) (slot : Nat) (h : headerDamaged w = true) :
    s.setSlotTag ring slot w = s.replaceTag ring slot (some (SlotTag.ofHeader w)) := if_pos h

/-- A sound header for a service in the table sends a phase report when its kind is a content kind and it has a phase (R25). -/
theorem State.setSlotTag_reports {s : State} {w : Word} {e : ServiceEntry} {q : Phase} (ring : Fin 4) (slot : Nat)
    (sound : headerDamaged w = false) (he : s.slots.service (headerService w) = some e) (content : (headerKind w).isContent = true)
    (phase : (headerPhase w).phase? = some q) :
    s.setSlotTag ring slot w = (s.soundTag ring slot w).phaseReport ring slot e.keySet q := by
  have listed : (s.replaceTag ring slot (some (SlotTag.ofHeader w))).slots.service (SlotTag.ofHeader w).service = some e := he
  unfold State.setSlotTag
  dsimp only
  rw [if_neg (by rw [show (SlotTag.ofHeader w).damaged = false from sound]; exact Bool.false_ne_true), listed]
  dsimp only
  rw [show (SlotTag.ofHeader w).kind.isContent = true from content, show (SlotTag.ofHeader w).phase.phase? = some q from phase]
  rfl

/-- A sound header sends no phase report when its kind is no content kind, it has no phase or its service is not in the table (R25). -/
theorem State.setSlotTag_silent {s : State} {w : Word} (ring : Fin 4) (slot : Nat) (sound : headerDamaged w = false)
    (silent : (headerKind w).isContent = false ∨ (headerPhase w).phase? = none ∨ s.slots.service (headerService w) = none) :
    s.setSlotTag ring slot w = s.soundTag ring slot w := by
  unfold State.setSlotTag
  dsimp only
  rw [if_neg (by rw [show (SlotTag.ofHeader w).damaged = false from sound]; exact Bool.false_ne_true)]
  split
  · next unlisted =>
    exact congrArg (fun t => { s.replaceTag ring slot (some (SlotTag.ofHeader w)) with slots := t })
      (SlotTable.mapService_absent (fun e => e.continuity (headerCount w)) unlisted).symm
  · next e listed =>
    split
    · next q content phase =>
      rcases silent with h | h | h
      · exact absurd (h.symm.trans content) Bool.false_ne_true
      · exact absurd (h.symm.trans phase) (by simp)
      · exact absurd (h.symm.trans listed) (by simp)
    · rfl

/-- What a header word does, by its soundness and whether it sends a phase report (R25). -/
theorem State.setSlotTag_cases (ring : Fin 4) (slot : Nat) (w : Word) (s : State) :
    (headerDamaged w = true ∧ s.setSlotTag ring slot w = s.replaceTag ring slot (some (SlotTag.ofHeader w))) ∨
    (headerDamaged w = false ∧ (s.setSlotTag ring slot w = s.soundTag ring slot w ∨
      ∃ ks q, s.setSlotTag ring slot w = (s.soundTag ring slot w).phaseReport ring slot ks q)) := by
  cases damaged : headerDamaged w with
  | true => exact .inl ⟨rfl, State.setSlotTag_damaged ring slot damaged⟩
  | false =>
    refine .inr ⟨rfl, ?_⟩
    cases content : (headerKind w).isContent with
    | false => exact .inl (State.setSlotTag_silent ring slot damaged (.inl content))
    | true =>
      cases phase : (headerPhase w).phase? with
      | none => exact .inl (State.setSlotTag_silent ring slot damaged (.inr (.inl phase)))
      | some q =>
        cases listed : s.slots.service (headerService w) with
        | none => exact .inl (State.setSlotTag_silent ring slot damaged (.inr (.inr listed)))
        | some e => exact .inr ⟨e.keySet, q, State.setSlotTag_reports ring slot damaged listed content phase⟩

/-- The service table behind a sound header: continuity for its service and no other (R30). -/
theorem State.soundTag_services (ring : Fin 4) (slot : Nat) (w : Word) (s : State) : (s.soundTag ring slot w).slots.services =
    s.slots.services.map fun e => if e.service = headerService w then e.continuity (headerCount w) else e := by
  simp [State.soundTag, SlotTable.mapService, SlotTable.setTag]

/-- The service table behind a header word: continuity for the header's service, when the header is sound (R30). -/
theorem State.setSlotTag_services (ring : Fin 4) (slot : Nat) (w : Word) (s : State) :
    (s.setSlotTag ring slot w).slots.services = s.slots.services.map fun e =>
      if e.service = headerService w ∧ headerDamaged w = false then e.continuity (headerCount w) else e := by
  rcases State.setSlotTag_cases ring slot w s with ⟨damaged, set⟩ | ⟨sound, set | ⟨ks, q, set⟩⟩
  · simp [set, damaged, State.replaceTag, SlotTable.setTag]
  · simp [set, sound, State.soundTag_services]
  · simp [set, sound, State.soundTag_services]

/-! ### What is owed behind a write -/

@[simp] theorem State.phaseReport_owed (ring : Fin 4) (slot : Nat) (ks : Fin 64) (q : Phase) (s : State) :
    (s.phaseReport ring slot ks q).owed = s.owed := by
  have installed : (s.installStaged ks q).owed = s.owed := by unfold State.installStaged; split <;> rfl
  unfold State.phaseReport; dsimp only; split <;> exact installed

@[simp] theorem State.setSlotTag_owed (ring : Fin 4) (slot : Nat) (w : Word) (s : State) :
    (s.setSlotTag ring slot w).owed = s.owed := by
  rcases State.setSlotTag_cases ring slot w s with ⟨-, set⟩ | ⟨-, set | ⟨ks, q, set⟩⟩
  · rw [set]; rfl
  · rw [set]; rfl
  · rw [set]; exact State.phaseReport_owed ring slot ks q _

@[simp] theorem State.writePortion_owed (w : WriteTxn) (q : Portion) (s : State) : (s.writePortion w q).owed = s.owed := by
  unfold State.writePortion
  split
  · unfold State.streamWrite
    split
    · rfl
    · split
      · split
        · split
          · split
            · exact State.setSlotTag_owed ..
            · rfl
          · rfl
        · rfl
      · rfl
  · unfold State.controlWrite
    split
    · rfl
    · split <;> rfl
  all_goals rfl

/-! ### The portions of a write -/

/-- A portion in an attached stream ring's slot, by R24: `x` is its first word. -/
theorem State.streamWrite_eq {s : State} {w : WriteTxn} {ring : Fin 4} {win : Window} {q : Portion} {x : WriteWord} (slot : Nat)
    (hw : s.path.streams[ring] = some win) (hx : w.words[q.start]? = some x) : s.streamWrite w ring slot q =
      if w.initiator = win.writer then
        if q.first = 0 then
          if x.enables = 0xFF#8 then s.setSlotTag ring slot x.data else s.replaceTag ring slot none
        else s
      else s.replaceTag ring slot none := by
  unfold State.streamWrite
  rw [hw, hx]

/-- An accepted write within one stream slot (R24). -/
theorem exec_streamWrite {s : State} {w : WriteTxn} {ring : Fin 4} {slot k : Nat} (h : s.accepts (.write w))
    (inSlot : s.inStreamSlot ring slot k w.addr w.words.length) : exec (.streamSlotWrite w) s =
      .next ((s.streamWrite w ring slot ⟨.streamSlot ring slot, k, 0, w.words.length⟩).joined (.write w)) := by
  have ⟨_, ok, _⟩ := h
  refine (arrival_write h).trans ?_
  rw [s.path.portions_single w.addr w.words.length _ k (burstOk_pos ok) inSlot]
  rfl

/-- The ring's writer writes a header word, fully enabled (R24, R25). -/
theorem exec_headerWrite {s : State} {w : WriteTxn} {ring : Fin 4} {slot : Nat} {win : Window} {x : WriteWord} {xs : List WriteWord}
    (h : s.accepts (.write w)) (hw : s.path.streams[ring] = some win) (words : w.words = x :: xs)
    (inSlot : s.inStreamSlot ring slot 0 w.addr w.words.length) (writer : w.initiator = win.writer) (full : x.enables = 0xFF#8) :
    exec (.streamSlotWrite w) s = .next ((s.setSlotTag ring slot x.data).joined (.write w)) := by
  rw [exec_streamWrite h inSlot, State.streamWrite_eq slot hw (by rw [words]; rfl), if_pos writer, if_pos rfl, if_pos full]

/-- What an accepted write's portions come to, handed on in ascending order (R3). -/
def State.handOn (w : WriteTxn) (s : State) : State := (s.path.portions w.addr w.words.length).foldl (fun s q => s.writePortion w q) s

@[simp] theorem State.handOn_path (w : WriteTxn) (s : State) : (s.handOn w).path = s.path := State.writePortions_path w _ s

/-- An accepted write is handed on and joins the P-side line (R2, R3). -/
theorem exec_handOn {s : State} {w : WriteTxn} (h : s.accepts (.write w)) :
    exec (.streamSlotWrite w) s = .next ((s.handOn w).joined (.write w)) := arrival_write h

@[simp] theorem State.handOn_owed (w : WriteTxn) (s : State) : (s.handOn w).owed = s.owed := by
  unfold State.handOn
  generalize s.path.portions w.addr w.words.length = l
  induction l generalizing s with
  | nil => rfl
  | cons q l ih => exact (ih _).trans (State.writePortion_owed w q s)

/-- A portion's first word is the first of its words. -/
theorem portionWords_head {q : Portion} (w : WriteTxn) (h : 0 < q.count) : (portionWords w q).head? = w.words[q.start]? := by
  rw [portionWords, List.head?_take, if_neg (Nat.ne_of_gt h), List.head?_drop]

/-- What a portion of a write does depends on the write's initiator, where the portion lies, and its words. -/
theorem State.writePortion_congr {w w' : WriteTxn} {q q' : Portion} (initiator : w.initiator = w'.initiator)
    (region : q.region = q'.region) (first : q.first = q'.first) (count : q.count = q'.count) (pos : 0 < q.count)
    (words : portionWords w q = portionWords w' q') (s : State) : s.writePortion w q = s.writePortion w' q' := by
  have head : w.words[q.start]? = w'.words[q'.start]? := by
    rw [← portionWords_head w pos, words, portionWords_head w' (count ▸ pos)]
  unfold State.writePortion State.streamWrite State.controlWrite isControlCell
  rw [initiator, region, first, count, words, head]

/-- A portion that lies in the first `m` words does what it does for a write of those words. -/
theorem State.writePortion_take {w : WriteTxn} {m : Nat} {q : Portion} (pos : 0 < q.count) (inside : q.start + q.count ≤ m) (s : State) :
    s.writePortion w q = s.writePortion ⟨w.initiator, w.addr, w.words.take m⟩ q := by
  refine State.writePortion_congr (w := w) (w' := ⟨w.initiator, w.addr, w.words.take m⟩) rfl rfl rfl rfl pos ?_ s
  rw [portionWords, portionWords, List.drop_take, List.take_take, Nat.min_eq_left (by omega)]

/-- A portion `m` words later does what the portion does for a write of the words from `m` on. -/
theorem State.writePortion_drop {w : WriteTxn} {m : Nat} {q : Portion} (addr : BitVec 32) (pos : 0 < q.count) (s : State) :
    s.writePortion w (q.shift m) = s.writePortion ⟨w.initiator, addr, w.words.drop m⟩ q := by
  refine State.writePortion_congr (w := w) (q := q.shift m) (q' := q) (w' := ⟨w.initiator, addr, w.words.drop m⟩)
    rfl rfl rfl rfl pos ?_ s
  rw [portionWords, portionWords, List.drop_drop, Nat.add_comm m]
  rfl

/-- Two functions that agree at every element of a list fold it alike. -/
theorem foldl_congr_mem {α β : Type} {f g : β → α → β} {l : List α} (h : ∀ b, ∀ x ∈ l, f b x = g b x) (b : β) :
    l.foldl f b = l.foldl g b := by
  induction l generalizing b with
  | nil => rfl
  | cons x l ih =>
    rw [List.foldl_cons, List.foldl_cons, h b x List.mem_cons_self]
    exact ih (fun b y hy => h b y (List.mem_cons_of_mem _ hy)) _

/-- A write that passes into another region before its word `m` does what its two parts do, one after the other (R3). -/
theorem State.handOn_split {s : State} {w front back : WriteTxn} {m : Nat} (ok : burstOk w.addr w.words.length = true) (h0 : 0 < m)
    (h1 : m < w.words.length) (hb : (s.path.locate (w.addr.toNat + 8 * (m - 1))).1 ≠ (s.path.locate (w.addr.toNat + 8 * m)).1)
    (hf : front = ⟨w.initiator, w.addr, w.words.take m⟩)
    (hk : back = ⟨w.initiator, BitVec.ofNat 32 (w.addr.toNat + 8 * m), w.words.drop m⟩) :
    s.handOn w = (s.handOn front).handOn back := by
  obtain ⟨parts, -, -⟩ := s.path.portions_split w.addr w.words.length m h0 h1 ok hb
  have doesFront : ∀ (t : State), ∀ q ∈ s.path.portions w.addr m, t.writePortion w q = t.writePortion front q := fun t q hq => by
    obtain ⟨-, pos, inside⟩ := groupPortions_bound _ _ q hq
    rw [hf]
    exact State.writePortion_take pos (by simpa using inside) t
  have doesBack : ∀ (t : State), ∀ q ∈ s.path.portions (BitVec.ofNat 32 (w.addr.toNat + 8 * m)) (w.words.length - m),
      t.writePortion w (q.shift m) = t.writePortion back q := fun t q hq => by
    obtain ⟨-, pos, -⟩ := groupPortions_bound _ _ q hq
    rw [hk]
    exact State.writePortion_drop _ pos t
  have frontPart : (s.path.portions w.addr m).foldl (fun t q => t.writePortion front q) s = s.handOn front := by
    rw [State.handOn, hf, List.length_take, Nat.min_eq_left (Nat.le_of_lt h1)]
  have backPart : (s.path.portions (BitVec.ofNat 32 (w.addr.toNat + 8 * m)) (w.words.length - m)).foldl
      (fun t q => t.writePortion back q) (s.handOn front) = (s.handOn front).handOn back := by
    rw [State.handOn.eq_def back, State.handOn_path, hk, List.length_drop]
  rw [State.handOn, parts, List.foldl_append, List.foldl_map, foldl_congr_mem doesFront, frontPart, foldl_congr_mem doesBack,
    backPart]

end Sys2Proof.Machine

open Sys2Proof Sys2Proof.Machine

/-- Settles O11: a burst within one slot is one portion, by R24; a longer one does what its two parts do. -/
theorem streamWriteSetsOrClearsTheTag : Obligations.StreamWriteSetsOrClearsTheTag := by
  refine ⟨fun s w ring slot win x xs h hw words inSlot writer full silent => ?_,
    fun s w ring slot k win x xs h hw words inSlot => ⟨fun invalid => ?_, fun inside => ?_⟩, fun s w m h h0 h1 hb => ?_⟩
  · intro tag slots
    rw [exec_headerWrite h hw words inSlot writer full]
    split
    · next damaged => rw [State.setSlotTag_damaged ring slot damaged]; rfl
    · next sound =>
      have unreported : (headerKind x.data).isContent = false ∨ (headerPhase x.data).phase? = none ∨
          s.slots.service (headerService x.data) = none := by
        rcases silent with damaged | kind | clear | unlisted
        · exact absurd damaged sound
        · exact .inl kind
        · exact .inr (.inl (by rw [clear]; rfl))
        · exact .inr (.inr unlisted)
      rw [State.setSlotTag_silent ring slot (Bool.eq_false_iff.2 sound) unreported]
      rfl
  · rw [exec_streamWrite h inSlot, State.streamWrite_eq slot hw (by rw [words]; rfl)]
    rcases invalid with other | ⟨header, off⟩
    · rw [if_neg other]; rfl
    · by_cases writer : w.initiator = win.writer
      · rw [if_pos writer, if_pos header, if_neg off]; rfl
      · rw [if_neg writer]; rfl
  · obtain ⟨writer, later⟩ := inside
    rw [exec_streamWrite h inSlot, State.streamWrite_eq slot hw (by rw [words]; rfl), if_pos writer, if_neg later]
  · intro front back
    have ⟨settled, ok, room⟩ := h
    obtain ⟨-, okFront, okBack⟩ := s.path.portions_split w.addr w.words.length m h0 h1 ok hb
    have lenFront : (w.words.take m).length = m := List.length_take_of_le (Nat.le_of_lt h1)
    have acceptsFront : s.accepts (.write front) := ⟨settled, by rw [← lenFront] at okFront; exact okFront, room⟩
    have acceptsBack : (s.handOn front).accepts (.write back) :=
      ⟨(State.handOn_owed front s).trans settled, by rw [← List.length_drop] at okBack; exact okBack,
        by rw [State.handOn_path]; exact room⟩
    refine ⟨s.handOn front, (s.handOn front).handOn back, State.handOn_path front s, ?_, exec_handOn acceptsFront,
      exec_handOn acceptsBack, ?_⟩
    · rw [State.handOn_path, State.handOn_path]
    · rw [← State.handOn_split (front := front) (back := back) ok h0 h1 hb rfl rfl]
      exact exec_handOn h

/-- Settles O12: the phase report of a sound header, with the key staged for the other phase installed first. -/
theorem phaseReportTakesReference : Obligations.PhaseReportTakesReference := by
  intro s w ring slot win x xs e q h hw words inSlot fits writer full sound content phase listed tag s1 s2
  have runs : exec (.streamSlotWrite w) s = .next ((s1.phaseReport ring slot e.keySet q).joined (.write w)) := by
    rw [exec_headerWrite h hw words inSlot writer full, State.setSlotTag_reports ring slot sound listed content phase]
    rfl
  have set : s1.slots.tag ring slot = some tag := SlotTable.tag_setTag (some tag) fits
  have kept : s2.slots.tag ring slot = some tag := State.installStaged_tag e.keySet q set rfl
  have keys : (s1.phaseReport ring slot e.keySet q).keys = (s2.keys.takeRef e.keySet q).1 := State.phaseReport_keys ..
  refine ⟨_, runs, fun i current => ?_, fun none => ?_, State.installStaged_none, fun k staged => ?_⟩
  · rw [State.phaseReport_current ring slot current]
    have fits2 : slot < s2.slots.tags[ring].length := by
      rw [State.installStaged_size s1 e.keySet q ring]
      exact (SlotTable.setTag_size s.slots ring slot (some tag) ring).symm ▸ fits
    refine ⟨?_, rfl⟩
    refine (SlotTable.tag_setTag _ fits2).trans ?_
    rw [kept]
    rfl
  · rw [State.phaseReport_absent ring slot none]
    exact ⟨kept, rfl⟩
  · have installed : s2 = _ := State.installStaged_some staged
    have slots : (s2.keys.takeRef e.keySet q).1.slot = s2.keys.slot := KeyPool.takeRef_slot ..
    refine ⟨?_, installed, fun found => ?_⟩
    · show ((s1.phaseReport ring slot e.keySet q).keys.slot e.keySet q.other).staged = none
      rw [keys, slots, installed]
      simp
    · obtain ⟨i, current, key⟩ := KeyPool.install_current e.keySet q.other k found
      refine ⟨i, ?_, ?_⟩
      · show ((s1.phaseReport ring slot e.keySet q).keys.slot e.keySet q.other).current = some i
        rw [keys, slots, installed]
        simpa using current
      · show (s1.phaseReport ring slot e.keySet q).keys.pool[i].key = k
        rw [keys, KeyPool.takeRef_key, installed]
        exact key

/-- Settles O13: continuity by cases of the expected count, and the service table behind a header word. -/
theorem continuityFollowsTheCount : Obligations.ContinuityFollowsTheCount := by
  refine ⟨fun e c => ⟨?_, fun expected => ?_, fun x expected differs bound => ?_, rfl⟩,
    fun s w ring slot win x xs h hw words inSlot writer full => ⟨_, exec_headerWrite h hw words inSlot writer full, ?_⟩⟩
  · refine congrArg some (BitVec.eq_of_toNat_eq ?_)
    simp
  · rcases expected with none | same
    · simp [ServiceEntry.continuity, none]
    · simp [ServiceEntry.continuity, same]
  · simp only [ServiceEntry.continuity, expected, if_neg differs]
    split <;> omega
  · exact State.setSlotTag_services ring slot x.data s
end

section
/-! PROOFS. SERVICE_INFO and KEY_INFO (O27). -/

namespace Sys2Proof.Machine

/-! ### Counts over the key pool (R58) -/

/-- A count over a vector's elements is the count over its places. -/
theorem countP_toList {α : Type} {n : Nat} (v : Vector α n) (f : α → Bool) :
    v.toList.countP f = (List.finRange n).countP fun i => f v[i] := by
  have places : v.toList = (List.finRange n).map fun i => v[i] :=
    List.ext_getElem (by simp only [Vector.length_toList, List.length_map, List.length_finRange]) fun i _ _ => by
      simp only [Vector.getElem_toList, List.getElem_map, List.getElem_finRange, Fin.getElem_fin, Fin.val_cast]
  rw [places, List.countP_map]
  rfl

theorem KeyPool.countState_eq (k : KeyPool) (st : PoolState) :
    k.countState st = (List.finRange 192).countP fun i => k.pool[i].state = st :=
  countP_toList k.pool _

theorem KeyPool.stagedCount_eq (k : KeyPool) : k.stagedCount =
    ((List.finRange 64).countP fun i => k.sets[i].phase0.staged.isSome) +
      (List.finRange 64).countP fun i => k.sets[i].phase1.staged.isSome := by
  unfold KeyPool.stagedCount
  rw [countP_toList, countP_toList]

theorem KeyPool.setsInUse_eq (k : KeyPool) : k.setsInUse =
    (List.finRange 64).countP fun i => k.sets[i].phase0.current.isSome || k.sets[i].phase1.current.isSome :=
  countP_toList k.sets _

/-- Index, reference count and staged mark of one phase, word by word (R57). -/
theorem KeyPool.phaseInfo_eq (k : KeyPool) (ks : Fin 64) (p : Phase) : k.phaseInfo ks p =
    [single (match (k.slot ks p).current with | some i => i.val | none => 256),
     single (match (k.slot ks p).current with | some i => k.pool[i].refs | none => 0),
     single (match (k.slot ks p).staged with | some _ => 1 | none => 0)] := by
  unfold KeyPool.phaseInfo
  cases (k.slot ks p).current <;> cases (k.slot ks p).staged <;> rfl

/-! ### The checks in order -/

theorem serveServiceInfo_bad {r : Request} (s : State) (h : 4095 < r.arg 1 ∧ r.arg 1 ≠ 65535 ∨ 1 < r.arg 2) :
    serveServiceInfo r s = s.answer r .badArgument [] := by
  unfold serveServiceInfo
  split
  · rfl
  · next inRange => rw [if_pos (h.resolve_left inRange)]

/-- SERVICE_INFO of the whole table (R39). -/
theorem serveServiceInfo_all {r : Request} (s : State) (all : r.arg 1 = 65535) (clear : r.arg 2 ≤ 1) : serveServiceInfo r s =
    s.answer r .ok (single s.slots.services.length :: (List.finRange 4).map fun i => single (s.slots.validTags i)) := by
  unfold serveServiceInfo
  rw [if_neg (by omega), if_neg (by omega), if_pos all]

theorem serveServiceInfo_unlisted {r : Request} {s : State} (one : r.arg 1 ≤ 4095) (clear : r.arg 2 ≤ 1)
    (h : s.slots.service (BitVec.ofNat 12 (r.arg 1)) = none) : serveServiceInfo r s = s.answer r .notFound [] := by
  unfold serveServiceInfo
  rw [if_neg (by omega), if_neg (by omega), if_neg (by omega)]
  dsimp only
  rw [h]

/-- SERVICE_INFO of one service, its discontinuity count cleared behind the reading (R37, R38). -/
theorem serveServiceInfo_listed {r : Request} {s : State} {e : ServiceEntry} (one : r.arg 1 ≤ 4095) (clear : r.arg 2 ≤ 1)
    (h : s.slots.service (BitVec.ofNat 12 (r.arg 1)) = some e) : serveServiceInfo r s =
      { s.answer r .ok [single e.cls.code, single e.tier, single e.keySet.val, single e.rating,
          single (match e.expected with | some c => c.toNat | none => 65536), single e.discontinuities] with
        slots := if r.arg 2 = 1 then s.slots.mapService (BitVec.ofNat 12 (r.arg 1)) fun e => { e with discontinuities := 0 }
          else s.slots } := by
  unfold serveServiceInfo
  rw [if_neg (by omega), if_neg (by omega), if_neg (by omega)]
  dsimp only
  rw [h]
  dsimp only
  by_cases reading : r.arg 2 = 1
  · rw [if_pos reading, if_pos reading]; rfl
  · rw [if_neg reading, if_neg reading]; rfl

theorem serveKeyInfo_bad {r : Request} (s : State) (h : 63 < r.arg 1 ∧ r.arg 1 ≠ 65535 ∨ 1 < r.arg 2) :
    serveKeyInfo r s = s.answer r .badArgument [] := by
  unfold serveKeyInfo
  split
  · rfl
  · next inRange => rw [if_pos (h.resolve_left inRange)]

/-- KEY_INFO of one key set (R57). -/
theorem serveKeyInfo_set {r : Request} (s : State) (h : r.arg 1 < 64) (clear : r.arg 2 ≤ 1) : serveKeyInfo r s =
    s.answer r .ok (s.keys.phaseInfo ⟨r.arg 1, h⟩ .p0 ++ s.keys.phaseInfo ⟨r.arg 1, h⟩ .p1) := by
  unfold serveKeyInfo
  rw [if_neg (by omega), if_neg (by omega), dif_pos h]

/-- KEY_INFO of the whole pool, the reclaim count cleared behind the reading (R58). -/
theorem serveKeyInfo_all {r : Request} (s : State) (all : r.arg 1 = 65535) (clear : r.arg 2 ≤ 1) : serveKeyInfo r s =
    { s.answer r .ok [single (s.keys.countState .free), single (s.keys.countState .current), single s.keys.retireOrder.length,
        single s.keys.stagedCount, single s.keys.setsInUse, single s.keys.reclaims] with
      keys := if r.arg 2 = 1 then { s.keys with reclaims := 0 } else s.keys } := by
  unfold serveKeyInfo
  rw [if_neg (by omega), if_neg (by omega), dif_neg (by omega)]
  dsimp only
  split <;> rfl

end Sys2Proof.Machine

open Sys2Proof Sys2Proof.Machine

/-- Settles O27: both requests, check by check. -/
theorem serviceAndKeyInfoServed : Obligations.ServiceAndKeyInfoServed := by
  refine ⟨fun s r serving => ?_, fun s r serving => ?_⟩
  · have served : exec .serviceInfo s = .next (serveServiceInfo r s.fetchDone) := act_serving _ serving
    rw [served]
    refine ⟨fun bad => ?_, fun all clear => ?_, fun one clear unlisted => ?_, fun e one clear listed => ?_⟩
    · rw [serveServiceInfo_bad _ bad]; rfl
    · rw [serveServiceInfo_all _ all clear]; rfl
    · rw [serveServiceInfo_unlisted (s := s.fetchDone) one clear unlisted]; rfl
    · rw [serveServiceInfo_listed (s := s.fetchDone) one clear listed]; rfl
  · have served : exec .keyInfo s = .next (serveKeyInfo r s.fetchDone) := act_serving _ serving
    rw [served]
    refine ⟨fun bad => ?_, fun one clear => ?_, fun all clear => ?_⟩
    · rw [serveKeyInfo_bad _ bad]; rfl
    · rw [serveKeyInfo_set _ one clear, KeyPool.phaseInfo_eq, KeyPool.phaseInfo_eq]; rfl
    · rw [serveKeyInfo_all _ all clear, KeyPool.countState_eq, KeyPool.countState_eq, KeyPool.stagedCount_eq, KeyPool.setsInUse_eq]
      rfl
end

section
/-! PROOFS. The broadcast messages KEY, SERVICE_MAP and TIME (O43). -/

namespace Sys2Proof.Machine

/-! ### Applying a broadcast message -/

/-- A message of a broadcast kind consumes no serial; where its application leaves the store as it is, the message leaves (R148, R153). -/
theorem exec_broadcast {k : MsgKind} {s : State} {m : Message} (h : s.heading k m) (broadcast : k.scope = .broadcast)
    (store : (applyKind k m s).store = s.store) : exec k.row s = .next (applyKind k m s).headGone := by
  have unnumbered : s.consumeSerial k m.serial = s := by unfold State.consumeSerial; rw [broadcast]
  have unwaited : (applyKind k m s).store.line.any (·.any (·.heads)) = false := by rw [store]; exact h.2.2.2
  rw [exec_heading h, State.applyHead, unnumbered, State.leaveOrWait_gone unwaited]

/-! ### Key entries (R41 to R43) -/

@[simp] theorem State.announceKey_store (ks : Fin 64) (p : Phase) (w : Word) (s : State) : (s.announceKey ks p w).store = s.store := by
  unfold State.announceKey
  split
  · rfl
  · split <;> rfl

/-- A key entry out of range is dropped (R43). -/
theorem applyKeyEntry_outOfRange {m : Message} {j : Nat} (k1 : Word) (s : State)
    (h : 63 < bytesAt (m.body (1 + 2 * j)) 0 1 ∨ 1 < bytesAt (m.body (1 + 2 * j)) 1 1) : applyKeyEntry m k1 s j = s := by
  unfold applyKeyEntry
  dsimp only
  split
  · rw [if_neg (by omega), if_neg (by omega)]
  · rfl

/-- A key entry in range is announced with its decrypted key (R42, R43). -/
theorem applyKeyEntry_inRange {m : Message} {j : Nat} (k1 : Word) (s : State) (h : bytesAt (m.body (1 + 2 * j)) 0 1 < 64)
    (phase : bytesAt (m.body (1 + 2 * j)) 1 1 ≤ 1) : applyKeyEntry m k1 s j =
      s.announceKey ⟨bytesAt (m.body (1 + 2 * j)) 0 1, h⟩ (if bytesAt (m.body (1 + 2 * j)) 1 1 = 0 then .p0 else .p1)
        (decryptPart k1 (bytesAt (m.body (1 + 2 * j)) 0 1 * 256 + bytesAt (m.body (1 + 2 * j)) 1 1 * 16 + j) (m.word 1)
          (m.body (2 + 2 * j))) := by
  unfold applyKeyEntry
  dsimp only
  rw [dif_pos h]
  split
  · rfl
  · rw [if_pos (by omega)]

@[simp] theorem applyKeyEntry_store (m : Message) (k1 : Word) (s : State) (j : Nat) : (applyKeyEntry m k1 s j).store = s.store := by
  by_cases h : bytesAt (m.body (1 + 2 * j)) 0 1 < 64 ∧ bytesAt (m.body (1 + 2 * j)) 1 1 ≤ 1
  · rw [applyKeyEntry_inRange k1 s h.1 h.2, State.announceKey_store]
  · rw [applyKeyEntry_outOfRange k1 s (by omega)]

/-- The key entries of a message leave the store as it is. -/
theorem applyKeyEntries_store (m : Message) (k1 : Word) (l : List Nat) (s : State) :
    (l.foldl (applyKeyEntry m k1) s).store = s.store := by
  induction l generalizing s with
  | nil => rfl
  | cons j l ih => exact (ih _).trans (applyKeyEntry_store m k1 s j)

/-- A KEY message in a bound room (R41). -/
theorem applyKey_bound {s : State} {b : Binding} (m : Message) (h : s.msgs.room.binding = some b) : applyKey m s =
    if bytesAt (m.body 0) 0 1 ≤ 4 then (List.range (bytesAt (m.body 0) 0 1)).foldl (applyKeyEntry m b.hotelKey.k1) s else s := by
  unfold applyKey; rw [h]

/-- A key announced for a key set and phase without a current entry is installed (R43). -/
theorem State.announceKey_install {s : State} {ks : Fin 64} {p : Phase} (w : Word) (h : (s.keys.slot ks p).current = none) :
    s.announceKey ks p w = s.installKey ks p w := by
  unfold State.announceKey; rw [h]

/-- A key announced for a key set and phase with a current entry is that entry's, or staged (R43). -/
theorem State.announceKey_held {s : State} {ks : Fin 64} {p : Phase} {i : Fin 192} (w : Word) (h : (s.keys.slot ks p).current = some i) :
    s.announceKey ks p w = if s.keys.pool[i].key = w then s
      else { s with keys := s.keys.setSlot ks p ⟨some i, some w⟩ } := by
  simp only [State.announceKey, h]

/-! ### Map entries (R33 to R36) -/

/-- The class codes are 0, 1 and 2 (R180). -/
theorem classOf_eq_none_iff (n : Nat) : classOf n = none ↔ 2 < n := by
  match n with
  | 0 | 1 | 2 => simp [classOf]
  | n + 3 => simp [classOf]

/-- The code of a class is the number it was taken from (R180). -/
theorem classOf_code {n : Nat} {c : ServiceClass} (h : classOf n = some c) : c.code = n := by
  unfold classOf at h
  split at h <;> cases h <;> rfl

/-- A map entry's fields are in range (R33). -/
def mapFieldsInRange (w : Word) : Prop :=
  bytesAt w 0 2 ≤ 4095 ∧ bytesAt w 3 1 ≤ 2 ∧ bytesAt w 4 1 ≤ 31 ∧ bytesAt w 5 1 ≤ 63 ∧ bytesAt w 6 1 ≤ 7

/-- A map entry with a field out of range names no service entry (R33). -/
theorem mapEntryOf_none {w : Word} (h : ¬mapFieldsInRange w) : mapEntryOf w = none := by
  unfold mapEntryOf
  split
  · rfl
  · next c hc =>
    have cls : bytesAt w 3 1 ≤ 2 := Nat.not_lt.1 fun out => by rw [(classOf_eq_none_iff _).2 out] at hc; cases hc
    split
    · next set => exact if_neg fun ⟨n, tier, rating⟩ => h ⟨n, cls, tier, Nat.le_of_lt_succ set, rating⟩
    · rfl

/-- The service entry of a map entry whose fields are in range (R33, R35). -/
theorem mapEntryOf_some {w : Word} (h : mapFieldsInRange w) : ∃ new, mapEntryOf w = some new ∧
    new.service.toNat = bytesAt w 0 2 ∧ new.cls.code = bytesAt w 3 1 ∧ new.tier = bytesAt w 4 1 ∧ new.keySet.val = bytesAt w 5 1 ∧
    new.rating = bytesAt w 6 1 ∧ new.expected = none ∧ new.discontinuities = 0 := by
  obtain ⟨number, cls, tier, set, rating⟩ := h
  obtain ⟨c, hc⟩ := Option.ne_none_iff_exists'.1 fun none => Nat.not_lt.2 cls ((classOf_eq_none_iff _).1 none)
  have named : (BitVec.ofNat 12 (bytesAt w 0 2)).toNat = bytesAt w 0 2 := by
    rw [BitVec.toNat_ofNat, Nat.mod_eq_of_lt (Nat.lt_succ_of_le number)]
  have set : bytesAt w 5 1 < 64 := Nat.lt_succ_of_le set
  refine ⟨{ service := BitVec.ofNat 12 (bytesAt w 0 2), cls := c, tier := bytesAt w 4 1, keySet := ⟨bytesAt w 5 1, set⟩
            rating := bytesAt w 6 1, expected := none, discontinuities := 0 },
    ?_, named, classOf_code hc, rfl, rfl, rfl, rfl, rfl⟩
  unfold mapEntryOf
  rw [hc]
  dsimp only
  rw [dif_pos set, if_pos ⟨number, tier, rating⟩]

/-- A service that is not in the table joins it where there is room (R35). -/
theorem SlotTable.mapIn_new {t : SlotTable} {e : ServiceEntry} (h : t.service e.service = none) :
    t.mapIn e = if t.services.length < 128 then { t with services := t.services ++ [e] } else t := by
  unfold SlotTable.mapIn; rw [h]; rfl

/-- A service in the table takes the fields and keeps its counters (R34). -/
theorem SlotTable.mapIn_known {t : SlotTable} {e : ServiceEntry} (h : (t.service e.service).isSome = true) :
    t.mapIn e = { t with services := t.services.map fun old =>
      if old.service = e.service then { e with expected := old.expected, discontinuities := old.discontinuities } else old } := by
  obtain ⟨old, listed⟩ := Option.isSome_iff_exists.1 h
  unfold SlotTable.mapIn
  rw [listed]
  simp [SlotTable.mapService]

theorem SlotTable.applyMapEntry_withdraw (t : SlotTable) {w : Word} (h : w.getLsbD 16 = true) :
    t.applyMapEntry w = t.withdraw (bytesAt w 0 2) := if_pos h

theorem SlotTable.applyMapEntry_keep (t : SlotTable) {w : Word} (h : w.getLsbD 16 = false) :
    t.applyMapEntry w = match mapEntryOf w with | none => t | some e => t.mapIn e :=
  if_neg (by rw [h]; exact Bool.false_ne_true)

end Sys2Proof.Machine

open Sys2Proof Sys2Proof.Machine

/-- Settles O43: the three kinds through their entries, key entries by R43 and map entries by R33 to R36. -/
theorem broadcastsApplied : Obligations.BroadcastsApplied := by
  refine ⟨⟨fun s m b heading bound => ?_, fun s m heading => ?_, fun s m heading => ?_⟩, fun m k1 s j => ?_, fun t w => ?_⟩
  · intro n
    have applied := applyKey_bound m bound
    have store : (applyKind .key m s).store = s.store := by
      refine (congrArg State.store applied).trans ?_
      split
      · exact applyKeyEntries_store m _ _ s
      · rfl
    have runs : exec .key s = .next (applyKey m s).headGone := exec_broadcast heading rfl store
    rw [runs, applied]
    exact ⟨fun few => by rw [if_pos few], fun many => by rw [if_neg (Nat.not_le.2 many)]⟩
  · intro n
    have store : (applyKind .serviceMap m s).store = s.store := by
      simp only [applyKind, applyServiceMap]
      split <;> rfl
    have runs : exec .serviceMap s = .next (applyServiceMap m s).headGone := exec_broadcast heading rfl store
    rw [runs, applyServiceMap]
    exact ⟨fun few => by rw [if_pos few], fun many => by rw [if_neg (Nat.not_le.2 many)]⟩
  · intro v
    have runs : exec .time s = .next (applyTime m s).headGone := exec_broadcast heading rfl rfl
    rw [runs, applyTime]
    cases s.events.hotelTime with
    | none => rfl
    | some h =>
      have later : (if h < v then some v else some h) = some (max h v) := by
        split <;> congr 1 <;> omega
      exact congrArg (fun time => Host.Outcome.next { s with events := { s.events with hotelTime := time } }.headGone) later
  · intro set phase key
    refine ⟨fun out => applyKeyEntry_outOfRange k1 s out, fun h inPhase => ?_⟩
    intro ks p
    have announced : applyKeyEntry m k1 s j = s.announceKey ks p key := applyKeyEntry_inRange k1 s h inPhase
    rw [announced]
    refine ⟨fun none => State.announceKey_install key none, fun i held => ?_⟩
    rw [State.announceKey_held key held]
    exact ⟨fun same => if_pos same, fun new => if_neg new⟩
  · intro n inRange
    refine ⟨fun withdrawn => t.applyMapEntry_withdraw withdrawn, fun kept out => ?_, fun kept fields => ?_⟩
    · rw [t.applyMapEntry_keep kept, mapEntryOf_none out]
    · obtain ⟨new, entry, number, cls, tier, keySet, rating, expected, discontinuities⟩ := mapEntryOf_some fields
      refine ⟨new, number, cls, tier, keySet, rating, expected, discontinuities, ?_⟩
      rw [t.applyMapEntry_keep kept, entry]
      refine ⟨fun unlisted room => ?_, fun unlisted full => ?_, fun listed => SlotTable.mapIn_known listed⟩
      · exact (SlotTable.mapIn_new unlisted).trans (if_pos room)
      · exact (SlotTable.mapIn_new unlisted).trans (if_neg (Nat.not_lt.2 full))
end

section
/-! PROOFS. The key pool's operations on its order and on its entries: an installation takes an entry and lets the former current one go
(O14), and each operation keeps the retire order and the current entries exact (R46 to R51). -/

namespace Sys2Proof.Machine

/-! ### Slots and entries -/

theorem KeySet.slot_setSlot_ne (k : KeySet) {p q : Phase} (v : KeySlot) (h : p ≠ q) : (k.setSlot p v).slot q = k.slot q := by
  cases p with
  | p0 =>
    cases q with
    | p0 => exact absurd rfl h
    | p1 => rfl
  | p1 =>
    cases q with
    | p0 => rfl
    | p1 => exact absurd rfl h

/-- The slots once one has been replaced. -/
theorem KeyPool.slot_setSlot_eq (k : KeyPool) (ks ks' : Fin 64) (p p' : Phase) (v : KeySlot) :
    (k.setSlot ks p v).slot ks' p' = if ks = ks' ∧ p = p' then v else k.slot ks' p' := by
  by_cases set : ks = ks'
  · subst set
    by_cases phase : p = p'
    · subst phase; simp
    · rw [if_neg fun same => phase same.2]
      simp [KeyPool.slot, KeyPool.setSlot, KeySet.slot_setSlot_ne _ v phase]
  · rw [if_neg fun same => set same.1]
    have : ks.val ≠ ks'.val := fun same => set (Fin.ext same)
    simp [KeyPool.slot, KeyPool.setSlot, this]

/-- An entry replaced by one of the same state leaves every entry's state as it is. -/
theorem KeyPool.state_setEntry {k : KeyPool} {i : Fin 192} {e : PoolEntry} (same : e.state = k.pool[i].state) (j : Fin 192) :
    (k.setEntry i e).pool[j].state = k.pool[j].state := by
  rw [KeyPool.pool_setEntry]
  split
  · next here => rw [← here, same]
  · rfl

/-- The FREE entry of lowest index (R48, step 1). -/
theorem KeyPool.lowestFree_iff (k : KeyPool) (i : Fin 192) :
    k.lowestFree = some i ↔ k.pool[i].state = .free ∧ ∀ j < i, k.pool[j].state ≠ .free := by
  rw [KeyPool.lowestFree, List.find?_eq_some_iff_getElem, beq_iff_eq]
  refine and_congr_right fun _ => ⟨?_, fun before => ⟨i, ?_, ?_, fun j hj => ?_⟩⟩
  · rintro ⟨n, hn, rfl, before⟩ j hj
    rw [List.getElem_finRange] at hj
    have here := before j hj
    rw [List.getElem_finRange, Bool.not_eq_true', beq_eq_false_iff_ne] at here
    exact here
  · rw [List.length_finRange]
    exact i.isLt
  · rw [List.getElem_finRange]
    rfl
  · rw [List.getElem_finRange, Bool.not_eq_true', beq_eq_false_iff_ne]
    exact before _ hj

/-! ### Placing a key in an entry (R48, steps 2 to 4) -/

/-- An entry that is current no more: FREE at count 0, RETIRED otherwise (R48, step 2). -/
def PoolEntry.dismissed (e : PoolEntry) : PoolEntry := { e with state := if e.refs = 0 then .free else .retired }

theorem PoolEntry.dismissed_of_zero {e : PoolEntry} (h : e.refs = 0) : e.dismissed.state = .free := if_pos h

theorem PoolEntry.dismissed_of_ne_zero {e : PoolEntry} (h : e.refs ≠ 0) : e.dismissed.state = .retired := if_neg h

variable {k : KeyPool} {ks : Fin 64} {p : Phase} {i : Fin 192}

/-- With no current entry before, the entry placed is all that changes. -/
theorem KeyPool.place_none (w : Word) (h : (k.slot ks p).current = none) : k.place ks p w i =
    (k.setEntry i { k.pool[i] with key := w, state := .current, refs := 0 }).setSlot ks p { k.slot ks p with current := some i } := by
  unfold KeyPool.place
  rw [h]
  rfl

/-- The current entry before is dismissed, and joins the end of the retire order when references to it are left. -/
theorem KeyPool.place_some {c : Fin 192} (w : Word) (h : (k.slot ks p).current = some c) (other : c ≠ i) : k.place ks p w i =
    { (k.setEntry i { k.pool[i] with key := w, state := .current, refs := 0 }).setEntry c k.pool[c].dismissed with
      retireOrder := if k.pool[c].refs = 0 then k.retireOrder else k.retireOrder ++ [c] }.setSlot ks p
        { k.slot ks p with current := some i } := by
  unfold KeyPool.place PoolEntry.dismissed
  rw [h]
  dsimp only
  rw [KeyPool.pool_setEntry, if_neg other.symm]
  split <;> rfl

/-- Every entry once a key has been placed in entry `i`. -/
theorem KeyPool.place_pool (w : Word) (other : (k.slot ks p).current ≠ some i) (j : Fin 192) : (k.place ks p w i).pool[j] =
    if j = i then { k.pool[i] with key := w, state := .current, refs := 0 }
    else if (k.slot ks p).current = some j then k.pool[j].dismissed
    else k.pool[j] := by
  cases h : (k.slot ks p).current with
  | none => rw [KeyPool.place_none w h, KeyPool.pool_setSlot, KeyPool.pool_setEntry]; simp [eq_comm]
  | some c =>
    have distinct : c ≠ i := fun same => other (by rw [h, same])
    rw [KeyPool.place_some w h distinct, KeyPool.pool_setSlot]
    refine (KeyPool.pool_setEntry _ c j _).trans ?_
    rw [KeyPool.pool_setEntry]
    by_cases hc : c = j
    · subst hc; simp [distinct]
    · have hc' : ¬j = c := fun same => hc same.symm
      simp [hc, hc', eq_comm]

/-- The retire order once a key has been placed: a dismissed entry with references left joins its end. -/
theorem KeyPool.place_retireOrder (w : Word) (other : (k.slot ks p).current ≠ some i) : (k.place ks p w i).retireOrder =
    match (k.slot ks p).current with
    | none => k.retireOrder
    | some c => if k.pool[c].refs = 0 then k.retireOrder else k.retireOrder ++ [c] := by
  cases h : (k.slot ks p).current with
  | none => rw [KeyPool.place_none w h]; rfl
  | some c => rw [KeyPool.place_some w h fun same => other (by rw [h, same])]; rfl

/-- The current entries once a key has been placed. -/
theorem KeyPool.place_slot_current (w : Word) (other : (k.slot ks p).current ≠ some i) (ks' : Fin 64) (p' : Phase) :
    ((k.place ks p w i).slot ks' p').current = if ks = ks' ∧ p = p' then some i else (k.slot ks' p').current := by
  cases h : (k.slot ks p).current with
  | none => rw [KeyPool.place_none w h, KeyPool.slot_setSlot_eq]; split <;> rfl
  | some c =>
    rw [KeyPool.place_some w h fun same => other (by rw [h, same]), KeyPool.slot_setSlot_eq]
    split <;> rfl

@[simp] theorem KeyPool.place_reclaims (w : Word) : (k.place ks p w i).reclaims = k.reclaims := by
  unfold KeyPool.place
  dsimp only
  split
  · rfl
  · split <;> rfl

/-! ### Installing a key (R48, R51) -/

theorem KeyPool.install_free (w : Word) (h : k.lowestFree = some i) : k.install ks p w = (k.place ks p w i, none) := by
  unfold KeyPool.install; rw [h]

theorem KeyPool.install_reclaim {rest : List (Fin 192)} (w : Word) (full : k.lowestFree = none) (h : k.retireOrder = i :: rest) :
    k.install ks p w = ((k.reclaim i).place ks p w i, if k.pool[i].stamp = 65535#16 then some i else none) := by
  unfold KeyPool.install; rw [full, h]

theorem KeyPool.install_nothing (w : Word) (full : k.lowestFree = none) (h : k.retireOrder = []) :
    k.install ks p w = (k, none) := by
  unfold KeyPool.install; rw [full, h]

/-- Every entry once entry `i` has been reclaimed. -/
theorem KeyPool.reclaim_pool (j : Fin 192) : (k.reclaim i).pool[j] =
    if i = j then { k.pool[i] with stamp := k.pool[i].stamp + 1, refs := 0 } else k.pool[j] := KeyPool.pool_setEntry ..

@[simp] theorem KeyPool.reclaim_slot : (k.reclaim i).slot = k.slot := rfl

/-! ### The retire order and the current entries -/

/-- An entry that is not CURRENT is nobody's current entry. -/
theorem KeyPool.Orderly.not_current (h : k.Orderly) (ks : Fin 64) (p : Phase) (other : k.pool[i].state ≠ .current) :
    (k.slot ks p).current ≠ some i := fun current => other (h.current ks p i current)

/-- What an orderly pool's order depends on: the retire order, the states and the current entries. -/
theorem KeyPool.Orderly.congr {k' : KeyPool} (h : k.Orderly) (order : k'.retireOrder = k.retireOrder)
    (states : ∀ j : Fin 192, k'.pool[j].state = k.pool[j].state)
    (currents : ∀ ks p, (k'.slot ks p).current = (k.slot ks p).current) : k'.Orderly where
  retired j := by rw [order, states]; exact h.retired j
  once := by rw [order]; exact h.once
  current ks p j := by rw [currents, states]; exact h.current ks p j
  distinct ks p ks' p' j := by rw [currents, currents]; exact h.distinct ks p ks' p' j

/-- The pool is orderly but for entry `i`, which has been taken for a new key: it stands neither in the retire order nor as a current
entry, whatever its state. -/
structure KeyPool.OrderlyBut (k : KeyPool) (i : Fin 192) : Prop where
  retired  : ∀ j : Fin 192, j ∈ k.retireOrder ↔ j ≠ i ∧ k.pool[j].state = .retired
  once     : k.retireOrder.Nodup
  current  : ∀ ks p j, (k.slot ks p).current = some j → j ≠ i ∧ k.pool[j].state = .current
  distinct : ∀ ks p ks' p' j, (k.slot ks p).current = some j → (k.slot ks' p').current = some j → ks = ks' ∧ p = p'

theorem KeyPool.OrderlyBut.not_current (h : k.OrderlyBut i) (ks : Fin 64) (p : Phase) : (k.slot ks p).current ≠ some i :=
  fun current => (h.current ks p i current).1 rfl

/-- A FREE entry can be taken. -/
theorem KeyPool.Orderly.but_free (h : k.Orderly) (free : k.pool[i].state = .free) : k.OrderlyBut i where
  retired j := by
    rw [h.retired]
    refine ⟨fun retired => ⟨?_, retired⟩, And.right⟩
    rintro rfl
    rw [free] at retired
    cases retired
  once := h.once
  current ks p j current := by
    have state := h.current ks p j current
    refine ⟨?_, state⟩
    rintro rfl
    rw [free] at state
    cases state
  distinct := h.distinct

/-- A RETIRED entry can be taken once it has been reclaimed (R51). -/
theorem KeyPool.Orderly.but_reclaim (h : k.Orderly) (retired : k.pool[i].state = .retired) : (k.reclaim i).OrderlyBut i where
  retired j := by
    have order : j ∈ (k.reclaim i).retireOrder ↔ j ∈ k.retireOrder ∧ j ≠ i := by simp [KeyPool.reclaim]
    rw [order, h.retired, KeyPool.reclaim_pool, and_comm]
    refine and_congr_right fun other => ?_
    rw [if_neg other.symm]
  once := h.once.filter _
  current ks p j current := by
    have state := h.current ks p j current
    have other : j ≠ i := by
      rintro rfl
      rw [retired] at state
      cases state
    rw [KeyPool.reclaim_pool, if_neg other.symm]
    exact ⟨other, state⟩
  distinct := h.distinct

theorem KeyPool.OrderlyBut.unlisted (h : k.OrderlyBut i) : i ∉ k.retireOrder := fun order => ((h.retired i).1 order).1 rfl

/-- A current entry stands in no retire order. -/
theorem KeyPool.OrderlyBut.current_unlisted (h : k.OrderlyBut i) {c : Fin 192} (hc : (k.slot ks p).current = some c) :
    c ∉ k.retireOrder := fun order => by
  have retired := ((h.retired c).1 order).2
  rw [(h.current ks p c hc).2] at retired
  cases retired

/-- Once a key has been placed, the retire order holds the RETIRED entries: with references left, the dismissed one among them. -/
theorem KeyPool.OrderlyBut.place_retired (h : k.OrderlyBut i) (w : Word) (j : Fin 192) :
    j ∈ (k.place ks p w i).retireOrder ↔ (k.place ks p w i).pool[j].state = .retired := by
  have other := h.not_current ks p
  rw [KeyPool.place_pool w other, KeyPool.place_retireOrder w other]
  cases hc : (k.slot ks p).current with
  | none =>
    by_cases here : j = i
    · subst here; simpa using h.unlisted
    · simpa [here] using h.retired j
  | some c =>
    have distinct : c ≠ i := fun same => other (by rw [hc, same])
    have listed := h.retired j
    have unlisted := h.unlisted
    have dismissed := h.current_unlisted hc
    by_cases zero : k.pool[c.val].refs = 0
    · by_cases here : j = i
      · subst here; simpa [zero] using unlisted
      · by_cases left : j = c
        · subst left; simpa [zero, here, PoolEntry.dismissed] using dismissed
        · have left' : ¬c = j := fun same => left same.symm
          simpa [zero, here, left'] using listed
    · by_cases here : j = i
      · subst here; simp [zero, unlisted, distinct.symm]
      · by_cases left : j = c
        · subst left; simp [zero, here, PoolEntry.dismissed]
        · have left' : ¬c = j := fun same => left same.symm
          simpa [zero, here, left, left'] using listed

/-- The dismissed entry joins the retire order once (R48). -/
theorem KeyPool.OrderlyBut.place_once (h : k.OrderlyBut i) (w : Word) : (k.place ks p w i).retireOrder.Nodup := by
  rw [KeyPool.place_retireOrder w (h.not_current ks p)]
  cases hc : (k.slot ks p).current with
  | none => exact h.once
  | some c =>
    dsimp only
    split
    · exact h.once
    · refine List.nodup_append.2 ⟨h.once, List.nodup_cons.2 ⟨List.not_mem_nil, List.nodup_nil⟩, fun a ha b hb same => ?_⟩
      rw [List.mem_singleton.1 hb] at same
      exact h.current_unlisted hc (same ▸ ha)

/-- A key placed in the entry taken makes the pool orderly (R48). -/
theorem KeyPool.OrderlyBut.place (h : k.OrderlyBut i) (ks : Fin 64) (p : Phase) (w : Word) : (k.place ks p w i).Orderly := by
  have other := h.not_current ks p
  refine ⟨h.place_retired w, h.place_once w, fun ks' p' j current => ?_, fun ka pa kb pb j inA inB => ?_⟩
  · rw [KeyPool.place_slot_current w other] at current
    rw [KeyPool.place_pool w other]
    split at current
    · cases current
      rw [if_pos rfl]
    · next elsewhere =>
      obtain ⟨here, state⟩ := h.current ks' p' j current
      rw [if_neg here, if_neg fun replaced => elsewhere (h.distinct ks p ks' p' j replaced current)]
      exact state
  · rw [KeyPool.place_slot_current w other] at inA inB
    split at inA <;> split at inB
    · next a b => exact ⟨a.1.symm.trans b.1, a.2.symm.trans b.2⟩
    · cases inA; exact absurd inB (h.not_current kb pb)
    · cases inB; exact absurd inA (h.not_current ka pa)
    · exact h.distinct ka pa kb pb j inA inB

/-- An installation keeps the pool orderly (R48, R51). -/
theorem KeyPool.Orderly.install (h : k.Orderly) (ks : Fin 64) (p : Phase) (w : Word) : (k.install ks p w).1.Orderly := by
  cases free : k.lowestFree with
  | some i =>
    rw [KeyPool.install_free w free]
    exact (h.but_free ((k.lowestFree_iff i).1 free).1).place ks p w
  | none =>
    cases order : k.retireOrder with
    | nil => rw [KeyPool.install_nothing w free order]; exact h
    | cons i rest =>
      rw [KeyPool.install_reclaim w free order]
      exact (h.but_reclaim ((h.retired i).1 (by rw [order]; exact List.mem_cons_self))).place ks p w

/-- An entry replaced by one of the same state keeps the pool orderly. -/
theorem KeyPool.Orderly.setEntry (h : k.Orderly) {e : PoolEntry} (same : e.state = k.pool[i].state) : (k.setEntry i e).Orderly :=
  h.congr rfl (KeyPool.state_setEntry same) fun _ _ => rfl

/-- A slot replaced by one with the same current entry keeps the pool orderly. -/
theorem KeyPool.Orderly.setSlot (h : k.Orderly) {v : KeySlot} (same : v.current = (k.slot ks p).current) : (k.setSlot ks p v).Orderly := by
  refine h.congr rfl (fun _ => rfl) fun ks' p' => ?_
  rw [KeyPool.slot_setSlot_eq]
  split
  · next here => rw [same, here.1, here.2]
  · rfl

/-- A reference taken keeps the pool orderly (R44). -/
theorem KeyPool.Orderly.takeRef (h : k.Orderly) (ks : Fin 64) (q : Phase) : (k.takeRef ks q).1.Orderly := by
  unfold KeyPool.takeRef
  split
  · exact h
  · exact h.setEntry rfl

/-- A reference dropped keeps the pool orderly: the last one of a RETIRED entry takes it out of the retire order (R49, R50). -/
theorem KeyPool.Orderly.drop (h : k.Orderly) (r : KeyRef) : (k.drop r).Orderly := by
  by_cases stale : k.pool[r.entry].stamp = r.stamp
  · rw [KeyPool.drop_matching stale]
    split
    · next last =>
      have entry : ∀ j : Fin 192, (k.setEntry r.entry { k.pool[r.entry] with refs := 0, state := .free }).pool[j] = _ :=
        fun j => k.pool_setEntry r.entry j _
      refine ⟨fun j => ?_, h.once.filter _, fun ks p j current => ?_, h.distinct⟩
      · refine Iff.trans ?_ (iff_of_eq (congrArg (fun e : PoolEntry => e.state = .retired) (entry j).symm))
        rw [List.mem_filter, h.retired]
        by_cases here : r.entry = j
        · rw [if_pos here]; simp [here]
        · have : j ≠ r.entry := fun same => here same.symm
          rw [if_neg here]; simp [this]
      · have state := h.current ks p j current
        have here : r.entry ≠ j := fun same => by
          rw [← same, last.1] at state
          cases state
        exact (congrArg PoolEntry.state ((entry j).trans (if_neg here))).trans state
    · exact h.setEntry rfl
  · rw [KeyPool.drop_stale stale]; exact h

theorem KeyPool.Orderly.dropOption (h : k.Orderly) (o : Option KeyRef) : (k.dropOption o).Orderly := by
  cases o with
  | none => exact h
  | some r => exact h.drop r

theorem KeyPool.Orderly.dropTags (h : k.Orderly) (l : List (Option SlotTag)) : (k.dropTags l).Orderly := by
  unfold KeyPool.dropTags
  induction l generalizing k with
  | nil => exact h
  | cons o l ih => exact ih (h.dropOption _)

end Sys2Proof.Machine
end

section
/-! PROOFS. A key's installation (O14): the entry it takes, the entry it dismisses, and the references it clears. -/

namespace Sys2Proof.Machine

variable {k : KeyPool} {ks : Fin 64} {p : Phase} {i : Fin 192}

/-- What placing a key makes of the entry taken. -/
theorem KeyPool.place_taken (w : Word) (other : (k.slot ks p).current ≠ some i) :
    (k.place ks p w i).pool[i] = { k.pool[i] with key := w, state := .current, refs := 0 } := by
  rw [KeyPool.place_pool w other, if_pos rfl]

/-- What placing a key makes of the current entry before. -/
theorem KeyPool.place_dismissed {c : Fin 192} (w : Word) (other : (k.slot ks p).current ≠ some i) (hc : (k.slot ks p).current = some c) :
    (k.place ks p w i).pool[c] = k.pool[c].dismissed ∧
      (k.pool[c].refs ≠ 0 → (k.place ks p w i).retireOrder.getLast? = some c) := by
  have distinct : c ≠ i := fun same => other (by rw [hc, same])
  rw [KeyPool.place_pool w other, if_neg distinct, if_pos hc, KeyPool.place_retireOrder w other, hc]
  exact ⟨rfl, fun left => by dsimp only; rw [if_neg left, List.getLast?_concat]⟩

/-- Where an entry is FREE or RETIRED, installing a key places it in an entry taken, and every current entry is as it was (R48, R51). -/
theorem KeyPool.install_places (h : k.Orderly) (ks : Fin 64) (p : Phase) (w : Word)
    (room : k.lowestFree.isSome = true ∨ k.retireOrder ≠ []) :
    ∃ (k' : KeyPool) (i : Fin 192), (k.install ks p w).1 = k'.place ks p w i ∧ k'.OrderlyBut i ∧ k'.slot = k.slot ∧
      ∀ c, (k.slot ks p).current = some c → k'.pool[c] = k.pool[c] := by
  cases free : k.lowestFree with
  | some i =>
    exact ⟨k, i, by rw [KeyPool.install_free w free], h.but_free ((k.lowestFree_iff i).1 free).1, rfl, fun _ _ => rfl⟩
  | none =>
    cases order : k.retireOrder with
    | nil => simp [free, order] at room
    | cons i rest =>
      have retired : k.pool[i].state = .retired := (h.retired i).1 (by rw [order]; exact List.mem_cons_self)
      refine ⟨k.reclaim i, i, by rw [KeyPool.install_reclaim w free order], h.but_reclaim retired, rfl, fun c hc => ?_⟩
      have other : i ≠ c := fun same => h.not_current ks p (i := i) (by rw [retired]; exact PoolState.noConfusion) (same ▸ hc)
      rw [KeyPool.reclaim_pool, if_neg other]

/-- The former current entry becomes FREE at count 0, and otherwise joins the end of the retire order (R48). -/
theorem KeyPool.install_dismisses {c : Fin 192} (h : k.Orderly) (w : Word) (hc : (k.slot ks p).current = some c)
    (room : k.lowestFree.isSome = true ∨ k.retireOrder ≠ []) :
    (k.pool[c].refs = 0 → (k.install ks p w).1.pool[c].state = .free) ∧
    (k.pool[c].refs ≠ 0 → (k.install ks p w).1.pool[c].state = .retired ∧ (k.install ks p w).1.retireOrder.getLast? = some c) := by
  obtain ⟨k', i, installed, but, slots, same⟩ := KeyPool.install_places h ks p w room
  obtain ⟨entry, last⟩ := KeyPool.place_dismissed w (but.not_current ks p) (by rw [slots]; exact hc)
  rw [installed, entry]
  rw [same c hc] at last ⊢
  exact ⟨PoolEntry.dismissed_of_zero, fun left => ⟨PoolEntry.dismissed_of_ne_zero left, last left⟩⟩

/-! ### References made absent (R52) -/

/-- A tag loses its reference when it names the entry, whatever the stamp. -/
theorem SlotTag.clearRef_named {g : SlotTag} {stamp : BitVec 16} (h : g.keyRef = some ⟨i, stamp⟩) :
    g.clearRef i = { g with keyRef := none } := by
  unfold SlotTag.clearRef; rw [h]; exact if_pos rfl

/-- A tag that does not name the entry stays as it is. -/
theorem SlotTag.clearRef_other {g : SlotTag} (h : ∀ stamp, g.keyRef ≠ some ⟨i, stamp⟩) : g.clearRef i = g := by
  unfold SlotTag.clearRef
  split
  · next r hr => exact if_neg fun same => h r.stamp (by rw [hr, ← same])
  · rfl

/-- Clearing the references to an entry is done tag by tag. -/
theorem SlotTable.tag_clearRefs_some (t : SlotTable) (i : Fin 192) (ring : Fin 4) (slot : Nat) :
    (t.clearRefs (some i)).tag ring slot = (t.tag ring slot).map (SlotTag.clearRef i) := by
  simp only [SlotTable.tag, SlotTable.clearRefs, List.getD_eq_getElem?_getD, Fin.getElem_fin, Vector.getElem_map, List.getElem?_map]
  cases t.tags[ring.val][slot]? <;> rfl

end Sys2Proof.Machine

open Sys2Proof Sys2Proof.Machine

/-- Settles O14: an installation takes an entry and places the key in it; clearing goes tag by tag. -/
theorem keyInstallationTakesAnEntry : Obligations.KeyInstallationTakesAnEntry := by
  refine ⟨fun k ks p key h => ⟨fun i free => ?_, fun i rest full order => ?_, fun c => KeyPool.install_dismisses h key⟩,
    fun _ _ _ _ => rfl, fun _ => rfl, fun t i => ⟨rfl, fun ring slot => ?_⟩⟩
  · obtain ⟨state, lowest⟩ := (k.lowestFree_iff i).1 free
    rw [KeyPool.install_free key free]
    exact ⟨lowest, state, (k.place_current ks p key i).1, KeyPool.place_taken key ((h.but_free state).not_current ks p),
      KeyPool.place_reclaims key, rfl⟩
  · have retired : k.pool[i].state = .retired := (h.retired i).1 (by rw [order]; exact List.mem_cons_self)
    have but := h.but_reclaim retired
    have entry : (k.reclaim i).pool[i] = _ := KeyPool.reclaim_pool i
    rw [KeyPool.install_reclaim key full order]
    refine ⟨((k.reclaim i).place_current ks p key i).1, ?_, KeyPool.place_reclaims key, fun listed => ?_, rfl⟩
    · rw [KeyPool.place_taken key (but.not_current ks p), entry, if_pos rfl]
    · have state := (but.place_retired key i).1 listed
      rw [KeyPool.place_taken key (but.not_current ks p)] at state
      cases state
  · rw [t.tag_clearRefs_some]
    refine ⟨fun invalid => by rw [invalid]; rfl, fun g valid => ?_⟩
    rw [valid]
    exact ⟨fun ⟨_, named⟩ => congrArg some (SlotTag.clearRef_named named), fun other => congrArg some (SlotTag.clearRef_other other)⟩
end

section
/-! PROOFS. The law of the reference counts (R46): what each operation on the tags does to the number of tags that carry a reference, and
what each operation on the key pool does to the counts. -/

namespace Sys2Proof.Machine

/-! ### The number of tags that carry a reference -/

/-- A tag, valid or not, carries a reference. -/
def carries (r : KeyRef) (o : Option SlotTag) : Bool := o.bind SlotTag.keyRef == some r

/-- Of one reference, whether an optional reference is it. -/
def oneRef (o : Option KeyRef) (r : KeyRef) : Nat := if o = some r then 1 else 0

theorem oneRef_some (r r' : KeyRef) : oneRef (some r) r' = if r = r' then 1 else 0 := by simp [oneRef]

theorem ite_carries (r : KeyRef) (o : Option SlotTag) : (if carries r o = true then 1 else 0) = oneRef (o.bind SlotTag.keyRef) r := by
  simp [carries, oneRef]

theorem SlotTable.refsTo_eq (t : SlotTable) (r : KeyRef) : t.refsTo r =
    t.tags[0].countP (carries r) + t.tags[1].countP (carries r) + t.tags[2].countP (carries r) + t.tags[3].countP (carries r) := by
  have four : t.refsTo r = t.tags[0].countP (carries r) + (t.tags[1].countP (carries r) +
    (t.tags[2].countP (carries r) + (t.tags[3].countP (carries r) + 0))) := rfl
  omega

/-- A reference is carried when a tag of some ring carries it. -/
theorem SlotTable.refsTo_ne_zero_iff (t : SlotTable) (r : KeyRef) :
    t.refsTo r ≠ 0 ↔ ∃ (ring : Fin 4) (o : Option SlotTag), o ∈ t.tags[ring] ∧ o.bind SlotTag.keyRef = some r := by
  have inRing : ∀ (n : Nat) (hn : n < 4), t.tags[n].countP (carries r) ≠ 0 ↔
      ∃ o ∈ t.tags[n], o.bind SlotTag.keyRef = some r := fun n hn => by
    rw [Ne, List.countP_eq_zero]
    simp [carries]
  rw [t.refsTo_eq]
  constructor
  · intro h
    refine Classical.byContradiction fun uncarried => ?_
    have zero : ∀ (n : Nat) (hn : n < 4), t.tags[n].countP (carries r) = 0 := fun n hn => by
      refine Decidable.byContradiction fun carried => ?_
      obtain ⟨o, ho, hr⟩ := (inRing n hn).1 carried
      exact uncarried ⟨⟨n, hn⟩, o, ho, hr⟩
    exact h (by rw [zero, zero, zero, zero])
  · rintro ⟨⟨n, hn⟩, o, ho, hr⟩
    have carried := (inRing n hn).2 ⟨o, ho, hr⟩
    match n with
    | 0 | 1 | 2 | 3 => omega

/-- The references counted anew once a ring's tags have been replaced. -/
theorem SlotTable.refsTo_setRing (t : SlotTable) (ring : Fin 4) (l : List (Option SlotTag)) (r : KeyRef) :
    ({ t with tags := t.tags.set ring l }).refsTo r + t.tags[ring].countP (carries r) = t.refsTo r + l.countP (carries r) := by
  rw [SlotTable.refsTo_eq, SlotTable.refsTo_eq]
  obtain ⟨n, hn⟩ := ring
  simp only [Fin.getElem_fin, Vector.getElem_set]
  match n with
  | 0 | 1 | 2 | 3 => simp; omega

/-- The references counted anew once a tag has been replaced. -/
theorem SlotTable.refsTo_setTag {t : SlotTable} {ring : Fin 4} {slot : Nat} (o : Option SlotTag) (r : KeyRef)
    (h : slot < t.tags[ring].length) :
    (t.setTag ring slot o).refsTo r + oneRef ((t.tag ring slot).bind SlotTag.keyRef) r = t.refsTo r + oneRef (o.bind SlotTag.keyRef) r := by
  have ringwise := t.refsTo_setRing ring (t.tags[ring].set slot o) r
  have held : t.tag ring slot = t.tags[ring][slot] := by rw [SlotTable.tag, List.getD_eq_getElem?_getD, List.getElem?_eq_getElem h]; rfl
  have counted := List.countP_set (p := carries r) (a := o) h
  have bound : (if carries r t.tags[ring][slot] = true then 1 else 0) ≤ t.tags[ring].countP (carries r) := by
    split
    · next carried => exact List.countP_pos_iff.2 ⟨_, List.getElem_mem h, carried⟩
    · exact Nat.zero_le _
  rw [held]
  rw [ite_carries, ite_carries] at counted
  rw [ite_carries] at bound
  have set : (t.setTag ring slot o).refsTo r = ({ t with tags := t.tags.set ring (t.tags[ring].set slot o) } : SlotTable).refsTo r := rfl
  omega

/-- A slot beyond the tags of its ring has no tag and takes none. -/
theorem SlotTable.setTag_beyond {t : SlotTable} {ring : Fin 4} {slot : Nat} (o : Option SlotTag) (h : t.tags[ring].length ≤ slot) :
    t.tag ring slot = none ∧ t.setTag ring slot o = t := by
  have h' : t.tags[ring.val].length ≤ slot := h
  constructor
  · simp [SlotTable.tag, List.getD_eq_getElem?_getD, h']
  · simp [SlotTable.setTag, List.set_eq_of_length_le h']

/-- A tag replaced by one without a reference: the reference it carried is carried by one tag less. -/
theorem SlotTable.refsTo_replace (t : SlotTable) (ring : Fin 4) (slot : Nat) {o : Option SlotTag} (r : KeyRef)
    (unreferenced : o.bind SlotTag.keyRef = none) :
    (t.setTag ring slot o).refsTo r + oneRef ((t.tag ring slot).bind SlotTag.keyRef) r = t.refsTo r := by
  by_cases h : slot < t.tags[ring].length
  · have := SlotTable.refsTo_setTag o r h
    rwa [unreferenced] at this
  · obtain ⟨invalid, same⟩ := SlotTable.setTag_beyond o (Nat.le_of_not_lt h)
    rw [invalid, same]
    rfl

/-- With the references to an entry made absent, a tag carries the references it carried to other entries (R52). -/
theorem carries_clearRef (i : Fin 192) (r : KeyRef) (o : Option SlotTag) :
    carries r (o.map (SlotTag.clearRef i)) = true ↔ r.entry ≠ i ∧ carries r o = true := by
  cases o with
  | none => simp [carries]
  | some g =>
    by_cases named : ∃ stamp, g.keyRef = some ⟨i, stamp⟩
    · obtain ⟨stamp, named⟩ := named
      simp only [carries, Option.map_some, Option.bind_some, SlotTag.clearRef_named named, named, beq_iff_eq, Option.some.injEq]
      exact ⟨fun absent => (nomatch absent), fun ⟨other, same⟩ => absurd (congrArg KeyRef.entry same).symm other⟩
    · rw [Option.map_some, SlotTag.clearRef_other fun stamp here => named ⟨stamp, here⟩]
      refine (and_iff_right_of_imp fun carried here => ?_).symm
      simp only [carries, Option.bind_some, beq_iff_eq] at carried
      exact named ⟨r.stamp, by rw [carried, ← here]⟩

/-- With the references to an entry made absent, no tag names it; all other references are carried as before (R52). -/
theorem SlotTable.refsTo_clearRefs (t : SlotTable) (i : Fin 192) (r : KeyRef) :
    (t.clearRefs (some i)).refsTo r = if r.entry = i then 0 else t.refsTo r := by
  have inRing : ∀ (n : Nat) (hn : n < 4), (t.clearRefs (some i)).tags[n].countP (carries r) =
      if r.entry = i then 0 else t.tags[n].countP (carries r) := fun n hn => by
    simp only [SlotTable.clearRefs, Vector.getElem_map, List.countP_map]
    split
    · next here => exact List.countP_eq_zero.2 fun o _ carried => ((carries_clearRef i r o).1 carried).1 here
    · next other => exact List.countP_congr fun o _ => (carries_clearRef i r o).trans (and_iff_right other)
  rw [SlotTable.refsTo_eq, SlotTable.refsTo_eq, inRing, inRing, inRing, inRing]
  split <;> rfl

/-! ### Counts -/

/-- The law of R46 for a key pool, the number of tags that carry each reference being `n`. With it, what keeps it: a FREE entry has
no references, and no reference that is carried has a stamp above its entry's. -/
structure KeyPool.Counts (k : KeyPool) (n : KeyRef → Nat) : Prop where
  counted : ∀ i : Fin 192, k.pool[i].refs = n ⟨i, k.pool[i].stamp⟩
  free    : ∀ i : Fin 192, k.pool[i].state = .free → k.pool[i].refs = 0
  older   : ∀ r, n r ≠ 0 → r.stamp.toNat ≤ k.pool[r.entry].stamp.toNat

/-- The law of R46 in a state is that of its key pool and its tags. -/
theorem State.referencesCounted_iff (s : State) : s.ReferencesCounted ↔ s.keys.Counts s.slots.refsTo := by
  constructor
  · intro h
    refine ⟨h.counted, h.free, fun r carried => ?_⟩
    obtain ⟨ring, o, ho, hr⟩ := (s.slots.refsTo_ne_zero_iff r).1 carried
    exact h.older ring o r ho hr
  · intro h
    exact ⟨h.counted, h.free, fun ring o r ho hr => h.older r ((s.slots.refsTo_ne_zero_iff r).2 ⟨ring, o, ho, hr⟩)⟩

variable {k : KeyPool} {n n' : KeyRef → Nat} {i : Fin 192}

/-- What the law depends on: the counts, the stamps and which entries are FREE. -/
theorem KeyPool.Counts.congr {k' : KeyPool} (h : k.Counts n) (refs : ∀ j : Fin 192, k'.pool[j].refs = k.pool[j].refs)
    (stamps : ∀ j : Fin 192, k'.pool[j].stamp = k.pool[j].stamp)
    (free : ∀ j : Fin 192, k'.pool[j].state = .free → k.pool[j].refs = 0) : k'.Counts n where
  counted j := by rw [refs, stamps]; exact h.counted j
  free j unused := by rw [refs]; exact free j unused
  older r carried := by rw [stamps]; exact h.older r carried

/-- One entry's count set to the number of tags that carry its reference now, all other references being carried as before. -/
theorem KeyPool.Counts.recount {k' : KeyPool} {e : PoolEntry} (h : k.Counts n)
    (pool : ∀ j : Fin 192, k'.pool[j] = if i = j then e else k.pool[j]) (stamp : e.stamp = k.pool[i].stamp)
    (refs : e.refs = n' ⟨i, k.pool[i].stamp⟩) (free : e.state = .free → e.refs = 0)
    (others : ∀ q, (⟨i, k.pool[i].stamp⟩ : KeyRef) ≠ q → n' q = n q) : k'.Counts n' := by
  have stamps : ∀ j : Fin 192, k'.pool[j].stamp = k.pool[j].stamp := fun j => by
    rw [pool]
    split
    · next same => subst same; exact stamp
    · rfl
  refine ⟨fun j => ?_, fun j => ?_, fun q carried => ?_⟩
  · rw [stamps, pool]
    split
    · next same => subst same; exact refs
    · next other => rw [h.counted, others]; exact fun same => other (congrArg KeyRef.entry same)
  · rw [pool]
    split
    · exact free
    · exact h.free j
  · rw [stamps]
    by_cases same : (⟨i, k.pool[i].stamp⟩ : KeyRef) = q
    · subst same; exact Nat.le_refl _
    · exact h.older q (others q same ▸ carried)

/-- A reference dropped is carried by one tag less; the entry it matches counts one less, a stale one counts nowhere (R49, R50). -/
theorem KeyPool.Counts.drop {r : KeyRef} (h : k.Counts n) (less : ∀ q, n' q + oneRef (some r) q = n q) : (k.drop r).Counts n' := by
  have others : ∀ q, r ≠ q → n' q = n q := fun q other => by have := less q; rwa [oneRef_some, if_neg other] at this
  have here : n' r + 1 = n r := by have := less r; rwa [oneRef_some, if_pos rfl] at this
  by_cases matching : k.pool[r.entry].stamp = r.stamp
  · have whole : (⟨r.entry, k.pool[r.entry].stamp⟩ : KeyRef) = r := by rw [matching]
    have count : k.pool[r.entry].refs = n r := by rw [h.counted, whole]
    rw [← whole] at others
    rw [KeyPool.drop_matching matching]
    split
    · next last =>
      refine h.recount (fun j => k.pool_setEntry r.entry j _) rfl ?_ (fun _ => rfl) others
      rw [whole]
      dsimp only
      omega
    · refine h.recount (fun j => k.pool_setEntry r.entry j _) rfl ?_ (fun free => ?_) others
      · rw [whole]
        dsimp only
        omega
      · have := h.free r.entry free
        omega
  · rw [KeyPool.drop_stale matching]
    refine ⟨fun j => ?_, h.free, fun q carried => h.older q fun none => carried ?_⟩
    · rw [h.counted, others]
      exact fun same => matching (by rw [same])
    · have := less q
      omega

theorem KeyPool.Counts.dropOption {o : Option KeyRef} (h : k.Counts n) (less : ∀ q, n' q + oneRef o q = n q) :
    (k.dropOption o).Counts n' := by
  cases o with
  | none =>
    have same : n' = n := funext less
    rw [same]
    exact h
  | some r => exact h.drop less

/-- The references of a ring's tags dropped, one tag after another (R28). -/
theorem KeyPool.Counts.dropTags {l : List (Option SlotTag)} (h : k.Counts n) (less : ∀ q, n' q + l.countP (carries q) = n q) :
    (k.dropTags l).Counts n' := by
  unfold KeyPool.dropTags
  induction l generalizing k n with
  | nil =>
    have same : n' = n := funext less
    rw [same]
    exact h
  | cons o l ih =>
    refine ih (n := fun q => n' q + l.countP (carries q)) (h.dropOption fun q => ?_) fun _ => rfl
    have := less q
    rw [List.countP_cons, ite_carries] at this
    omega

/-- A reference taken to an entry in use is carried by one tag more (R44). -/
theorem KeyPool.Counts.takeRef (h : k.Counts n) (used : k.pool[i].state ≠ .free)
    (more : ∀ q, n' q = n q + oneRef (some ⟨i, k.pool[i].stamp⟩) q) :
    (k.setEntry i { k.pool[i] with refs := k.pool[i].refs + 1 }).Counts n' := by
  refine h.recount (fun j => k.pool_setEntry i j _) rfl ?_ (fun free => absurd free used) fun q other => ?_
  · rw [more, oneRef_some, if_pos rfl, ← h.counted]
  · rw [more, oneRef_some, if_neg other]; rfl

/-- A key placed in an entry without references changes no count and no stamp; the entry dismissed is FREE at count 0 alone (R48). -/
theorem KeyPool.Counts.place {ks : Fin 64} {p : Phase} (h : k.Counts n) (w : Word) (other : (k.slot ks p).current ≠ some i)
    (unreferenced : k.pool[i].refs = 0) : (k.place ks p w i).Counts n := by
  refine h.congr (fun j => ?_) (fun j => ?_) fun j => ?_
  · rw [KeyPool.place_pool w other]
    split
    · next here => subst here; exact unreferenced.symm
    · split <;> rfl
  · rw [KeyPool.place_pool w other]
    split
    · next here => subst here; rfl
    · split <;> rfl
  · rw [KeyPool.place_pool w other]
    split
    · exact fun taken => PoolState.noConfusion taken
    · split
      · intro free
        refine Decidable.byContradiction fun left => ?_
        rw [PoolEntry.dismissed_of_ne_zero left] at free
        cases free
      · exact h.free j

/-- An entry reclaimed has a stamp no tag carries: the next one, above every stamp carried, or 0 with all references to it cleared
(R51, R52). -/
theorem KeyPool.Counts.reclaim (h : k.Counts n)
    (cleared : ∀ r, n' r = if k.pool[i].stamp = 65535#16 ∧ r.entry = i then 0 else n r) : (k.reclaim i).Counts n' := by
  have fewer : ∀ r, n' r ≠ 0 → n r ≠ 0 := fun r => by
    rw [cleared]
    split
    · exact fun zero => absurd rfl zero
    · exact id
  have others : ∀ r, r.entry ≠ i → n' r = n r := fun r other => by rw [cleared, if_neg fun here => other here.2]
  have risen : k.pool[i].stamp ≠ 65535#16 → (k.pool[i].stamp + 1).toNat = k.pool[i].stamp.toNat + 1 := fun below => by
    have : k.pool[i].stamp.toNat ≠ 65535 := fun top => below (BitVec.eq_of_toNat_eq top)
    have := k.pool[i].stamp.isLt
    rw [BitVec.toNat_add, show (1 : BitVec 16).toNat = 1 from rfl]
    omega
  refine ⟨fun j => ?_, fun j => ?_, fun r carried => ?_⟩
  · rw [KeyPool.reclaim_pool]
    split
    · next same =>
      subst same
      show 0 = n' ⟨i, k.pool[i].stamp + 1⟩
      rw [cleared]
      split
      · rfl
      · next kept =>
        refine Decidable.byContradiction fun used => ?_
        have old := h.older ⟨i, k.pool[i].stamp + 1⟩ fun zero => used zero.symm
        have := risen fun top => kept ⟨top, rfl⟩
        dsimp only at old
        omega
    · next other => rw [h.counted, others]; exact fun same => other same.symm
  · rw [KeyPool.reclaim_pool]
    split
    · exact fun _ => rfl
    · exact h.free j
  · have old := h.older r (fewer r carried)
    obtain ⟨j, stamp⟩ := r
    rw [KeyPool.reclaim_pool]
    split
    · next same =>
      subst same
      have := risen fun top => carried (by rw [cleared, if_pos ⟨top, rfl⟩])
      dsimp only at old
      dsimp only
      omega
    · exact old

/-- An installation keeps the law, the references to an entry whose stamp wrapped being cleared (R48, R51, R52). -/
theorem KeyPool.Counts.install {t : SlotTable} (h : k.Counts t.refsTo) (orderly : k.Orderly) (ks : Fin 64) (p : Phase) (w : Word) :
    (k.install ks p w).1.Counts (t.clearRefs (k.install ks p w).2).refsTo := by
  cases free : k.lowestFree with
  | some i =>
    have unused := ((k.lowestFree_iff i).1 free).1
    rw [KeyPool.install_free w free]
    exact h.place w ((orderly.but_free unused).not_current ks p) (h.free i unused)
  | none =>
    cases order : k.retireOrder with
    | nil => rw [KeyPool.install_nothing w free order]; exact h
    | cons i rest =>
      have retired : k.pool[i].state = .retired := (orderly.retired i).1 (by rw [order]; exact List.mem_cons_self)
      rw [KeyPool.install_reclaim w free order]
      have cleared : ∀ r, (t.clearRefs (if k.pool[i].stamp = 65535#16 then some i else none)).refsTo r =
          if k.pool[i].stamp = 65535#16 ∧ r.entry = i then 0 else t.refsTo r := fun r => by
        by_cases top : k.pool[i].stamp = 65535#16
        · rw [if_pos top, t.refsTo_clearRefs]
          simp only [top, true_and]
        · rw [if_neg top, if_neg fun here => top here.1]
          rfl
      refine (h.reclaim cleared).place w ((orderly.but_reclaim retired).not_current ks p) ?_
      rw [KeyPool.reclaim_pool, if_pos rfl]

end Sys2Proof.Machine
end

section
/-! PROOFS. What leaves the key pool and the slot tags as they are: every command but stream slot writes, the attaching and detaching of a
ring, KEY_INFO, KEY and a reset. -/

namespace Sys2Proof.Machine

/-- The key pool, the slot tags and the attached stream rings are as they were. -/
structure LeavesKeys (s t : State) : Prop where
  keys    : t.keys = s.keys
  tags    : t.slots.tags = s.slots.tags
  streams : t.path.streams = s.path.streams

namespace LeavesKeys

/-- What changes, changes in other fields. -/
theorem elsewhere {s t : State} (h : (t.keys, t.slots.tags, t.path.streams) = (s.keys, s.slots.tags, s.path.streams)) :
    LeavesKeys s t := by
  obtain ⟨keys, tags, streams⟩ := by simpa only [Prod.mk.injEq] using h
  exact ⟨keys, tags, streams⟩

theorem refl (s : State) : LeavesKeys s s := ⟨rfl, rfl, rfl⟩

theorem trans {s t u : State} (h : LeavesKeys s t) (k : LeavesKeys t u) : LeavesKeys s u :=
  ⟨k.keys.trans h.keys, k.tags.trans h.tags, k.streams.trans h.streams⟩

theorem fold {α : Type} {f : State → α → State} (hf : ∀ s a, LeavesKeys s (f s a)) (l : List α) (s : State) :
    LeavesKeys s (l.foldl f s) := by
  induction l generalizing s with
  | nil => exact refl s
  | cons a l ih => exact (hf s a).trans (ih _)

theorem ite {p : Prop} [Decidable p] {s t u : State} (h : LeavesKeys s t) (k : LeavesKeys s u) : LeavesKeys s (if p then t else u) := by
  split
  · exact h
  · exact k

/-- A cascade leaves them. -/
theorem of_cascade {s t : State} (h : Cascade s t) : LeavesKeys s t := ⟨h.keys, by rw [h.slots], by rw [h.path]⟩

variable (s : State)

/-! ### Arrivals and the memory side -/

theorem readPortions (r : ReadTxn) (l : List Portion) (a : State × List HeldPortion) :
    LeavesKeys a.1 (l.foldl (readPortion r) a).1 := by
  induction l generalizing a with
  | nil => exact refl _
  | cons q l ih =>
    refine LeavesKeys.trans ?_ (ih (readPortion r a q))
    rcases readPortion_cases r a q with h | ⟨id, h⟩ <;> rw [h]
    · exact refl _
    · exact elsewhere (by rfl)

theorem arriveRead (r : ReadTxn) : LeavesKeys s (s.arriveRead r) := by
  unfold State.arriveRead
  exact ite ((readPortions r _ (s, [])).trans (elsewhere (by rfl))) (refl s)

theorem arbitrate : LeavesKeys s s.arbitrate := by
  unfold State.arbitrate
  split
  · exact refl s
  · exact elsewhere (by rfl)
  · exact elsewhere (by rfl)
  · exact ite (elsewhere (by rfl)) (elsewhere (by rfl))

theorem grant : LeavesKeys s s.grant := by
  unfold State.grant
  split
  · exact arbitrate s
  · split
    · exact refl s
    · exact trans (t := s.performWrite _) (elsewhere (by rfl)) (arbitrate _)

theorem returnRead : LeavesKeys s s.returnRead := by
  unfold State.returnRead
  split
  · exact elsewhere (by rfl)
  · exact refl s

/-! ### Requests -/

theorem takeRequest : LeavesKeys s s.takeRequest := ite (elsewhere (by rfl)) (refl s)

theorem fetchDone : LeavesKeys s s.fetchDone := elsewhere (by rfl)

theorem answer (r : Request) (c : AnswerCode) (ws : List Word) : LeavesKeys s (s.answer r c ws) := elsewhere (by rfl)

theorem answerAtWrite (r : Request) (c : AnswerCode) (ws : List Word) : LeavesKeys s (s.answerAtWrite r c ws) :=
  ⟨State.answerAtWrite_keys .., by rw [State.answerAtWrite_slots], by rw [State.answerAtWrite_path]⟩

theorem answerOnceQueued (r : Request) (c : AnswerCode) (ws : List Word) : LeavesKeys s (s.answerOnceQueued r c ws) :=
  ⟨State.answerOnceQueued_keys .., by rw [State.answerOnceQueued_slots], by rw [State.answerOnceQueued_path]⟩

theorem serveUnknown : LeavesKeys s s.serveUnknown := by
  unfold State.serveUnknown
  split
  · exact refl s
  · exact ite (refl s) (elsewhere (by rfl))

/-- SERVICE_INFO changes a service's counter alone (R38). -/
theorem serveServiceInfo (r : Request) : LeavesKeys s (serveServiceInfo r s) := by
  refine ite (answer s _ _ _) (ite (answer s _ _ _) (ite (answer s _ _ _) ?_))
  dsimp only
  split
  · exact answer s _ _ _
  · exact trans (ite (elsewhere (by rfl)) (refl s)) (answer _ _ _ _)

/-- A change of the lock unit with its ROOM write, answered at the write's end (R82). -/
theorem settingAnswered {t : State} (h : LeavesKeys s t) (r : Request) (c : AnswerCode) (ws : List Word) :
    LeavesKeys s ((t.offerRoom .setting).answerAtWrite r c ws) :=
  trans (t := t.offerRoom .setting) (h.trans (elsewhere (by rfl))) (answerAtWrite ..)

theorem serveSetPin (r : Request) : LeavesKeys s (serveSetPin r s) := by
  unfold Machine.serveSetPin
  dsimp only
  split
  · exact answer s _ _ _
  · refine ite (answer s _ _ _) (ite (answer s _ _ _) ?_)
    split
    · exact settingAnswered s (elsewhere (by rfl)) _ _ _
    · exact ite (answer s _ _ _) (ite (settingAnswered s (elsewhere (by rfl)) _ _ _)
        (settingAnswered s (t := s.pinFailure) (elsewhere (by rfl)) _ _ _))

theorem serveSetGuestCeiling (r : Request) : LeavesKeys s (serveSetGuestCeiling r s) := by
  unfold Machine.serveSetGuestCeiling
  split
  · exact answer s _ _ _
  · refine ite (answer s _ _ _) (ite (answer s _ _ _) ?_)
    split
    · exact answer s _ _ _
    · exact ite (settingAnswered s (elsewhere (by rfl)) _ _ _) (settingAnswered s (t := s.pinFailure) (elsewhere (by rfl)) _ _ _)

theorem serveUnlock (r : Request) : LeavesKeys s (serveUnlock r s) := by
  unfold Machine.serveUnlock
  split
  · refine ite (answer s _ _ _) (ite (answer s _ _ _) ?_)
    split
    · exact answer s _ _ _
    · exact ite (ite (elsewhere (by rfl)) (trans (t := (s.grantTo _).offerRoom .unlock) (elsewhere (by rfl)) (answerOnceQueued _ _ _ _)))
        (trans (t := (s.wrongPin .unlock).1) (elsewhere (by rfl)) (answerOnceQueued _ _ _ _))
  · exact answer s _ _ _

theorem serveReadEvent (r : Request) : LeavesKeys s (serveReadEvent r s) := by
  refine ite (answer s _ _ _) ?_
  split <;> exact answer s _ _ _

theorem serveQuote (r : Request) : LeavesKeys s (serveQuote r s) := by
  refine ite (answer s _ _ _) (ite (answer s _ _ _) ?_)
  split
  · exact answer s _ _ _
  · split
    · exact answer s _ _ _
    · split <;> exact answer s _ _ _

theorem purchaseEvent (r : Request) (v : EventEntry) (h : Nat) : LeavesKeys s (s.purchaseEvent r v h) := by
  unfold State.purchaseEvent
  split
  · exact answer s _ _ _
  · exact ite (answer s _ _ _) (ite (answer s _ _ _) (ite (answer s _ _ _) (elsewhere (by rfl))))

theorem servePurchase (r : Request) : LeavesKeys s (servePurchase r s) := by
  refine ite (answer s _ _ _) (ite (answer s _ _ _) (ite (answer s _ _ _) ?_))
  split
  · exact answer s _ _ _
  · split
    · exact answer s _ _ _
    · split
      · exact answer s _ _ _
      · exact purchaseEvent s r _ _

theorem serveCancel (r : Request) : LeavesKeys s (serveCancel r s) := by
  refine ite (answer s _ _ _) ?_
  split
  · exact answer s _ _ _
  · split <;> exact elsewhere (by rfl)

theorem serveListPurchases (r : Request) : LeavesKeys s (serveListPurchases r s) := by
  refine ite (answer s _ _ _) (ite (answer s _ _ _) ?_)
  split <;> exact answer s _ _ _

/-! ### Records -/

theorem writeAnswer : LeavesKeys s s.writeAnswer := by
  unfold State.writeAnswer
  split
  · next a h _ =>
    refine ite (trans (t := s.issueAnswer a) (elsewhere (by rfl)) ?_) (refl s)
    cases h with
    | none => exact refl _
    | some n => exact of_cascade (.beginCommit _ _ _)
  all_goals exact refl s

theorem writeNotice : LeavesKeys s s.writeNotice := by
  unfold State.writeNotice
  split
  · exact refl s
  · exact ite (elsewhere (by rfl)) (refl s)

theorem writeBill : LeavesKeys s s.writeBill := by
  unfold State.writeBill
  split
  · exact ite (elsewhere (by rfl)) (refl s)
  · exact refl s

/-! ### Messages -/

theorem testDrain (c : Caller) : LeavesKeys s (s.testDrain c) := of_cascade (.testDrain s c)

theorem leaveOrWait : LeavesKeys s s.leaveOrWait := ite (elsewhere (by rfl)) (elsewhere (by rfl))

theorem consumeSerial (k : MsgKind) (n : Nat) : LeavesKeys s (s.consumeSerial k n) := by
  unfold State.consumeSerial
  split
  · exact refl s
  · exact elsewhere (by rfl)

theorem applyBind (m : Message) : LeavesKeys s (applyBind m s) := by
  unfold Machine.applyBind
  split
  · exact elsewhere (by rfl)
  · exact refl s

theorem applyUnbind : LeavesKeys s (applyUnbind s) := ite (elsewhere (by rfl)) (refl s)

theorem applyHotelKey (m : Message) : LeavesKeys s (applyHotelKey m s) := by
  unfold Machine.applyHotelKey
  split <;> exact elsewhere (by rfl)

theorem applyCheckIn (m : Message) : LeavesKeys s (applyCheckIn m s) := by
  unfold Machine.applyCheckIn
  split <;> exact elsewhere (by rfl)

theorem applyCheckOut : LeavesKeys s (applyCheckOut s) := by
  unfold Machine.applyCheckOut
  split
  · have opened : LeavesKeys s ((s.setRoomState .checkout).offerRoom .head) := elsewhere (by rfl)
    have released : ∀ u : State, LeavesKeys u u.releaseAllHeld := fun u =>
      fold (fun u e => elsewhere (t := u.releaseHeld .checkout e) (by rfl)) _ u
    have started : ∀ u : State, LeavesKeys u (u.startCheckoutTimer.raise .room) := fun _ => elsewhere (by rfl)
    exact ((opened.trans (released _)).trans (started _)).trans (testDrain _ _)
  all_goals exact refl s

theorem applyPolicy (m : Message) : LeavesKeys s (applyPolicy m s) := by
  exact ite (refl s) (trans (elsewhere (by rfl)) (fold (fun u h => of_cascade (.beginCommit u .head h)) _ _))

theorem ackUpTo (n : Nat) : LeavesKeys s (s.ackUpTo n) := by
  have written : ∀ (u : State) (l : LogRecord), LeavesKeys u (u.ackWrite l) := fun u l => by
    unfold State.ackWrite
    split
    · exact refl u
    · exact ite (elsewhere (by rfl)) (elsewhere (by rfl))
  unfold State.ackUpTo
  dsimp only
  split
  · exact elsewhere (by rfl)
  · exact trans (elsewhere (by rfl)) (fold written _ _)

theorem applyBillAck (m : Message) : LeavesKeys s (applyBillAck m s) := by
  refine ite (refl s) ?_
  split
  · exact testDrain s _
  · exact ite ((ackUpTo s _).trans (testDrain _ _)) (testDrain s _)

/-- A SERVICE_MAP changes services alone (R33). -/
theorem applyServiceMap (m : Message) : LeavesKeys s (applyServiceMap m s) :=
  ite ⟨rfl, (SlotTable.applyMapEntries m _ s.slots).1, rfl⟩ (refl s)

theorem announce (a : EventEntry) : LeavesKeys s (s.announce a) := by
  have events : ∀ (u : State) (e : EventUnit), LeavesKeys u { u with events := e } := fun _ _ => elsewhere (by rfl)
  have ended : ∀ id, LeavesKeys s (s.endPurchase .head id) := fun id => of_cascade (.endPurchase s .head id)
  unfold State.announce
  split
  · unfold State.announceKnown
    split
    · exact events s _
    · exact ite (elsewhere (by rfl)) (ite ((of_cascade (.endEvent s .head _)).trans (events _ _)) (refl s))
  · refine ite (ended _) ?_
    split
    · exact ite (events s _) (ite ((ended _).trans (events _ _)) (refl s))
    · unfold State.announceNew
      refine ite (events s _) ?_
      split
      · exact refl s
      · exact events s _

theorem applyEvent (m : Message) : LeavesKeys s (applyEvent m s) := by
  refine ite (fold (fun u j => ?_) _ s) (refl s)
  split
  · exact refl u
  · exact announce u _

theorem applySlate (m : Message) : LeavesKeys s (applySlate m s) := by
  unfold Machine.applySlate
  dsimp only
  split <;> exact elsewhere (by rfl)

/-- Every message but KEY leaves the key pool and the tags. -/
theorem applyKind {k : MsgKind} (m : Message) (h : k ≠ .key) : LeavesKeys s (applyKind k m s) := by
  cases k with
  | key => exact absurd rfl h
  | bind => exact applyBind s m
  | unbind => exact applyUnbind s
  | checkIn => exact applyCheckIn s m
  | checkOut => exact applyCheckOut s
  | setCap => exact ite (elsewhere (by rfl)) (refl s)
  | entitle => exact ite (refl s) (elsewhere (by rfl))
  | policy => exact applyPolicy s m
  | billAck => exact applyBillAck s m
  | suspend | resume => exact ite (refl s) (elsewhere (by rfl))
  | hotelKey => exact applyHotelKey s m
  | clearPin => exact ite (refl s) (elsewhere (by rfl))
  | serviceMap => exact applyServiceMap s m
  | event => exact applyEvent s m
  | time => exact elsewhere (by rfl)
  | slate => exact applySlate s m

/-! ### Start-up, store writes and the tick -/

theorem takeRecovered (x : Scanned) : LeavesKeys s (s.takeRecovered x) := by
  have freed : ∀ (u : State) (l : List CommitRecord), LeavesKeys u (u.freeRecords l) := fun u l =>
    fold (fun u (r : CommitRecord) => of_cascade (.freeIfAcked u .part (some r.seq))) l u
  unfold State.takeRecovered
  dsimp only
  exact trans (ite (elsewhere (by rfl)) (elsewhere (by rfl))) (freed _ _)

theorem endStartUp : LeavesKeys s s.endStartUp := by
  have locked : ∀ u : State, LeavesKeys u u.startUpLockout := fun u => ite (elsewhere (by rfl)) (refl u)
  have drained : ∀ u : State, LeavesKeys u u.startUpCheckout := fun u =>
    ite (trans (t := u.startCheckoutTimer) (elsewhere (by rfl)) (testDrain _ _)) (refl u)
  have recovered : LeavesKeys s (s.startTimer.takeRecovered (s.req.scanned.getD Scanned.nothing)) :=
    trans (t := s.startTimer) (elsewhere (by rfl)) (takeRecovered _ _)
  have ended : ∀ (u : State) (n : Notice), LeavesKeys u { u.raise n with
      req := { (u.raise n).req with startUp := .running, scanned := none } } :=
    fun _ _ => elsewhere (by rfl)
  exact ((recovered.trans (locked _)).trans (drained _)).trans (ended _ _)

theorem endStartUpIf : LeavesKeys s s.endStartUpIf := by
  unfold State.endStartUpIf
  split
  · exact endStartUp s
  all_goals exact refl s

theorem scanComplete (e : ScanEnd) : LeavesKeys s (s.scanComplete e) := by
  unfold State.scanComplete
  split
  · cases e with
    | unreadable =>
      exact trans (elsewhere (by rfl)) (endStartUp _)
    | read failed =>
      exact trans (elsewhere (by rfl)) (fold (fun u w => elsewhere (t := u.offer .part w) (by rfl)) _ _)
  all_goals exact refl s

theorem writeDone (q : QueuedWrite) : LeavesKeys s (s.writeDone q) := by
  unfold State.writeDone
  split
  · exact trans (ite (elsewhere (by rfl)) (refl s)) (endStartUpIf _)
  · exact ite (refl s) (of_cascade (.completeCommit s _))
  · exact ite (refl s) (elsewhere (by rfl))
  all_goals exact refl s

theorem completeWrite (v : Verify) : LeavesKeys s (s.completeWrite v) := by
  have failed : ∀ u : State, LeavesKeys u (State.failedCommits s u.storeFault).endStartUpIf := fun u =>
    ((of_cascade (.storeFault u)).trans (ite (of_cascade (.commitEnded _ _)) (refl _))).trans (endStartUpIf _)
  unfold State.completeWrite
  split
  · exact refl s
  · cases v with
    | verified =>
      exact trans (elsewhere (by rfl)) (writeDone _ _)
    | failedFormer => exact failed s
    | failedDamaged =>
      exact trans (elsewhere (by rfl)) (failed _)

theorem advanceLine : LeavesKeys s s.advanceLine := by
  have goneOn : ∀ u : State, LeavesKeys u u.goOn := fun u => by
    have answered : LeavesKeys u (if u.store.line.any (·.any (·.admits)) then u else { u with req := u.req.writeJoined }) :=
      ite (refl u) (elsewhere (by rfl))
    exact answered.trans (ite (elsewhere (by rfl)) (refl _))
  exact trans (elsewhere (by rfl)) (goneOn _)

theorem takeTick : LeavesKeys s s.takeTick := by
  have folded : LeavesKeys s (State.foldMarks s.events.advance.plan.1 { s with events := s.events.advance }) :=
    trans (t := { s with events := s.events.advance }) (elsewhere (by rfl)) (of_cascade (.foldMarks _ _))
  exact ite (folded.trans (elsewhere (by rfl))) (refl s)

end LeavesKeys

end Sys2Proof.Machine
end

section
/-! PROOFS. Every step keeps the retire order and the current entries exact, and the reference counts with them (O6). -/

namespace Sys2Proof.Machine

/-! ### Where a stream slot portion lies -/

/-- A stream ring found at an address is attached, and its window covers the address. -/
theorem PathUnit.streamAt_some {p : PathUnit} {a : Nat} {ring : Fin 4} {win : Window} (h : p.streamAt a = some (ring, win)) :
    p.streams[ring] = some win ∧ win.covers a = true := by
  obtain ⟨r, -, found⟩ := List.exists_of_findSome?_eq_some h
  split at found
  · next w hw =>
    split at found
    · next covers => cases found; exact ⟨hw, covers⟩
    · cases found
  · cases found

/-- A place in a stream slot is one of an attached ring's slots (R3). -/
theorem PathUnit.locate_streamSlot {p : PathUnit} {a slot : Nat} {ring : Fin 4} (h : (p.locate a).1 = .streamSlot ring slot) :
    ∃ win, p.streams[ring] = some win ∧ slot < win.slots := by
  unfold PathUnit.locate at h
  split at h
  · split at h <;> cases h
  · split at h
    · next r w found =>
      cases h
      obtain ⟨attached, covers⟩ := PathUnit.streamAt_some found
      have := (w.covers_iff a).1 covers
      exact ⟨w, attached, by omega⟩
    · split at h
      · split at h <;> cases h
      · cases h

/-- A portion that lies in a stream slot lies in a slot its ring has. -/
def Portion.fits (q : Portion) (p : PathUnit) : Prop :=
  ∀ ring slot, q.region = .streamSlot ring slot → ∃ win, p.streams[ring] = some win ∧ slot < win.slots

theorem PathUnit.portions_fit (p : PathUnit) (addr : BitVec 32) (len : Nat) : ∀ q ∈ p.portions addr len, q.fits p := by
  intro q hq ring slot region
  obtain ⟨j, -, located⟩ := p.portions_region addr len q hq
  exact PathUnit.locate_streamSlot (located.trans region)

/-! ### What every command keeps -/

/-- The key pool is orderly, every slot has its tag, and the reference counts are exact (R23, R46, R47). -/
structure State.KeysSound (s : State) : Prop where
  orderly : s.keys.Orderly
  fit     : s.tagsFit
  counts  : s.keys.Counts s.slots.refsTo

/-- What the fit of tags and slots depends on. -/
theorem State.tagsFit_congr {s t : State} (size : s.slots.SameSize t.slots) (streams : t.path.streams = s.path.streams)
    (h : s.tagsFit) : t.tagsFit := fun r => by
  rw [size r, streams]; exact h r

/-- What every command keeps: an orderly key pool, and one that is orderly with exact counts. -/
structure KeepsKeys (s t : State) : Prop where
  orderly : s.keys.Orderly → t.keys.Orderly
  sound   : s.KeysSound → t.KeysSound

namespace KeepsKeys

theorem refl (s : State) : KeepsKeys s s := ⟨id, id⟩

theorem trans {s t u : State} (h : KeepsKeys s t) (k : KeepsKeys t u) : KeepsKeys s u := ⟨k.orderly ∘ h.orderly, k.sound ∘ h.sound⟩

theorem ite {p : Prop} [Decidable p] {s t u : State} (h : KeepsKeys s t) (k : KeepsKeys s u) : KeepsKeys s (if p then t else u) := by
  split
  · exact h
  · exact k

theorem fold {α : Type} {f : State → α → State} (hf : ∀ s a, KeepsKeys s (f s a)) (l : List α) (s : State) :
    KeepsKeys s (l.foldl f s) := by
  induction l generalizing s with
  | nil => exact refl s
  | cons a l ih => exact (hf s a).trans (ih _)

/-- With the key pool and the tags left as they are, everything is kept. -/
theorem of_leaves {s t : State} (h : LeavesKeys s t) : KeepsKeys s t where
  orderly := by rw [h.keys]; exact id
  sound := fun k => by
    have counts : t.slots.refsTo = s.slots.refsTo := by unfold SlotTable.refsTo; rw [h.tags]
    refine ⟨by rw [h.keys]; exact k.orderly, State.tagsFit_congr (fun r => by rw [h.tags]) h.streams k.fit, ?_⟩
    rw [h.keys, counts]
    exact k.counts

variable (s : State)

/-! ### Keys installed and announced -/

theorem installKey (ks : Fin 64) (p : Phase) (w : Word) : KeepsKeys s (s.installKey ks p w) where
  orderly := fun h => h.install ks p w
  sound := fun h => ⟨h.orderly.install ks p w, State.tagsFit_congr (s.slots.clearRefs_size _) rfl h.fit,
    h.counts.install h.orderly ks p w⟩

/-- The staged key of a slot put in or taken away, its current entry left. -/
theorem setStaged (ks : Fin 64) (p : Phase) (w : Option Word) :
    KeepsKeys s { s with keys := s.keys.setSlot ks p { s.keys.slot ks p with staged := w } } where
  orderly := fun h => h.setSlot rfl
  sound := fun h => ⟨h.orderly.setSlot rfl, h.fit, h.counts.congr (fun _ => rfl) (fun _ => rfl) h.counts.free⟩

theorem installStaged (ks : Fin 64) (q : Phase) : KeepsKeys s (s.installStaged ks q) := by
  unfold State.installStaged
  split
  · exact refl s
  · exact (installKey s ks q.other _).trans (setStaged _ ks q.other none)

theorem announceKey (ks : Fin 64) (p : Phase) (w : Word) : KeepsKeys s (s.announceKey ks p w) := by
  unfold State.announceKey
  split
  · exact installKey s ks p w
  · exact ite (refl s) (setStaged s ks p (some w))

/-! ### Stream slot writes -/

/-- A tag replaced by one without a reference, the reference it carried being dropped (R25, R27). -/
theorem replaceTag (ring : Fin 4) (slot : Nat) {tag : Option SlotTag} (h : tag.bind SlotTag.keyRef = none) :
    KeepsKeys s (s.replaceTag ring slot tag) where
  orderly := fun o => o.dropOption _
  sound := fun k => ⟨k.orderly.dropOption _, State.tagsFit_congr (s.slots.setTag_size ring slot tag) rfl k.fit,
    k.counts.dropOption fun r => s.slots.refsTo_replace ring slot r h⟩

theorem soundTag (ring : Fin 4) (slot : Nat) (w : Word) : KeepsKeys s (s.soundTag ring slot w) :=
  (replaceTag s ring slot (tag := some (SlotTag.ofHeader w)) rfl).trans (of_leaves (.elsewhere (by rfl)))

/-- A phase report for a tag that carries no reference yet (R44). -/
theorem phaseReport {ring : Fin 4} {slot : Nat} (ks : Fin 64) (q : Phase)
    (h : s.tagsFit → ∃ g, s.slots.tag ring slot = some g ∧ g.keyRef = none) : KeepsKeys s (s.phaseReport ring slot ks q) := by
  have installed := installStaged s ks q
  cases current : ((s.installStaged ks q).keys.slot ks q).current with
  | none => rw [State.phaseReport_absent ring slot current]; exact installed
  | some i =>
    refine ⟨fun o => ?_, fun k => ?_⟩
    · rw [State.phaseReport_keys]
      exact (installed.orderly o).takeRef ks q
    · obtain ⟨g, valid, unreferenced⟩ := h k.fit
      obtain ⟨orderly, fit, counts⟩ := installed.sound k
      have kept := State.installStaged_tag ks q valid unreferenced
      have inRange : slot < (s.installStaged ks q).slots.tags[ring].length := by
        refine Decidable.byContradiction fun beyond => ?_
        have invalid := (SlotTable.setTag_beyond none (Nat.le_of_not_lt beyond)).1
        rw [invalid] at kept
        cases kept
      have used : (s.installStaged ks q).keys.pool[i].state ≠ .free := by
        rw [orderly.current ks q i current]
        exact PoolState.noConfusion
      rw [State.phaseReport_current ring slot current]
      dsimp only
      rw [kept]
      refine ⟨orderly.setEntry rfl, State.tagsFit_congr (SlotTable.setTag_size _ ring slot _) rfl fit, ?_⟩
      refine counts.takeRef used fun r => ?_
      have recounted := SlotTable.refsTo_setTag
        (some { g with keyRef := some ⟨i, (s.installStaged ks q).keys.pool[i].stamp⟩ }) r inRange
      rw [kept, Option.bind_some, unreferenced] at recounted
      exact recounted

theorem setSlotTag {ring : Fin 4} {slot : Nat} (w : Word) (h : ∃ win, s.path.streams[ring] = some win ∧ slot < win.slots) :
    KeepsKeys s (s.setSlotTag ring slot w) := by
  rcases State.setSlotTag_cases ring slot w s with ⟨-, set⟩ | ⟨-, set | ⟨ks, q, set⟩⟩ <;> rw [set]
  · exact replaceTag s ring slot rfl
  · exact soundTag s ring slot w
  · refine (soundTag s ring slot w).trans (phaseReport _ ks q fun fit => ⟨SlotTag.ofHeader w, ?_, rfl⟩)
    obtain ⟨win, attached, inside⟩ := h
    have number : (s.soundTag ring slot w).slots.tags[ring].length = s.slots.tags[ring].length :=
      s.slots.setTag_size ring slot (some (SlotTag.ofHeader w)) ring
    have slots := fit ring
    rw [number, show (s.soundTag ring slot w).path.streams = s.path.streams from rfl, attached] at slots
    exact SlotTable.tag_setTag (some (SlotTag.ofHeader w)) (slots ▸ inside)

theorem streamWrite (w : WriteTxn) {ring : Fin 4} {slot : Nat} (q : Portion)
    (h : ∃ win, s.path.streams[ring] = some win ∧ slot < win.slots) : KeepsKeys s (s.streamWrite w ring slot q) := by
  unfold State.streamWrite
  split
  · exact refl s
  · refine ite (ite ?_ (refl s)) (replaceTag s ring slot rfl)
    split
    · exact ite (setSlotTag s _ h) (replaceTag s ring slot rfl)
    · exact refl s

theorem writePortion (w : WriteTxn) {q : Portion} (h : q.fits s.path) : KeepsKeys s (s.writePortion w q) := by
  unfold State.writePortion
  split
  · next ring slot region => exact streamWrite s w q (h ring slot region)
  · refine of_leaves ?_
    unfold State.controlWrite
    split
    · exact .refl s
    · exact .ite (.elsewhere (by rfl)) (.refl s)
  · exact of_leaves (.elsewhere (by rfl))
  · exact refl s
  · exact refl s

theorem writePortions (w : WriteTxn) {l : List Portion} (h : ∀ q ∈ l, q.fits s.path) :
    KeepsKeys s (l.foldl (fun s q => s.writePortion w q) s) := by
  induction l generalizing s with
  | nil => exact refl s
  | cons q l ih =>
    refine (writePortion s w (h q List.mem_cons_self)).trans (ih _ fun q' hq' => ?_)
    rw [State.writePortion_path]
    exact h q' (List.mem_cons_of_mem _ hq')

theorem arriveWrite (w : WriteTxn) : KeepsKeys s (s.arriveWrite w) :=
  ite ((writePortions s w (s.path.portions_fit w.addr w.words.length)).trans (of_leaves (.elsewhere (by rfl)))) (refl s)

/-! ### Rings attached and detached -/

/-- A ring attached has tags without references, as many as its window has slots (R15). -/
theorem attach {n : Nat} (w : Window) (hn : n ≤ 4) (free : s.path.ring n = none) : KeepsKeys s (s.attach n w) where
  orderly := id
  sound := fun h => by
    refine ⟨h.orderly, State.tagsFit_setRing h.fit hn (some w), ?_⟩
    by_cases stream : n < 4
    · have empty : s.slots.tags[(⟨n, stream⟩ : Fin 4)] = [] := by
        have number := h.fit ⟨n, stream⟩
        rw [← s.path.ring_stream ⟨n, stream⟩, free] at number
        exact List.eq_nil_of_length_eq_zero number
      have same : (s.attach n w).slots.refsTo = s.slots.refsTo := funext fun r => by
        have recounted := s.slots.refsTo_setRing ⟨n, stream⟩ (List.replicate w.slots none) r
        rw [empty, show (List.replicate w.slots none).countP (carries r) = 0 from List.countP_replicate] at recounted
        rw [State.attach_stream stream]
        exact recounted
      rw [same]
      exact h.counts
    · obtain rfl : n = 4 := by omega
      exact h.counts

/-- A ring detached has no tags, the references they carried being dropped (R16, R28). -/
theorem detach {n : Nat} (hn : n ≤ 4) : KeepsKeys s (s.detach n) := by
  by_cases stream : n < 4
  · have keys : (s.detach n).keys = s.keys.dropTags s.slots.tags[n] := by rw [State.detach_stream stream]
    have slots : (s.detach n).slots = { s.slots with tags := s.slots.tags.set n [] } := by rw [State.detach_stream stream]
    refine ⟨fun o => by rw [keys]; exact o.dropTags _, fun h => ⟨by rw [keys]; exact h.orderly.dropTags _,
      State.tagsFit_setRing h.fit hn none, ?_⟩⟩
    rw [keys, slots]
    exact h.counts.dropTags fun r => s.slots.refsTo_setRing ⟨n, stream⟩ [] r
  · obtain rfl : n = 4 := by omega
    exact of_leaves (.elsewhere (by rfl))

theorem serveAttachRing (r : Request) : KeepsKeys s (serveAttachRing r s) := by
  unfold Machine.serveAttachRing
  dsimp only
  split
  · exact of_leaves (.elsewhere (by rfl))
  · next ok =>
    split
    · exact of_leaves (.elsewhere (by rfl))
    · next busy =>
      have ok : r.attachOk = true := by simpa using ok
      have free : s.path.ring (r.arg 1) = none := by simpa using busy
      exact ite (of_leaves (.elsewhere (by rfl))) (ite (of_leaves (.elsewhere (by rfl)))
        ((attach s _ (r.attachOk_iff.1 ok).1 free).trans (of_leaves (.answer _ _ _ _))))

theorem serveDetachRing (r : Request) : KeepsKeys s (serveDetachRing r s) := by
  unfold Machine.serveDetachRing
  split
  · exact of_leaves (.elsewhere (by rfl))
  · next h => exact ite (of_leaves (.elsewhere (by rfl))) ((detach s (Nat.le_of_not_lt h)).trans (of_leaves (.answer _ _ _ _)))

/-! ### Requests and messages -/

/-- KEY_INFO sets the reclaim count to 0 and changes nothing else of the pool (R58). -/
theorem serveKeyInfo (r : Request) : KeepsKeys s (serveKeyInfo r s) := by
  have counted : KeepsKeys s { s with keys := { s.keys with reclaims := 0 } } :=
    ⟨fun h => h.congr rfl (fun _ => rfl) fun _ _ => rfl, fun h => ⟨h.orderly.congr rfl (fun _ => rfl) fun _ _ => rfl, h.fit,
      h.counts.congr (fun _ => rfl) (fun _ => rfl) h.counts.free⟩⟩
  refine ite (of_leaves (.elsewhere (by rfl))) (ite (of_leaves (.elsewhere (by rfl))) ?_)
  split
  · exact of_leaves (.elsewhere (by rfl))
  · dsimp only
    refine trans ?_ (of_leaves (.answer _ _ _ _))
    exact ite counted (refl s)

theorem request {code : Nat} {f : Request → State → State} (h : requestService code = some f) (r : Request) : KeepsKeys s (f r s) := by
  unfold requestService at h
  split at h <;> cases h
  · exact serveAttachRing s r
  · exact serveDetachRing s r
  · exact of_leaves (.serveServiceInfo s r)
  · exact serveKeyInfo s r
  · exact of_leaves (.answer s _ _ _)
  · exact of_leaves (.serveSetPin s r)
  · exact of_leaves (.serveSetGuestCeiling s r)
  · exact of_leaves (.serveUnlock s r)
  · exact of_leaves (.elsewhere (by rfl))
  · exact of_leaves (.answer s _ _ _)
  · exact of_leaves (.serveReadEvent s r)
  · exact of_leaves (.serveQuote s r)
  · exact of_leaves (.servePurchase s r)
  · exact of_leaves (.serveCancel s r)
  · exact of_leaves (.serveListPurchases s r)
  · exact of_leaves (.answer s _ _ _)
  · exact of_leaves (.answer s _ _ _)

theorem serveAs {code : Nat} {f : Request → State → State} (h : requestService code = some f) : KeepsKeys s (s.serveAs code f) := by
  rcases s.serveAs_cases code f with e | ⟨r, -, -, e⟩ <;> rw [e]
  · exact refl s
  · exact (of_leaves (.fetchDone s)).trans (request _ h r)

theorem applyKey (m : Message) : KeepsKeys s (applyKey m s) := by
  unfold Machine.applyKey
  split
  · exact refl s
  · next b _ =>
    refine ite (fold (fun u j => ?_) _ s) (refl s)
    by_cases inRange : bytesAt (m.body (1 + 2 * j)) 0 1 < 64 ∧ bytesAt (m.body (1 + 2 * j)) 1 1 ≤ 1
    · rw [applyKeyEntry_inRange _ u inRange.1 inRange.2]
      exact announceKey u _ _ _
    · rw [applyKeyEntry_outOfRange _ u (by omega)]
      exact refl u

theorem applyHead (k : MsgKind) (m : Message) : KeepsKeys s (s.applyHead k m) := by
  have applied : ∀ u : State, KeepsKeys u (applyKind k m u) := fun u => by
    by_cases key : k = .key
    · subst key; exact applyKey u m
    · exact of_leaves (.applyKind u m key)
  exact ((of_leaves (.consumeSerial s k _)).trans (applied _)).trans (of_leaves (.leaveOrWait _))

theorem dealHeadAs (k : MsgKind) : KeepsKeys s (s.dealHeadAs k) := by
  rcases s.dealHeadAs_cases k with e | ⟨m, -, e⟩ <;> rw [e]
  · exact refl s
  · exact applyHead s k m

theorem dealHead : KeepsKeys s s.dealHead := by
  rcases s.dealHead_cases with e | e | ⟨k, m, -, e⟩ <;> rw [e]
  · exact refl s
  · exact of_leaves (.elsewhere (by rfl))
  · exact applyHead s k m

/-! ### Reset, and every step -/

/-- After reset no entry is in use and there is no tag (R53, R176). -/
theorem takeReset (straps : BitVec 4) (performed : BitVec 128) : KeepsKeys s (s.takeReset straps performed) where
  orderly := fun _ => KeyPool.reset_orderly
  sound := fun _ => ⟨KeyPool.reset_orderly, (State.windowsFit_of_none rfl rfl rfl).2,
    State.reset.referencesCounted_iff.1 State.reset_referencesCounted⟩

theorem of_effect {s t : State} (h : Effect s t) : KeepsKeys s t := by
  cases h with
  | scan e => exact of_leaves (.scanComplete s e)
  | write w => exact arriveWrite s w
  | read r => exact of_leaves (.arriveRead s r)
  | returnRead => exact of_leaves (.returnRead s)
  | grant => exact of_leaves (.grant s)
  | takeRequest => exact of_leaves (.takeRequest s)
  | serveUnknown => exact of_leaves (.serveUnknown s)
  | serve h => exact serveAs s h
  | writeAnswer => exact of_leaves (.writeAnswer s)
  | writeNotice => exact of_leaves (.writeNotice s)
  | writeBill => exact of_leaves (.writeBill s)
  | dealHead => exact dealHead s
  | dealHeadAs k => exact dealHeadAs s k
  | tick => exact of_leaves (.takeTick s)
  | completeWrite v => exact of_leaves (.completeWrite s v)
  | advanceLine => exact of_leaves (.advanceLine s)

theorem of_exec {c : Instr} {s t : State} (h : exec c s = .next t) : KeepsKeys s t := by
  rcases exec_inv h with ⟨straps, performed, rfl⟩ | ⟨p, rfl⟩ | h
  · exact takeReset s straps performed
  · exact of_leaves (.of_cascade (.takeOwed s p))
  · exact (of_leaves (.of_cascade (.settle s))).trans (of_effect h)

/-- What every step keeps. -/
theorem of_step {s t : State} (h : step s = .next t) : KeepsKeys s t := by
  rcases step_inv h with rfl | ⟨c, rest, -, h⟩
  · exact refl t
  · exact trans (t := { s with pending := rest }) (of_leaves (.elsewhere (by rfl))) (of_exec h)

end KeepsKeys

end Sys2Proof.Machine

open Sys2Proof Sys2Proof.Machine

/-- Settles O6: only installations, references taken and references dropped touch the pool, and each keeps the law. -/
theorem retireOrderStaysExact : Obligations.RetireOrderStaysExact := by
  refine ⟨fun s t orderly h => (KeepsKeys.of_step h).orderly orderly, fun s t orderly fit counted h => ?_⟩
  have sound : s.KeysSound := ⟨orderly, fit, s.referencesCounted_iff.1 counted⟩
  exact t.referencesCounted_iff.2 ((KeepsKeys.of_step h).sound sound).counts
end

section
/-! PROOFS. BIND, UNBIND and HOTEL_KEY (O47): the serial each consumes, and what each applies behind it. -/

namespace Sys2Proof.Machine

/-! ### Serials consumed (R153) -/

/-- A device-scope message's serial becomes the device scope's last one. -/
theorem State.consumeSerial_device {k : MsgKind} (h : k.scope = .device) (n : Nat) (s : State) : s.consumeSerial k n =
    { s with
      msgs := { s.msgs with serials := { s.msgs.serials with device := n } }
      store := s.store.offer .head (.serials (some { s.msgs.serials with device := n })) } := by
  unfold State.consumeSerial State.serialsAfter
  rw [h]
  rfl

/-- A room-scope message's serial becomes the room scope's last one. -/
theorem State.consumeSerial_room {k : MsgKind} (h : k.scope = .room) (other : k ≠ .unbind) (n : Nat) (s : State) :
    s.consumeSerial k n = s.roomSerial n := by
  unfold State.consumeSerial State.serialsAfter
  rw [h]
  dsimp only
  rw [if_neg fun unbind => other unbind.1]
  rfl

/-- An UNBIND that is applied sets the room scope's last serial back to 0 (R156). -/
theorem State.consumeSerial_unbind {s : State} (h : s.unbinds = true) (n : Nat) : s.consumeSerial .unbind n = s.roomSerial 0 := by
  unfold State.consumeSerial State.serialsAfter
  dsimp only [MsgKind.scope]
  rw [if_pos ⟨rfl, h⟩]
  rfl

/-! ### Application (R155, R156, R164) -/

/-- An UNBIND is applied in VACANT with the bill log empty (R156). -/
theorem State.unbinds_iff (s : State) : s.unbinds = true ↔ s.msgs.room.state = .vacant ∧ s.bills.log = [] := by
  simp [State.unbinds]

/-- BIND in UNBOUND (R155). -/
theorem applyBind_unbound {s : State} {d : Identity} (m : Message) (hd : s.msgs.identity = some d) (unbound : s.msgs.room.state = .unbound) :
    applyBind m s =
      let t := { s with
        msgs := { s.msgs with room := s.msgs.room.bound (m.binding d.key), policy := Policy.defaults }
        lock := LockUnit.cleared }
      { t with
        store := ((s.store.offer .head (.binding (some (m.binding d.key)))).offer .head (.policy (some Policy.defaults))).offer .head
          (.room (some t.roomRecord))
        req := { s.req with notices := raiseIn .room s.req.notices } } := by
  unfold applyBind
  rw [unbound, hd]
  rfl

/-- UNBIND where it is applied (R156). -/
theorem applyUnbind_applied {s : State} (h : s.unbinds = true) : applyUnbind s =
    let t := { s with
      msgs := { s.msgs with room := s.msgs.room.unbound, policy := Policy.defaults }
      lock := LockUnit.cleared
      purchases := { s.purchases with titles := [] } }
    { t with
      store := (((s.store.offer .head (.binding none)).offer .head (.policy none)).offer .head (.titles none)).offer .head
        (.room (some t.roomRecord))
      req := { s.req with notices := raiseIn .room s.req.notices } } := if_pos h

/-- HOTEL_KEY in a bound room (R164). -/
theorem applyHotelKey_bound {s : State} {b : Binding} (m : Message) (bound : s.msgs.room.state ≠ .unbound)
    (hb : s.msgs.room.binding = some b) : applyHotelKey m s =
      { s with
        msgs := { s.msgs with room := { s.msgs.room with binding := some { b with hotelKey := m.keyParts b.roomKey.k1 0 0 } } }
        store := s.store.offer .head (.binding (some { b with hotelKey := m.keyParts b.roomKey.k1 0 0 })) } := by
  unfold applyHotelKey
  rw [hb]
  cases state : s.msgs.room.state with
  | unbound => exact absurd state bound
  | vacant | occupied | checkout => rfl

/-- The row of a message kind consumes the serial, applies the message and lets it leave or wait (R148, R153). -/
theorem exec_applied {k : MsgKind} {s t : State} {m : Message} (h : s.heading k m)
    (applied : applyKind k m (s.consumeSerial k m.serial) = t) : exec k.row s = .next t.leaveOrWait := by
  rw [exec_heading h, State.applyHead, applied]

end Sys2Proof.Machine

open Sys2Proof Sys2Proof.Machine

/-- Settles O47: the serial is consumed first, and the kind's application offers its writes behind it. -/
theorem bindingMessagesApplied : Obligations.BindingMessagesApplied := by
  refine ⟨fun s m d heading hd unbound => ?_, fun s m heading vacant unbilled => ?_, fun s m b heading bound hb => ?_⟩
  · intro part b serials room record t
    refine exec_applied (k := .bind) heading ?_
    rw [State.consumeSerial_device rfl]
    exact applyBind_unbound m hd unbound
  · intro serials room record t
    have unbinds := s.unbinds_iff.2 ⟨vacant, unbilled⟩
    refine exec_applied (k := .unbind) heading ?_
    rw [State.consumeSerial_unbind unbinds]
    exact applyUnbind_applied (s := s.roomSerial 0) unbinds
  · intro part b' s1
    refine exec_applied (k := .hotelKey) heading ?_
    rw [State.consumeSerial_room rfl (by decide)]
    exact applyHotelKey_bound (s := s1) m bound hb
end

section
/-! PROOFS. SLATE (O44) and SLATE_INFO (O28): how a half joins a staging, and the digits of the words SLATE_INFO answers. -/

namespace Sys2Proof.Machine

/-! ### A half staged (R72) -/

/-- The staging that a half of load `n` joins: the one there when it is of that load, else a fresh one (R72). -/
def Slate.joinable (x : Slate) (n : BitVec 8) : Staging :=
  match x.staging with
  | some g => if g.load = n then g else ⟨n, none, none⟩
  | none => ⟨n, none, none⟩

theorem Slate.joinable_load (x : Slate) (n : BitVec 8) : (x.joinable n).load = n := by
  unfold Slate.joinable
  split
  · split
    · assumption
    · rfl
  · rfl

theorem Slate.stage_eq_setHalf (x : Slate) (h : Nat) (n : BitVec 8) (b : BitVec 480) :
    x.stage h n b = (x.joinable n).setHalf h b := by
  unfold Slate.stage Slate.joinable
  cases x.staging with
  | none => rfl
  | some g => exact (apply_ite (Staging.setHalf · h b) _ _ _).symm

theorem Staging.setHalf_eq (g : Staging) {h : Nat} (half : h ≤ 1) (b : BitVec 480) : g.setHalf h b =
    { load := g.load
      half0 := if h = 0 then some b else g.half0
      half1 := if h = 1 then some b else g.half1 } := by
  obtain rfl | rfl : h = 0 ∨ h = 1 := by omega
  · rfl
  · rfl

/-- The staging after half `h` of load `n`, half by half (R72). -/
theorem Slate.stage_eq (x : Slate) {h : Nat} (half : h ≤ 1) (n : BitVec 8) (b : BitVec 480) : x.stage h n b =
    { load := n
      half0 := if h = 0 then some b else (x.joinable n).half0
      half1 := if h = 1 then some b else (x.joinable n).half1 } := by
  rw [Slate.stage_eq_setHalf, Staging.setHalf_eq _ half, Slate.joinable_load]

/-- A slate with the staging `g` of load `n`, completed when both halves are present (R72). -/
def Slate.withStaging (x : Slate) (n : BitVec 8) (g : Staging) : Slate :=
  { staging := some g
    inUse := match g.half0, g.half1 with
      | some b0, some b1 => some ⟨n, b1 ++ b0⟩
      | _, _ => x.inUse }

theorem Slate.load_eq_withStaging (x : Slate) (h : Nat) (n : BitVec 8) (b : BitVec 480) :
    x.load h n b = x.withStaging n (x.stage h n b) := rfl

/-! ### SLATE applied (R71, R72) -/

theorem applySlate_store (m : Message) (s : State) : (applySlate m s).store = s.store := by
  unfold applySlate
  dsimp only
  split <;> rfl

/-- An index or a half out of range is ignored whole (R72). -/
theorem applySlate_outOfRange {m : Message} (s : State)
    (h : bytesAt (m.body 0) 0 1 = 0 ∨ 7 < bytesAt (m.body 0) 0 1 ∨ 1 < bytesAt (m.body 0) 1 1) : applySlate m s = s := by
  unfold applySlate
  exact dif_neg (by omega)

theorem applySlate_inRange {m : Message} (s : State) (index : 1 ≤ bytesAt (m.body 0) 0 1 ∧ bytesAt (m.body 0) 0 1 ≤ 7)
    (half : bytesAt (m.body 0) 1 1 ≤ 1) : applySlate m s =
      { s with slates := { s.slates with
          slates := s.slates.slates.set (bytesAt (m.body 0) 0 1 - 1)
            ((s.slates.slates[bytesAt (m.body 0) 0 1 - 1]'(by omega)).load (bytesAt (m.body 0) 1 1)
              (BitVec.ofNat 8 (bytesAt (m.body 0) 2 1)) m.slateBytes)
            (by omega) } } := by
  unfold applySlate
  exact dif_pos ⟨index.1, index.2, half⟩

/-! ### A number's digits -/

/-- The number with the digits `l` in base `b`, lowest first. -/
def ofDigits (b : Nat) : List Nat → Nat
  | [] => 0
  | d :: l => d + b * ofDigits b l

/-- The digit at place `j` of a number given by its digits; 0 above them. -/
theorem ofDigits_digit {b : Nat} {l : List Nat} (h : ∀ d ∈ l, d < b) (j : Nat) : ofDigits b l / b ^ j % b = l.getD j 0 := by
  induction l generalizing j with
  | nil => rw [ofDigits, Nat.zero_div, Nat.zero_mod]; rfl
  | cons d l ih =>
    obtain ⟨hd, hl⟩ := List.forall_mem_cons.1 h
    cases j with
    | zero => rw [ofDigits, Nat.pow_zero, Nat.div_one, Nat.add_mul_mod_self_left, Nat.mod_eq_of_lt hd]; rfl
    | succ j => rw [ofDigits, Nat.pow_succ', ← Nat.div_div_eq_div_mul, Nat.add_mul_div_left _ _ (Nat.zero_lt_of_lt hd),
        Nat.div_eq_of_lt hd, Nat.zero_add, ih hl, List.getD_cons_succ]

theorem ofDigits_lt {b : Nat} {l : List Nat} (h : ∀ d ∈ l, d < b) : ofDigits b l < b ^ l.length := by
  induction l with
  | nil => exact Nat.one_pos
  | cons d l ih =>
    obtain ⟨hd, hl⟩ := List.forall_mem_cons.1 h
    calc ofDigits b (d :: l) < b + b * ofDigits b l := Nat.add_lt_add_right hd _
      _ = b * (ofDigits b l + 1) := by rw [Nat.mul_succ, Nat.add_comm]
      _ ≤ b * b ^ l.length := Nat.mul_le_mul_left b (ih hl)
      _ = b ^ (d :: l).length := by rw [List.length_cons, Nat.pow_succ']

/-- A sum of multiples of ascending powers of the base, from power `k` on. -/
theorem sum_mul_pow_eq_ofDigits {n : Nat} (b k : Nat) (d : Fin n → Nat) :
    ((List.finRange n).map fun i => d i * b ^ (i.val + k)).sum = b ^ k * ofDigits b (List.ofFn d) := by
  induction n generalizing k with
  | zero => rfl
  | succ n ih =>
    have shifted : (fun i : Fin (n + 1) => d i * b ^ (i.val + k)) ∘ Fin.succ = fun i => d i.succ * b ^ (i.val + (k + 1)) := by
      funext i
      rw [Function.comp_apply, Fin.val_succ, Nat.add_assoc, Nat.add_comm 1 k]
    rw [List.finRange_succ, List.map_cons, List.sum_cons, List.map_map, shifted, ih, List.ofFn_succ, ofDigits, Nat.mul_add,
      Nat.pow_succ, Nat.mul_assoc, Fin.val_zero, Nat.zero_add, Nat.mul_comm (d 0)]

theorem ofFn_getD {n : Nat} (d : Fin n → Nat) (i : Fin n) : (List.ofFn d).getD i.val 0 = d i := by
  rw [List.getD_eq_getElem?_getD, List.getElem?_ofFn, dif_pos i.isLt, Option.getD_some]

theorem forall_mem_ofFn {n : Nat} {d : Fin n → Nat} {b : Nat} (h : ∀ i, d i < b) : ∀ x ∈ List.ofFn d, x < b := by
  intro x hx
  obtain ⟨i, rfl⟩ := List.mem_ofFn.1 hx
  exact h i

/-- A bit of a word holding a number given by its binary digits. -/
theorem single_ofDigits_getLsbD {l : List Nat} (h : ∀ d ∈ l, d < 2) (len : l.length ≤ 64) (j : Nat) :
    (single (ofDigits 2 l)).getLsbD j = decide (l.getD j 0 = 1) := by
  rw [single, BitVec.getLsbD_ofNat, Nat.testBit_eq_decide_div_mod_eq, ofDigits_digit h]
  by_cases hj : j < 64
  · rw [decide_eq_true hj, Bool.true_and]
  · have above : l.getD j 0 = 0 := by rw [List.getD_eq_getElem?_getD, List.getElem?_eq_none (by omega), Option.getD_none]
    rw [decide_eq_false hj, Bool.false_and, above]
    rfl

/-- A byte of a word holding a number given by its bytes. -/
theorem single_ofDigits_byte {l : List Nat} (h : ∀ d ∈ l, d < 256) (len : l.length ≤ 8) (j : Nat) :
    (single (ofDigits 256 l)).extractLsb' (8 * j) 8 = BitVec.ofNat 8 (l.getD j 0) := by
  have fits : ofDigits 256 l < 2 ^ 64 :=
    Nat.lt_of_lt_of_le (ofDigits_lt h) (Nat.pow_le_pow_right (n := 256) (by decide) len)
  apply BitVec.eq_of_toNat_eq
  rw [BitVec.extractLsb'_toNat, single, BitVec.toNat_ofNat, Nat.mod_eq_of_lt fits, Nat.shiftRight_eq_div_pow, BitVec.toNat_ofNat,
    ← ofDigits_digit h, Nat.mod_mod, Nat.pow_mul]

/-! ### The words of SLATE_INFO (R74) -/

/-- A set of slates, with `c` at place 0, by its binary digits. -/
theorem SlateTable.set_eq_ofDigits (t : SlateTable) (f : Slate → Bool) (c : Nat) :
    c + t.set f = ofDigits 2 (c :: List.ofFn fun i : Fin 7 => (f t.slates[i]).toNat) := by
  have term (i : Fin 7) : (if f t.slates[i] then 2 ^ (i.val + 1) else 0) = (f t.slates[i]).toNat * 2 ^ (i.val + 1) := by
    cases f t.slates[i] with
    | true => exact (Nat.one_mul _).symm
    | false => exact (Nat.zero_mul _).symm
  rw [ofDigits, SlateTable.set, funext term, sum_mul_pow_eq_ofDigits, Nat.pow_one]

/-- Bit i of a set's word is the test of slate i, bit 0 what stands for slate 0, and no other bit is one. -/
theorem SlateTable.set_getLsbD (t : SlateTable) (f : Slate → Bool) (c : Bool) :
    (single (c.toNat + t.set f)).getLsbD 0 = c ∧
    (∀ i : Fin 7, (single (c.toNat + t.set f)).getLsbD (i.val + 1) = f t.slates[i]) ∧
    ∀ i, 8 ≤ i → (single (c.toNat + t.set f)).getLsbD i = false := by
  have digits : ∀ d ∈ c.toNat :: List.ofFn fun i : Fin 7 => (f t.slates[i]).toNat, d < 2 :=
    List.forall_mem_cons.2 ⟨c.toNat_lt, forall_mem_ofFn fun i => (f t.slates[i]).toNat_lt⟩
  have bit := single_ofDigits_getLsbD digits (by rw [List.length_cons, List.length_ofFn]; decide)
  rw [← SlateTable.set_eq_ofDigits] at bit
  refine ⟨?_, fun i => ?_, fun i hi => ?_⟩
  · rw [bit]; cases c <;> rfl
  · rw [bit, List.getD_cons_succ, ofFn_getD]; cases f t.slates[i] <;> rfl
  · rw [bit, List.getD_eq_getElem?_getD, List.getElem?_eq_none (by rw [List.length_cons, List.length_ofFn]; exact hi)]
    rfl

/-- The load number of a slate's in-use copy, 0 without one (R74). -/
def Slate.loadNumber (x : Slate) : BitVec 8 :=
  match x.inUse with
  | none => 0#8
  | some l => l.load

theorem SlateTable.loads_eq_ofDigits (t : SlateTable) :
    t.loads = ofDigits 256 (List.ofFn fun i : Fin 7 => t.slates[i].loadNumber.toNat) := by
  have term (i : Fin 7) : (match t.slates[i].inUse with | some l => l.load.toNat * 256 ^ i.val | none => 0) =
      t.slates[i].loadNumber.toNat * 256 ^ (i.val + 0) := by
    unfold Slate.loadNumber
    cases t.slates[i].inUse with
    | none => exact (Nat.zero_mul _).symm
    | some l => rfl
  calc t.loads = ((List.finRange 7).map fun i => t.slates[i].loadNumber.toNat * 256 ^ (i.val + 0)).sum :=
        congrArg (fun g => ((List.finRange 7).map g).sum) (funext term)
    _ = _ := by rw [sum_mul_pow_eq_ofDigits, Nat.pow_zero, Nat.one_mul]

/-- Byte i of the word of the load numbers is that of slate i + 1, and byte 7 is zero. -/
theorem SlateTable.loads_byte (t : SlateTable) :
    (∀ i : Fin 7, (single t.loads).extractLsb' (8 * i.val) 8 = t.slates[i].loadNumber) ∧
    (single t.loads).extractLsb' 56 8 = 0#8 := by
  have byte := single_ofDigits_byte (l := List.ofFn fun i : Fin 7 => t.slates[i].loadNumber.toNat)
    (forall_mem_ofFn fun i => t.slates[i].loadNumber.isLt) (by rw [List.length_ofFn]; decide)
  rw [← SlateTable.loads_eq_ofDigits] at byte
  refine ⟨fun i => ?_, byte 7⟩
  rw [byte, ofFn_getD, BitVec.ofNat_toNat, BitVec.setWidth_eq]

end Sys2Proof.Machine

open Sys2Proof Sys2Proof.Machine

/-- Settles O28: the answer's bits and bytes are the digits of the numbers it holds. -/
theorem slateInfoServed : Obligations.SlateInfoServed := by
  have served {s : State} {r : Request} (serving : s.serving 5 r) : exec .slateInfo s = .next (s.replied r .ok
      [single (1 + s.slates.set fun x => x.inUse.isSome), single (s.slates.set Slate.halfStaged), single s.slates.loads]) :=
    act_serving serveSlateInfo serving
  refine ⟨fun s r serving => ?_, fun s r serving asReset => ?_⟩
  · obtain ⟨loaded0, loaded, loadedAbove⟩ := s.slates.set_getLsbD (fun x => x.inUse.isSome) true
    obtain ⟨half0, half, halfAbove⟩ := s.slates.set_getLsbD Slate.halfStaged false
    obtain ⟨loads, loads7⟩ := s.slates.loads_byte
    rw [Bool.toNat_false, Nat.zero_add] at half0 half halfAbove
    exact ⟨_, _, _, served serving, loaded0, half0, loaded, half, loads,
      fun i above => ⟨loadedAbove i above, halfAbove i above⟩, loads7⟩
  · rw [served serving, asReset]
    rfl

/-- Settles O44: the half joins the staging of its load, and the slate's two halves are then looked at. -/
theorem slateApplied : Obligations.SlateApplied := by
  intro s m heading i half n
  have runs : exec .slate s = .next (applySlate m s).headGone := exec_broadcast heading rfl (applySlate_store m s)
  refine ⟨fun outside => ?_, fun index inRange => ?_⟩
  · rw [runs, applySlate_outOfRange s outside]
  · intro old kept new inUse
    have staged : old.stage half n m.slateBytes = new := old.stage_eq inRange n m.slateBytes
    have loaded : old.load half n m.slateBytes = ⟨inUse, some new⟩ :=
      (old.load_eq_withStaging half n m.slateBytes).trans (congrArg (old.withStaging n) staged)
    rw [runs, applySlate_inRange s index inRange, loaded]
end

section
/-! PROOFS. The verdict: each step of R60 by the condition under which it is reached (O16), and what a delivered cell had to pass (O17). -/

namespace Sys2Proof.Machine

/-! ### Steps 1 to 5 (R60, R61) -/

/-- Step 2 does not hold: the room is bound and not suspended (R61). -/
def State.roomOpen (s : State) : Prop := ¬(s.msgs.room.state = .unbound ∨ s.msgs.room.suspended = true)

/-- The rating in force for a cell: its event's, or its service's without one (R62). -/
def State.ratingOf (s : State) (t : SlotTag) (e : ServiceEntry) : Nat :=
  match s.events.byTag t.service t.eventTag with
  | some v => v.rating
  | none => e.rating

theorem State.judge_untagged (s : State) : s.judge none = ⟨1, .pass⟩ := rfl

theorem State.judge_closed {s : State} (t : SlotTag) (closed : s.msgs.room.state = .unbound ∨ s.msgs.room.suspended = true) :
    s.judge (some t) = ⟨2, s.slateVerdict t 6⟩ := if_pos closed

theorem State.judge_damaged {s : State} {t : SlotTag} (room : s.roomOpen) (damaged : t.damaged = true) :
    s.judge (some t) = ⟨3, s.slateVerdict t 5⟩ := (if_neg room).trans (if_pos damaged)

section
variable {s : State} {t : SlotTag} (room : s.roomOpen) (sound : t.damaged = false)
include room sound

theorem State.judge_noContent (other : t.kind.isContent = false) : s.judge (some t) = ⟨4, .pass⟩ := by
  unfold State.judge
  exact (if_neg room).trans ((if_neg (by rw [sound]; decide)).trans (if_pos other))

variable (content : t.kind.isContent = true)
include content

theorem State.judge_byService : s.judge (some t) =
    match s.slots.service t.service with
    | none => ⟨5, s.slateVerdict t 0⟩
    | some e => s.judgeContent t e := by
  unfold State.judge
  exact (if_neg room).trans ((if_neg (by rw [sound]; decide)).trans (if_neg (by rw [content]; decide)))

theorem State.judge_unknownService (unknown : s.slots.service t.service = none) : s.judge (some t) = ⟨5, s.slateVerdict t 0⟩ := by
  rw [State.judge_byService room sound content, unknown]

theorem State.judge_knownService {e : ServiceEntry} (known : s.slots.service t.service = some e) :
    s.judge (some t) = s.judgeContent t e := by
  rw [State.judge_byService room sound content, known]

end

/-! ### Steps 6 to 10 (R62 to R65) -/

theorem State.judgeContent_aboveLimit {s : State} {t : SlotTag} {e : ServiceEntry} (above : s.limit t.service < s.ratingOf t e) :
    s.judgeContent t e = ⟨6, s.slateVerdict t 1⟩ := if_pos above

section
variable {s : State} {t : SlotTag} {e : ServiceEntry} (within : s.ratingOf t e ≤ s.limit t.service)
include within

theorem State.judgeContent_unentitled {i : Fin 8} (slate : s.entitlementSlate e (s.events.byTag t.service t.eventTag) = some i) :
    s.judgeContent t e = ⟨7, s.slateVerdict t i⟩ := by
  refine (if_neg (Nat.not_lt.2 within)).trans ?_
  rw [slate]

variable (entitled : s.entitlementSlate e (s.events.byTag t.service t.eventTag) = none)
include entitled

theorem State.judgeContent_clear (clear : t.phase = .clear) : s.judgeContent t e = ⟨8, .pass⟩ := by
  refine (if_neg (Nat.not_lt.2 within)).trans ?_
  rw [entitled]
  exact if_pos clear

theorem State.judgeContent_byKey (scrambled : t.phase ≠ .clear) : s.judgeContent t e =
    match s.keys.goodEntry t.keyRef with
    | none => ⟨9, s.slateVerdict t 4⟩
    | some p => ⟨10, .descramble p.key t.service t.cellCount⟩ := by
  refine (if_neg (Nat.not_lt.2 within)).trans ?_
  rw [entitled]
  exact if_neg scrambled

end

theorem KeyPool.goodEntry_stale {k : KeyPool} {r : KeyRef} (stale : k.pool[r.entry].stamp ≠ r.stamp) :
    k.goodEntry (some r) = none := if_neg stale

theorem KeyPool.goodEntry_fresh {k : KeyPool} {r : KeyRef} (fresh : k.pool[r.entry].stamp = r.stamp) :
    k.goodEntry (some r) = some k.pool[r.entry] := if_pos fresh

/-! ### The limit (R76) -/

theorem Grant.coversService_iff (g : Grant) (n : BitVec 12) : g.coversService n = true ↔ g.scope = .all ∨ g.scope = .service n := by
  unfold Grant.coversService
  cases g.scope with
  | all => simp
  | service m => simp

theorem State.limit_granted {s : State} {n : BitVec 12} (h : ∃ g ∈ s.lock.grants, g.coversService n = true) :
    s.limit n = s.msgs.policy.hotelCeiling := if_pos (List.any_eq_true.2 h)

theorem State.limit_ungranted {s : State} {n : BitVec 12} (h : ¬∃ g ∈ s.lock.grants, g.coversService n = true) :
    s.limit n = min s.msgs.policy.hotelCeiling s.lock.guestCeiling := if_neg fun any => h (List.any_eq_true.1 any)

theorem State.limit_le (s : State) (n : BitVec 12) : s.limit n ≤ s.msgs.policy.hotelCeiling := by
  unfold State.limit
  split
  · exact Nat.le_refl _
  · exact Nat.min_le_left _ _

/-! ### Entitlement (R63, R64) -/

theorem State.bought_iff (s : State) (id : BitVec 32) : s.bought id = true ↔ ∃ p ∈ s.purchases.entries, p.event = id := by
  simp [State.bought, PurchaseUnit.byEvent]

theorem State.freeLookOpen_iff (s : State) (v : EventEntry) : s.freeLookOpen v = true ↔
    s.msgs.room.state = .occupied ∧ v.freeLook = true ∧ v.used < s.msgs.policy.allowance := by
  simp [State.freeLookOpen, and_assoc]

theorem State.previewEnded_iff (s : State) (v : EventEntry) : s.previewEnded v = true ↔
    v.freeLook = true ∧ 0 < s.msgs.policy.allowance ∧ s.msgs.policy.allowance ≤ v.used := by
  simp [State.previewEnded, and_assoc]

/-- The room is entitled to an event: by a purchase entry, or by a free look below the allowance (R64). -/
def State.entitledTo (s : State) (v : EventEntry) : Prop :=
  (∃ p ∈ s.purchases.entries, p.event = v.id) ∨
    (s.msgs.room.state = .occupied ∧ v.freeLook = true ∧ v.used < s.msgs.policy.allowance)

theorem State.entitledTo_iff (s : State) (v : EventEntry) : (s.bought v.id || s.freeLookOpen v) = true ↔ s.entitledTo v := by
  rw [Bool.or_eq_true, State.bought_iff, State.freeLookOpen_iff, State.entitledTo]

theorem State.entitlementSlate_free {e : ServiceEntry} (s : State) (v : Option EventEntry) (free : e.cls = .free) :
    s.entitlementSlate e v = none := by
  unfold State.entitlementSlate
  rw [free]

theorem State.entitlementSlate_tier {e : ServiceEntry} (s : State) (v : Option EventEntry) (tier : e.cls = .tier) :
    s.entitlementSlate e v = if s.activeTiers.getLsbD e.tier then none else some 2 := by
  unfold State.entitlementSlate
  rw [tier]

theorem State.activeTiers_stay {s : State} (stay : s.msgs.room.state = .occupied ∨ s.msgs.room.state = .checkout) :
    s.activeTiers = s.msgs.room.tiers := by
  unfold State.activeTiers
  obtain h | h := stay
  · rw [h]
  · rw [h]

theorem State.activeTiers_vacant {s : State} (vacant : s.msgs.room.state = .vacant) : s.activeTiers = s.msgs.policy.vacantTiers := by
  unfold State.activeTiers
  rw [vacant]

section
variable {s : State} {e : ServiceEntry} (pay : e.cls = .pay)
include pay

theorem State.entitlementSlate_noEvent : s.entitlementSlate e none = some 2 := by
  unfold State.entitlementSlate
  rw [pay]

theorem State.entitlementSlate_event (v : EventEntry) : s.entitlementSlate e (some v) =
    if s.bought v.id || s.freeLookOpen v then none else if s.previewEnded v then some 3 else some 2 := by
  unfold State.entitlementSlate
  rw [pay]

theorem State.entitlementSlate_entitled {v : EventEntry} (entitled : s.entitledTo v) : s.entitlementSlate e (some v) = none := by
  rw [State.entitlementSlate_event pay, if_pos ((s.entitledTo_iff v).2 entitled)]

theorem State.entitlementSlate_unentitled {v : EventEntry} (unentitled : ¬s.entitledTo v) :
    s.entitlementSlate e (some v) = if s.previewEnded v then some 3 else some 2 := by
  rw [State.entitlementSlate_event pay, if_neg (mt (s.entitledTo_iff v).1 unentitled)]

/-- No slate of step 7 for a PAY cell: there is an event, and the room is entitled to it (R64). -/
theorem State.entitledTo_of_noSlate {v : Option EventEntry} (h : s.entitlementSlate e v = none) : ∃ ev, v = some ev ∧ s.entitledTo ev := by
  cases v with
  | none => rw [State.entitlementSlate_noEvent pay] at h; cases h
  | some ev =>
    refine ⟨ev, rfl, ?_⟩
    refine Classical.byContradiction fun unentitled => ?_
    rw [State.entitlementSlate_unentitled pay unentitled] at h
    split at h <;> cases h

end

/-! ### The synthesised header (R68, R179) -/

/-- A field below byte 7 does not see what byte 7 is set to. -/
theorem extractLsb'_or_put7 (w : Word) (v : Nat) {lo n : Nat} (h : lo + n ≤ 56) :
    (w ||| put 7 1 v).extractLsb' lo n = w.extractLsb' lo n := by
  refine BitVec.eq_of_getLsbD_eq fun i hi => ?_
  have below : (put 7 1 v).getLsbD (lo + i) = false := by
    rw [put, BitVec.getLsbD_ofNat, Nat.testBit_mul_two_pow, decide_eq_false (p := 56 ≤ lo + i) (by omega),
      Bool.false_and, Bool.and_false]
  rw [BitVec.getLsbD_extractLsb', BitVec.getLsbD_extractLsb', BitVec.getLsbD_or, below, Bool.or_false]

theorem byteOf_or_put7 (w : Word) (v : Nat) {i : Nat} (h : i < 7) : byteOf (w ||| put 7 1 v) i = byteOf w i :=
  extractLsb'_or_put7 w v (by omega)

/-- What byte 7 is set to reads back where it was zero. -/
theorem headerCheck_or_put7 {w : Word} (zero : w.toNat < 2 ^ 56) (c : Byte) : headerCheck (w ||| put 7 1 c.toNat) = c := by
  have top : w.extractLsb' 56 8 = 0#8 := BitVec.eq_of_toNat_eq (by
    rw [BitVec.extractLsb'_toNat, Nat.shiftRight_eq_div_pow, Nat.div_eq_of_lt zero]; rfl)
  have set : (put 7 1 c.toNat).extractLsb' 56 8 = c := BitVec.eq_of_toNat_eq (by
    rw [BitVec.extractLsb'_toNat, Nat.shiftRight_eq_div_pow, put, BitVec.toNat_ofNat]
    have := c.isLt
    omega)
  rw [headerCheck, byteOf, BitVec.extractLsb'_or, top, set, BitVec.zero_or]

/-- The check byte's own place is not part of the sum (R22). -/
theorem headerSum_or_put7 (w : Word) (v : Nat) : headerSum (w ||| put 7 1 v) = headerSum w := by
  simp [headerSum, byteOf_or_put7]

section
variable (service : BitVec 12) (count : BitVec 16) (tag : BitVec 8)

theorem synthesisedFields_toNat : (synthesisedFields service count tag).toNat =
    service.toNat + 7 * 2 ^ 12 + count.toNat * 2 ^ 24 + tag.toNat * 2 ^ 40 + 120 * 2 ^ 48 := by
  have hs := service.isLt
  have hc := count.isLt
  have ht := tag.isLt
  rw [synthesisedFields, BitVec.toNat_ofNat]
  omega

/-- A field of the synthesised header, as a number. -/
theorem synthesisedHeader_field {lo n : Nat} (h : lo + n ≤ 56) :
    ((synthesisedHeader service count tag).extractLsb' lo n).toNat =
      (service.toNat + 7 * 2 ^ 12 + count.toNat * 2 ^ 24 + tag.toNat * 2 ^ 40 + 120 * 2 ^ 48) / 2 ^ lo % 2 ^ n := by
  rw [synthesisedHeader, extractLsb'_or_put7 _ _ h, BitVec.extractLsb'_toNat, Nat.shiftRight_eq_div_pow, synthesisedFields_toNat]

theorem headerService_synthesised : headerService (synthesisedHeader service count tag) = service := by
  have hs := service.isLt
  refine BitVec.eq_of_toNat_eq ((synthesisedHeader_field service count tag (by decide)).trans ?_)
  omega

theorem headerKind_synthesised : headerKind (synthesisedHeader service count tag) = .slate := by
  have hs := service.isLt
  have code : ((synthesisedHeader service count tag).extractLsb' 12 4).toNat = 7 := by
    rw [synthesisedHeader_field service count tag (by decide)]
    omega
  rw [headerKind, code]
  rfl

theorem headerPhase_synthesised : headerPhase (synthesisedHeader service count tag) = .clear := by
  have hs := service.isLt
  have code : ((synthesisedHeader service count tag).extractLsb' 16 2).toNat = 0 := by
    rw [synthesisedHeader_field service count tag (by decide)]
    omega
  rw [headerPhase, code]
  rfl

theorem headerSpare_synthesised : headerSpare (synthesisedHeader service count tag) = 0#6 := by
  have hs := service.isLt
  refine BitVec.eq_of_toNat_eq ((synthesisedHeader_field service count tag (by decide)).trans ?_)
  rw [BitVec.toNat_ofNat]
  omega

theorem headerCount_synthesised : headerCount (synthesisedHeader service count tag) = count := by
  have hs := service.isLt
  have hc := count.isLt
  refine BitVec.eq_of_toNat_eq ((synthesisedHeader_field service count tag (by decide)).trans ?_)
  omega

theorem headerTag_synthesised : headerTag (synthesisedHeader service count tag) = tag := by
  have hs := service.isLt
  have hc := count.isLt
  have ht := tag.isLt
  refine BitVec.eq_of_toNat_eq ((synthesisedHeader_field service count tag (by decide)).trans ?_)
  omega

theorem payloadLength_synthesised : byteOf (synthesisedHeader service count tag) 6 = 120#8 := by
  have hs := service.isLt
  have hc := count.isLt
  have ht := tag.isLt
  refine BitVec.eq_of_toNat_eq ((synthesisedHeader_field service count tag (by decide)).trans ?_)
  rw [BitVec.toNat_ofNat]
  omega

/-- The synthesised header's check byte is right (R22, R68). -/
theorem headerCheck_synthesised :
    headerCheck (synthesisedHeader service count tag) = headerSum (synthesisedHeader service count tag) := by
  have zero : (synthesisedFields service count tag).toNat < 2 ^ 56 := by
    have hs := service.isLt
    have hc := count.isLt
    have ht := tag.isLt
    rw [synthesisedFields_toNat]
    omega
  rw [synthesisedHeader, headerCheck_or_put7 zero, headerSum_or_put7]

end

/-! ### A slate's bytes (R69) -/

theorem SlateTable.bytes_builtIn (t : SlateTable) : t.bytes 0 = 0#960 := rfl

theorem SlateTable.bytes_loadable (t : SlateTable) {i : Fin 8} (n : Fin 7) (h : i.val = n.val + 1) :
    t.bytes i = match t.slates[n].inUse with | some l => l.bytes | none => 0#960 := by
  obtain rfl : i = n.succ := Fin.ext h
  rfl

/-! ### What a delivered cell had to pass -/

/-- A content cell of a known service is judged by steps 6 to 10, or is a slate before them. -/
theorem State.judge_content {t : SlotTag} {e : ServiceEntry} (s : State) (known : s.slots.service t.service = some e)
    (content : t.kind.isContent = true) :
    (∃ h b, (s.judge (some t)).verdict = .slate h b) ∨ s.judge (some t) = s.judgeContent t e := by
  by_cases room : s.roomOpen
  · cases sound : t.damaged with
    | true => exact .inl ⟨_, _, congrArg Judgement.verdict (State.judge_damaged room sound)⟩
    | false => exact .inr (State.judge_knownService room sound content known)
  · exact .inl ⟨_, _, congrArg Judgement.verdict (State.judge_closed t (Classical.not_not.1 room))⟩

/-- Above the limit nothing but a slate is delivered (R62). -/
theorem State.slate_of_aboveLimit {s : State} {t : SlotTag} {e : ServiceEntry} (known : s.slots.service t.service = some e)
    (content : t.kind.isContent = true) (above : s.limit t.service < s.ratingOf t e) :
    ∃ h b, (s.judge (some t)).verdict = .slate h b := by
  obtain slate | judged := s.judge_content known content
  · exact slate
  · exact ⟨_, _, congrArg Judgement.verdict (judged.trans (State.judgeContent_aboveLimit above))⟩

/-- A content cell delivered otherwise than as a slate is one the room is entitled to (R63, R64). -/
theorem State.entitled_of_noSlate {s : State} {t : SlotTag} {e : ServiceEntry} (known : s.slots.service t.service = some e)
    (content : t.kind.isContent = true) (delivered : ∀ h b, (s.judge (some t)).verdict ≠ .slate h b) :
    s.entitlementSlate e (s.events.byTag t.service t.eventTag) = none := by
  obtain ⟨h, b, slate⟩ | judged := s.judge_content known content
  · exact absurd slate (delivered h b)
  · have within : s.ratingOf t e ≤ s.limit t.service := Nat.not_lt.1 fun above =>
      delivered _ _ (congrArg Judgement.verdict (judged.trans (State.judgeContent_aboveLimit above)))
    refine Option.eq_none_iff_forall_ne_some.2 fun i slate => ?_
    exact delivered _ _ (congrArg Judgement.verdict (judged.trans (State.judgeContent_unentitled within slate)))

end Sys2Proof.Machine

open Sys2Proof Sys2Proof.Machine

/-- Settles O17: above the limit step 6 gives a slate, and a PAY cell that step 7 gives none has its entitlement. -/
theorem noPayloadWithoutRight : Obligations.NoPayloadWithoutRight := by
  refine ⟨fun s t e known _ content => ?_, fun s t e known pay content delivered => ?_⟩
  · refine ⟨fun above => State.slate_of_aboveLimit known content (Nat.lt_of_le_of_lt (s.limit_le _) above), fun above => ?_⟩
    by_cases granted : ∃ g ∈ s.lock.grants, g.coversService t.service = true
    · exact .inr granted
    · refine .inl (State.slate_of_aboveLimit known content ?_)
      rw [State.limit_ungranted granted]
      exact above
  · exact State.entitledTo_of_noSlate pay (State.entitled_of_noSlate known content delivered)

/-- Settles O16: the steps one by one, entitlement class by class, the synthesised header field by field, and the limit. -/
theorem verdictFollowsTheSteps : Obligations.VerdictFollowsTheSteps := by
  refine ⟨fun s t => ⟨s.judge_untagged, State.judge_closed t, fun room => ⟨State.judge_damaged room, fun sound =>
      ⟨State.judge_noContent room sound, fun content => ⟨State.judge_unknownService room sound content, fun e known => ?_⟩⟩⟩⟩,
    fun s e v => ⟨s.entitlementSlate_free v, fun tier => ⟨fun stay => ?_, fun vacant => ?_⟩,
      fun pay => ⟨fun noEvent => ?_, fun ev event => ?_⟩⟩,
    fun s t i => ?_, fun s n => ⟨fun granted => ?_, fun ungranted => ?_⟩⟩
  · rw [State.judge_knownService room sound content known]
    refine ⟨State.judgeContent_aboveLimit, fun within => ⟨fun i => State.judgeContent_unentitled within, fun entitled =>
      ⟨State.judgeContent_clear within entitled, fun scrambled => ?_⟩⟩⟩
    rw [State.judgeContent_byKey within entitled scrambled]
    refine ⟨fun absent => ?_, fun r present stale => ?_, fun r present fresh => ?_⟩
    · rw [absent]; rfl
    · rw [present, KeyPool.goodEntry_stale stale]
    · rw [present, KeyPool.goodEntry_fresh fresh]
  · rw [s.entitlementSlate_tier v tier, State.activeTiers_stay stay]
  · rw [s.entitlementSlate_tier v tier, State.activeTiers_vacant vacant]
  · rw [noEvent, State.entitlementSlate_noEvent pay]
  · subst event
    refine ⟨State.entitlementSlate_entitled pay, fun unentitled ended => ?_, fun unentitled going => ?_⟩
    · rw [State.entitlementSlate_unentitled pay unentitled, if_pos ((s.previewEnded_iff ev).2 ended)]
    · rw [State.entitlementSlate_unentitled pay unentitled, if_neg (mt (s.previewEnded_iff ev).1 going)]
  · exact ⟨_, _, rfl, headerService_synthesised .., headerKind_synthesised .., headerPhase_synthesised .., headerSpare_synthesised ..,
      headerCount_synthesised .., headerTag_synthesised .., payloadLength_synthesised .., headerCheck_synthesised ..,
      fun builtIn => builtIn ▸ s.slates.bytes_builtIn, fun n => s.slates.bytes_loadable n⟩
  · obtain ⟨g, held, covers⟩ := granted
    exact State.limit_granted ⟨g, held, (g.coversService_iff n).2 covers⟩
  · refine State.limit_ungranted fun ⟨g, held, covers⟩ => ?_
    exact ((g.coversService_iff n).1 covers).elim (ungranted g held).1 (ungranted g held).2
end

section
/-! PROOFS. The lock unit's requests: PIN arguments (R79), SET_PIN (O29), SET_GUEST_CEILING (O30), UNLOCK (O31) and the grant it adds
(O32), LOCK_NOW and LOCK_INFO (O33). -/

namespace Sys2Proof.Machine

/-! ### PIN arguments (R79, R180) -/

theorem bytesAt_zero_one (w : Word) : bytesAt w 0 1 = (w.extractLsb' 0 8).toNat := by simp [bytesAt]

/-- A list is the image of the first numbers under `f` when each of its elements is the image of its index. -/
theorem eq_map_range_iff {α : Type} (l : List α) (f : Nat → α) :
    (List.range l.length).map f = l ↔ ∀ i a, l[i]? = some a → a = f i := by
  constructor
  · intro image i a ha
    rw [← image, List.getElem?_map] at ha
    obtain ⟨j, hj, rfl⟩ := Option.map_eq_some_iff.1 ha
    obtain ⟨_, rfl⟩ := List.getElem?_eq_some_iff.1 hj
    rw [List.getElem_range]
  · intro h
    refine List.ext_getElem (by simp) fun i _ hi => ?_
    rw [List.getElem_map, List.getElem_range]
    exact (h i _ (List.getElem?_eq_getElem hi)).symm

/-- A PIN argument is `p` when its count is that of `p`, 4 to 8, and its digits are those of `p`, each at most 9. -/
theorem parsePin_iff (w : Word) (p : Pin) : parsePin w = some p ↔ 4 ≤ p.length ∧ p.length ≤ 8 ∧ (w.extractLsb' 0 8).toNat = p.length ∧
    ∀ i d, p[i]? = some d → d.toNat ≤ 9 ∧ d = w.extractLsb' (8 + 4 * i) 4 := by
  unfold parsePin
  rw [bytesAt_zero_one]
  dsimp only
  constructor
  · intro h
    obtain ⟨⟨low, high, decimal⟩, digits⟩ := Option.ite_none_right_eq_some.1 h
    have digits := Option.some.inj digits
    have count : (w.extractLsb' 0 8).toNat = p.length := by rw [← digits]; simp
    rw [digits] at decimal
    rw [count] at low high digits
    refine ⟨low, high, count, fun i d hd => ⟨?_, (eq_map_range_iff p _).1 digits i d hd⟩⟩
    exact of_decide_eq_true (List.all_eq_true.1 decimal d (List.mem_of_getElem? hd))
  · intro ⟨low, high, count, digits⟩
    have image := (eq_map_range_iff p fun i => w.extractLsb' (8 + 4 * i) 4).2 fun i d hd => (digits i d hd).2
    rw [count, image]
    refine if_pos ⟨low, high, List.all_eq_true.2 fun d hd => decide_eq_true ?_⟩
    obtain ⟨i, hi⟩ := List.mem_iff_getElem?.1 hd
    exact (digits i d hi).1

/-! ### What the PIN requests share (R80 to R82) -/

/-- A room state of a stay is neither UNBOUND nor VACANT. -/
theorem RoomState.outside_iff (st : RoomState) : st = .unbound ∨ st = .vacant ↔ ¬(st = .occupied ∨ st = .checkout) := by
  cases st <;> simp

theorem State.lockoutRemaining_some {s : State} {e : Nat} (h : s.lock.lockout = some e) :
    s.fetchDone.lockoutRemaining = e - s.events.uptime := by
  unfold State.lockoutRemaining
  simp only [State.fetchDone_lock, State.fetchDone_events, h]

/-! ### SET_PIN (R84) -/

/-- SET_PIN whose arguments are malformed. -/
theorem serveSetPin_bad {r : Request} (s : State)
    (bad : parsePin (r.word 1) = none ∨ (oldPinGiven (r.word 2) = true ∧ parsePin (r.word 2) = none)) :
    serveSetPin r s = s.answer r .badArgument [] := by
  unfold serveSetPin
  dsimp only
  split
  · rfl
  · next new parsed =>
    obtain ⟨given, malformed⟩ := bad.resolve_left (by simp [parsed])
    rw [if_pos ⟨given, by rw [malformed]; rfl⟩]

/-- SET_PIN whose arguments are well-formed: the room state, then the PIN held, then the lockout, then the old PIN. -/
theorem serveSetPin_wellFormed {r : Request} {new : Pin} (s : State) (parsed : parsePin (r.word 1) = some new)
    (old : ¬(oldPinGiven (r.word 2) = true ∧ parsePin (r.word 2) = none)) : serveSetPin r s.fetchDone =
      if s.msgs.room.state = .unbound ∨ s.msgs.room.state = .vacant then s.replied r .wrongState []
      else match s.lock.pin, s.lock.lockout with
        | none, _ => s.settingServed (s.setPinTo new s.lock.failures).lock r .ok []
        | some _, some e => s.replied r .pinLockout [single (e - s.events.uptime)]
        | some held, none =>
          if oldPinGiven (r.word 2) = true ∧ parsePin (r.word 2) = some held then
            s.settingServed (s.setPinTo new 0).lock r .ok []
          else s.settingServed s.lockAfterWrongPin r .wrongPin s.wrongPinWords := by
  unfold serveSetPin
  simp only [parsed, Option.isNone_iff_eq_none, old, if_false]
  refine ite_congr rfl (fun _ => rfl) fun _ => ?_
  obtain unset | ⟨held, set⟩ := Option.eq_none_or_eq_some s.lock.pin
  · simp only [State.fetchDone_lock, unset]
    exact s.settingServed_eq (s.setPinTo new s.lock.failures).lock r .ok []
  obtain unlocked | ⟨e, locked⟩ := Option.eq_none_or_eq_some s.lock.lockout
  · simp only [State.fetchDone_lock, set, unlocked, Option.isSome_none, Bool.false_eq_true, if_false]
    exact ite_congr rfl (fun _ => s.settingServed_eq (s.setPinTo new 0).lock r .ok [])
      fun _ => s.settingServed_eq s.lockAfterWrongPin r .wrongPin s.wrongPinWords
  · simp only [State.fetchDone_lock, set, locked, Option.isSome_some, if_true, State.lockoutRemaining_some locked]
    rfl

/-! ### SET_GUEST_CEILING (R85) -/

theorem serveSetGuestCeiling_bad {r : Request} (s : State) (bad : parsePin (r.word 1) = none ∨ 7 < r.arg 2) :
    serveSetGuestCeiling r s = s.answer r .badArgument [] := by
  unfold serveSetGuestCeiling
  split
  · rfl
  · next pin parsed => rw [if_pos (bad.resolve_left (by simp [parsed]))]

/-- SET_GUEST_CEILING whose arguments are well-formed: the lockout, then the PIN held, then the PIN given. -/
theorem serveSetGuestCeiling_wellFormed {r : Request} {pin : Pin} (s : State) (parsed : parsePin (r.word 1) = some pin)
    (ceiling : ¬7 < r.arg 2) : serveSetGuestCeiling r s.fetchDone =
      match s.lock.lockout, s.lock.pin with
      | some e, _ => s.replied r .pinLockout [single (e - s.events.uptime)]
      | none, none => s.replied r .noPin []
      | none, some held =>
        if pin = held then
          s.settingServed (s.setCeiling (r.arg 2)).lock r .ok
            [single (min s.msgs.policy.hotelCeiling (r.arg 2)),
             single (s.lock.grants.length - (s.setCeiling (r.arg 2)).lock.grants.length)]
        else s.settingServed s.lockAfterWrongPin r .wrongPin s.wrongPinWords := by
  unfold serveSetGuestCeiling
  simp only [parsed, ceiling, if_false]
  obtain ⟨e, locked⟩ | unlocked := (Option.eq_none_or_eq_some s.lock.lockout).symm
  · simp only [State.fetchDone_lock, locked, Option.isSome_some, if_true, State.lockoutRemaining_some locked]
    rfl
  obtain unset | ⟨held, set⟩ := Option.eq_none_or_eq_some s.lock.pin
  · simp only [State.fetchDone_lock, unlocked, unset, Option.isSome_none, Bool.false_eq_true, if_false]
    rfl
  · simp only [State.fetchDone_lock, unlocked, set, Option.isSome_none, Bool.false_eq_true, if_false]
    exact ite_congr rfl (fun _ => s.settingServed_eq (s.setCeiling (r.arg 2)).lock r .ok _)
      fun _ => s.settingServed_eq s.lockAfterWrongPin r .wrongPin s.wrongPinWords

/-- The guest ceiling given the value it has (R85). -/
theorem State.setCeiling_same {s : State} {v : Nat} (h : v = s.lock.guestCeiling) :
    (s.setCeiling v).lock = { s.lock with failures := 0 } := by
  subst h
  unfold State.setCeiling
  rw [if_pos rfl]

/-- The guest ceiling given another value: every grant is removed (R85). -/
theorem State.setCeiling_changed {s : State} {v : Nat} (h : v ≠ s.lock.guestCeiling) :
    (s.setCeiling v).lock = { s.lock with failures := 0, guestCeiling := v, grants := [] } := by
  unfold State.setCeiling
  rw [if_neg h]

/-! ### UNLOCK (R86) -/

/-- The scope a well-formed scope argument of UNLOCK names. -/
def namedScope (n : Nat) : Scope := if n = 65535 then .all else .service (BitVec.ofNat 12 n)

theorem scopeOf_some {n : Nat} (h : ¬(4095 < n ∧ n ≠ 65535)) : scopeOf n = some (namedScope n) := by
  unfold scopeOf namedScope
  split
  · rfl
  · next service => rw [if_pos (Nat.not_lt.1 fun above => h ⟨above, service⟩)]

theorem scopeOf_none {n : Nat} (h : 4095 < n ∧ n ≠ 65535) : scopeOf n = none := by
  unfold scopeOf
  rw [if_neg h.2, if_neg (by omega)]

theorem clampSpan_eq (n : Nat) : clampSpan n = max 60 (min 14400 n) := by
  unfold clampSpan
  simp only [show Config.minSpan = 60 from rfl, show Config.maxSpan = 14400 from rfl]
  split
  · omega
  · split <;> omega

/-- The grant an UNLOCK adds (R86, R87). -/
def State.unlockGrant (s : State) (r : Request) : Grant := ⟨namedScope (r.arg 2), s.events.uptime + max 60 (min 14400 (r.arg 3))⟩

/-- The result words of an UNLOCK that adds its grant (R86). -/
def State.unlockWords (s : State) (r : Request) : List Word :=
  [single (max 60 (min 14400 (r.arg 3))), single (s.events.uptime + max 60 (min 14400 (r.arg 3))),
   single (addGrant (s.unlockGrant r) s.lock.grants).length]

theorem serveUnlock_bad {r : Request} (s : State) (bad : parsePin (r.word 1) = none ∨ (4095 < r.arg 2 ∧ r.arg 2 ≠ 65535)) :
    serveUnlock r s = s.answer r .badArgument [] := by
  unfold serveUnlock
  split
  · next pin scope parsed named =>
    rw [scopeOf_none (bad.resolve_left (by simp [parsed]))] at named
    cases named
  · rfl

/-- UNLOCK whose arguments are well-formed: the room state, the lockout, then the PIN held, then the PIN given. -/
theorem serveUnlock_wellFormed {r : Request} {pin : Pin} (s : State) (parsed : parsePin (r.word 1) = some pin)
    (scope : ¬(4095 < r.arg 2 ∧ r.arg 2 ≠ 65535)) : serveUnlock r s.fetchDone =
      if s.msgs.room.state = .unbound ∨ s.msgs.room.state = .vacant then s.replied r .wrongState []
      else match s.lock.lockout, s.lock.pin with
        | some e, _ => s.replied r .pinLockout [single (e - s.events.uptime)]
        | none, none => s.replied r .noPin []
        | none, some held =>
          if pin = held then
            if s.lock.failures = 0 then s.replied r .ok (s.unlockWords r) |>.grantTo (s.unlockGrant r)
            else s.unlockServed (s.grantTo (s.unlockGrant r)).lock r .ok (s.unlockWords r)
          else s.unlockServed s.lockAfterWrongPin r .wrongPin s.wrongPinWords := by
  unfold serveUnlock
  simp only [parsed, scopeOf_some scope, clampSpan_eq]
  refine ite_congr rfl (fun _ => rfl) fun _ => ?_
  obtain ⟨e, locked⟩ | unlocked := (Option.eq_none_or_eq_some s.lock.lockout).symm
  · simp only [State.fetchDone_lock, locked, Option.isSome_some, if_true, State.lockoutRemaining_some locked]
    rfl
  obtain unset | ⟨held, set⟩ := Option.eq_none_or_eq_some s.lock.pin
  · simp only [State.fetchDone_lock, unlocked, unset, Option.isSome_none, Bool.false_eq_true, if_false]
    rfl
  · simp only [State.fetchDone_lock, unlocked, set, Option.isSome_none, Bool.false_eq_true, if_false]
    exact ite_congr rfl
      (fun _ => ite_congr rfl (fun _ => rfl) fun _ => s.unlockServed_eq (s.grantTo (s.unlockGrant r)).lock r .ok _)
      fun _ => s.unlockServed_eq s.lockAfterWrongPin r .wrongPin s.wrongPinWords

/-! ### The grant list (R77, R87) -/

/-- The grant that leaves a full list is the first of the earliest expiry (R87). -/
theorem earliestGrant_splits {l : List Grant} (h : l ≠ []) : ∃ front out back, l = front ++ out :: back ∧
    front.length = earliestGrant l ∧ (∀ x ∈ front, out.expiry < x.expiry) ∧ (∀ x ∈ back, out.expiry ≤ x.expiry) := by
  induction l with
  | nil => exact absurd rfl h
  | cons g l ih =>
    cases l with
    | nil => exact ⟨[], g, [], rfl, rfl, by simp, by simp⟩
    | cons g' l =>
      obtain ⟨front, out, back, parts, index, before, behind⟩ := ih (List.cons_ne_nil g' l)
      have found : (g' :: l).getD (earliestGrant (g' :: l)) g = out := by rw [← index, parts]; simp
      rw [earliestGrant, found]
      · by_cases earlier : out.expiry < g.expiry
        · refine ⟨g :: front, out, back, by rw [parts]; rfl, by rw [if_pos earlier, ← index]; rfl, fun x hx => ?_, behind⟩
          rcases List.mem_cons.1 hx with rfl | hx
          · exact earlier
          · exact before x hx
        · refine ⟨[], g, g' :: l, rfl, by rw [if_neg earlier]; rfl, by simp, fun x hx => ?_⟩
          have least : out.expiry ≤ x.expiry := by
            rw [parts, List.mem_append, List.mem_cons] at hx
            rcases hx with hx | rfl | hx
            · exact Nat.le_of_lt (before x hx)
            · exact Nat.le_refl _
            · exact behind x hx
          omega
      · exact fun none => List.cons_ne_nil g' l none

theorem any_scope_iff (g : Grant) (l : List Grant) : l.any (·.scope == g.scope) = true ↔ ∃ h ∈ l, h.scope = g.scope := by simp

theorem addGrant_replaces {g : Grant} {l : List Grant} (h : ∃ h ∈ l, h.scope = g.scope) :
    addGrant g l = l.filter (fun h => h.scope ≠ g.scope) ++ [g] := by
  unfold addGrant
  rw [if_pos ((any_scope_iff g l).2 h)]
  refine congrArg (· ++ [g]) (List.filter_congr fun x _ => ?_)
  rw [bne, Bool.beq_eq_decide_eq, decide_not]

theorem addGrant_joins {g : Grant} {l : List Grant} (new : ∀ h ∈ l, h.scope ≠ g.scope) (room : l.length < 4) :
    addGrant g l = l ++ [g] := by
  unfold addGrant
  rw [if_neg fun any => ?_, if_pos (show l.length < Config.maxGrants from room)]
  obtain ⟨h, hl, same⟩ := (any_scope_iff g l).1 any
  exact new h hl same

theorem addGrant_evicts {g : Grant} {l : List Grant} (new : ∀ h ∈ l, h.scope ≠ g.scope) (full : l.length = 4) :
    ∃ front out back, l = front ++ out :: back ∧ addGrant g l = front ++ back ++ [g] ∧
      (∀ h ∈ front, out.expiry < h.expiry) ∧ (∀ h ∈ back, out.expiry ≤ h.expiry) := by
  obtain ⟨front, out, back, parts, index, before, behind⟩ := earliestGrant_splits (l := l) (List.ne_nil_of_length_eq_add_one full)
  refine ⟨front, out, back, parts, ?_, before, behind⟩
  unfold addGrant
  rw [if_neg fun any => ?_, if_neg (by rw [full]; decide), ← index, parts]
  · simp [List.eraseIdx_append_of_length_le]
  · obtain ⟨h, hl, same⟩ := (any_scope_iff g l).1 any
    exact new h hl same

theorem mem_addGrant (g : Grant) (l : List Grant) : g ∈ addGrant g l := by
  unfold addGrant
  split
  · simp
  · split <;> simp

/-! ### LOCK_INFO (R89, R181) -/

@[simp] theorem put_zero (lo n : Nat) : put lo n 0 = 0#64 := by simp [put]

/-- The scope code and remaining seconds LOCK_INFO gives for a place of the grant list. -/
def State.grantCodes (s : State) (i : Nat) : Nat × Nat :=
  match s.lock.grants[i]? with
  | some g => (g.scope.code, g.expiry - s.events.uptime)
  | none => (65534, 0)

theorem State.grantField_eq (s : State) (lo i : Nat) :
    s.grantField lo i = put lo 2 (s.grantCodes i).1 ||| put (lo + 2) 2 (s.grantCodes i).2 := by
  unfold State.grantField State.grantCodes
  cases s.lock.grants[i]? with
  | none => simp
  | some g => rfl

end Sys2Proof.Machine

open Sys2Proof Sys2Proof.Machine

/-- Settles O29: the PIN arguments digit by digit, then the checks of R84 in their order. -/
theorem setPinServed : Obligations.SetPinServed := by
  refine ⟨parsePin_iff, fun s r serving => ?_⟩
  intro given inStay bad
  have exec_eq : exec .setPin s = .next (serveSetPin r s.fetchDone) := act_serving serveSetPin serving
  rw [exec_eq]
  refine ⟨fun malformed => congrArg _ (serveSetPin_bad _ malformed), fun formed outside => congrArg _ ?_,
    fun new formed stay parsed => ?_⟩
  · obtain ⟨new, parsed⟩ := Option.ne_none_iff_exists'.1 fun unparsed => formed (.inl unparsed)
    rw [serveSetPin_wellFormed _ parsed fun old => formed (.inr old), if_pos ((RoomState.outside_iff _).2 outside)]
  have served := serveSetPin_wellFormed s parsed fun old => formed (.inr old)
  rw [if_neg fun outside => (RoomState.outside_iff _).1 outside stay] at served
  refine ⟨fun unset => congrArg _ ?_, fun held set => ⟨fun e locked => congrArg _ ?_, fun unlocked flagged right => congrArg _ ?_,
    fun unlocked wrong => congrArg _ ?_⟩⟩
  · rw [unset] at served
    exact served
  · rw [set, locked] at served
    exact served
  · rw [set, unlocked] at served
    exact served.trans (if_pos ⟨flagged, right⟩)
  · rw [set, unlocked] at served
    refine served.trans (if_neg fun both => ?_)
    exact wrong.elim (fun absent => Bool.false_ne_true (absent.symm.trans both.1)) fun other => other both.2

/-- Settles O30: the checks of R85 in their order; a ceiling that changes takes all the grants with it, and another none. -/
theorem setGuestCeilingServed : Obligations.SetGuestCeilingServed := by
  intro s r serving bad
  have exec_eq : exec .setGuestCeiling s = .next (serveSetGuestCeiling r s.fetchDone) := act_serving serveSetGuestCeiling serving
  rw [exec_eq]
  refine ⟨fun malformed => congrArg _ (serveSetGuestCeiling_bad _ malformed), ?_⟩
  by_cases malformed : bad
  · exact ⟨fun _ formed => absurd malformed formed, fun formed => absurd malformed formed, fun _ formed => absurd malformed formed⟩
  obtain ⟨pin, parsed⟩ := Option.ne_none_iff_exists'.1 fun unparsed => malformed (.inl unparsed)
  have served := serveSetGuestCeiling_wellFormed s parsed fun above => malformed (.inr above)
  rw [parsed]
  refine ⟨fun e _ locked => congrArg _ ?_, fun _ unlocked unset => congrArg _ ?_, fun held _ unlocked set => ?_⟩
  · rw [locked] at served
    exact served
  · rw [unlocked, unset] at served
    exact served
  rw [unlocked, set] at served
  refine ⟨fun wrong => congrArg _ (served.trans (if_neg fun right => wrong (congrArg some right))), fun right same => congrArg _ ?_,
    fun right changed => congrArg _ ?_⟩
  · rw [State.setCeiling_same same] at served
    refine (served.trans (if_pos (Option.some.inj right))).trans ?_
    rw [Nat.sub_self]
  · rw [State.setCeiling_changed changed] at served
    exact served.trans (if_pos (Option.some.inj right))

/-- Settles O31: the checks of R86 in their order. -/
theorem unlockServed : Obligations.UnlockServed := by
  intro s r serving bad inStay span g l results
  have exec_eq : exec .unlock s = .next (serveUnlock r s.fetchDone) := act_serving serveUnlock serving
  rw [exec_eq]
  refine ⟨fun malformed => congrArg _ (serveUnlock_bad _ malformed), ?_⟩
  by_cases malformed : bad
  · exact ⟨fun formed => absurd malformed formed, fun _ formed => absurd malformed formed, fun formed => absurd malformed formed,
      fun _ formed => absurd malformed formed⟩
  obtain ⟨pin, parsed⟩ := Option.ne_none_iff_exists'.1 fun unparsed => malformed (.inl unparsed)
  have served := serveUnlock_wellFormed s parsed fun scope => malformed (.inr scope)
  rw [parsed]
  refine ⟨fun _ outside => congrArg _ (served.trans (if_pos ((RoomState.outside_iff _).2 outside))), ?_⟩
  obtain outside | stay := (Classical.em inStay).symm
  · exact ⟨fun _ _ inside => absurd inside outside, fun _ inside => absurd inside outside, fun _ _ inside => absurd inside outside⟩
  rw [if_neg fun outside => (RoomState.outside_iff _).1 outside stay] at served
  refine ⟨fun e _ _ locked => congrArg _ ?_, fun _ _ unlocked unset => congrArg _ ?_, fun held _ _ unlocked set => ?_⟩
  · rw [locked] at served
    exact served
  · rw [unlocked, unset] at served
    exact served
  rw [unlocked, set] at served
  refine ⟨fun wrong => congrArg _ (served.trans (if_neg fun right => wrong (congrArg some right))), fun right unfailed => congrArg _ ?_,
    fun right failed => congrArg _ ?_⟩
  · exact (served.trans (if_pos (Option.some.inj right))).trans (if_pos unfailed)
  · exact (served.trans (if_pos (Option.some.inj right))).trans (if_neg failed)

/-- Settles O32: the three cases of the list, and the grant that stands in it whichever way the request is answered. -/
theorem grantAddedAtTheEnd : Obligations.GrantAddedAtTheEnd := by
  refine ⟨fun g l => ⟨addGrant_replaces, addGrant_joins, addGrant_evicts⟩, fun s r held serving set right stay unlocked scope => ?_⟩
  intro g
  have exec_eq : exec .unlock s = .next (serveUnlock r s.fetchDone) := act_serving serveUnlock serving
  have served := serveUnlock_wellFormed s right (by omega)
  rw [if_neg fun outside => (RoomState.outside_iff _).1 outside stay, unlocked, set] at served
  rw [exec_eq, served.trans (if_pos rfl)]
  have limited {t : State} (grants : t.lock.grants = addGrant g s.lock.grants) (msgs : t.msgs = s.msgs) (n : BitVec 12)
      (covers : g.scope = .all ∨ g.scope = .service n) : t.limit n = s.msgs.policy.hotelCeiling := by
    rw [State.limit_granted ⟨g, grants ▸ mem_addGrant g _, (g.coversService_iff n).2 covers⟩, msgs]
  split
  · exact ⟨_, rfl, rfl, rfl, rfl, limited rfl rfl⟩
  · exact ⟨_, rfl, rfl, rfl, rfl, limited rfl rfl⟩

/-- Settles O33: LOCK_NOW as it is defined, and LOCK_INFO grant by grant. -/
theorem lockNowAndLockInfoServed : Obligations.LockNowAndLockInfoServed := by
  refine ⟨fun s r serving => act_serving serveLockNow serving, fun s r serving => ?_⟩
  intro grant pair
  have codes (i : Nat) : s.fetchDone.grantCodes i = grant i := by
    unfold grant State.grantCodes Scope.code
    rw [State.fetchDone_lock]
    cases s.lock.grants[i]? with
    | none => rfl
    | some g => cases g.scope <;> rfl
  have pairs (i : Nat) : s.fetchDone.grantField 0 i ||| s.fetchDone.grantField 4 (i + 1) = pair i := by
    rw [State.grantField_eq, State.grantField_eq, codes, codes]
  have remaining : s.fetchDone.lockoutRemaining = match s.lock.lockout with | some e => e - s.events.uptime | none => 0 := by
    unfold State.lockoutRemaining
    cases locked : s.lock.lockout with
    | none => simp only [State.fetchDone_lock, locked]
    | some e => simp only [State.fetchDone_lock, State.fetchDone_events, locked]
  refine (act_serving serveLockInfo serving).trans (congrArg _ ?_)
  unfold serveLockInfo
  rw [pairs 0, pairs 2, remaining]
  rfl
end

section
/-! PROOFS. The stay's messages: CHECK_IN, CHECK_OUT and the entry to VACANT (O48), SET_CAP, ENTITLE, SUSPEND, RESUME and CLEAR_PIN
(O49), each behind the room-scope serial it consumes. -/

namespace Sys2Proof.Machine

/-- The row of a room-scope message applies it to the state in which its serial has been consumed. -/
theorem exec_roomScope {k : MsgKind} {s t : State} {m : Message} (h : s.heading k m) (scope : k.scope = .room) (other : k ≠ .unbind)
    (applied : applyKind k m (s.roomSerial m.serial) = t) : exec k.row s = .next t.leaveOrWait :=
  exec_applied h (by rw [State.consumeSerial_room scope other, applied])

/-! ### CHECK_IN and CHECK_OUT (R157, R158) -/

/-- CHECK_IN in VACANT: the stay's items, the lock unit cleared but for the guest ceiling, the ROOM write and the notice (R91, R157). -/
theorem applyCheckIn_vacant {s : State} (m : Message) (vacant : s.msgs.room.state = .vacant) : applyCheckIn m s =
    let cap := min (bytesAt (m.body 0) 0 4) Config.maxCap
    let t := { s with
      msgs := { s.msgs with room := s.msgs.room.checkedIn cap (BitVec.ofNat 32 (bytesAt (m.body 1) 0 4)) }
      lock := { LockUnit.cleared with guestCeiling := min (bytesAt (m.body 0) 4 1) 7 } }
    (t.offerRoom .head).raise .room := by
  unfold applyCheckIn
  rw [vacant]

/-- The state after a CHECK_OUT, before the drain is tested (R126, R158). -/
def State.checkedOut (s : State) : State :=
  ((((s.setRoomState .checkout).offerRoom .head).releaseAllHeld).startCheckoutTimer).raise .room

/-- CHECK_OUT in OCCUPIED: the room in CHECKOUT, and then the drain (R158). -/
theorem applyCheckOut_occupied {s : State} (occupied : s.msgs.room.state = .occupied) : applyCheckOut s = s.checkedOut.testDrain .head := by
  unfold applyCheckOut
  rw [occupied]
  rfl

theorem State.checkedOut_eq {s : State} (distinct : s.purchases.handlesDistinct) : s.checkedOut =
    let notices := goneNotices .checkout (s.purchases.entries.filter (·.state == .held)) s.req.notices
    { s with
      msgs := { s.msgs with room := { s.msgs.room with
        state := .checkout, checkout := some ⟨s.events.uptime + s.msgs.policy.checkoutTimeout, false⟩ } }
      purchases := { s.purchases with entries := s.purchases.entries.filter (·.state != .held) }
      store := s.store.offer .head (.room (some { s.roomRecord with state := .checkout }))
      req := { s.req with notices := raiseIn .room notices } } := by
  unfold State.checkedOut
  rw [State.releaseAllHeld_eq ((s.setRoomState .checkout).offerRoom .head) distinct]
  rfl

/-- The drain after a CHECK_OUT is that of the state before it: the entries that left are HELD ones (R159). -/
theorem State.checkedOut_drains_iff {s : State} (distinct : s.purchases.handlesDistinct) : s.checkedOut.drains ↔
    (∀ e ∈ s.purchases.entries, e.state ≠ .committing) ∧ ∀ l ∈ s.bills.log, l.record.stay ≠ s.msgs.room.stay := by
  have remaining : (∀ e ∈ s.purchases.entries.filter (·.state != .held), e.state ≠ .committing) ↔
      ∀ e ∈ s.purchases.entries, e.state ≠ .committing := by
    refine ⟨fun h e he committing => ?_, fun h e he => h e (List.mem_filter.1 he).1⟩
    exact h e (List.mem_filter.2 ⟨he, by rw [committing]; rfl⟩) committing
  rw [State.checkedOut_eq distinct, ← remaining]
  exact ⟨fun h => h.2, fun h => ⟨rfl, h⟩⟩

/-! ### Entering VACANT (R136, R160) -/

/-- The place an entry's leaving frees is that of its record, when the log does not hold the record any more (R136, R138). -/
theorem State.freed?_eq (s : State) : s.freed? = fun e => match e.seq with
    | some n => if ∀ l ∈ s.bills.log, l.record.seq ≠ n then s.store.placeOf n else none
    | none => none := by
  funext e
  unfold State.freed? State.isAcked
  cases e.seq with
  | none => rfl
  | some n => simp

/-! ### The other messages of a stay (R90, R161 to R163) -/

/-- SUSPEND or RESUME that leaves the flag as it is (R161). -/
theorem State.setSuspended_same {s : State} {v : Bool} (same : s.msgs.room.suspended = v) : s.setSuspended v = s := if_pos (.inr same)

/-- SUSPEND or RESUME that changes the flag (R161). -/
theorem State.setSuspended_changes {s : State} {v : Bool} (bound : s.msgs.room.state ≠ .unbound) (changes : s.msgs.room.suspended ≠ v) :
    s.setSuspended v =
      (({ s with msgs := { s.msgs with room := { s.msgs.room with suspended := v } } }.offerRoom .head)).raise .room :=
  if_neg fun h => h.elim bound changes

/-- The row of SUSPEND or RESUME gives the flag its value. -/
theorem exec_setSuspended {s : State} {m : Message} {k : MsgKind} {v : Bool} (kind : k = .suspend ∧ v = true ∨ k = .resume ∧ v = false)
    (heading : s.heading k m) : exec k.row s = .next ((s.roomSerial m.serial).setSuspended v).leaveOrWait := by
  rcases kind with ⟨rfl, rfl⟩ | ⟨rfl, rfl⟩
  · exact exec_roomScope heading rfl (by decide) rfl
  · exact exec_roomScope heading rfl (by decide) rfl

end Sys2Proof.Machine

open Sys2Proof Sys2Proof.Machine

/-- Settles O48: CHECK_IN and CHECK_OUT behind their serials, the drain, and the entry to VACANT field by field. -/
theorem checkInAndOutApplied : Obligations.CheckInAndOutApplied := by
  refine ⟨fun s m heading vacant => ?_, fun s m heading occupied distinct => ?_, fun s c => ?_⟩
  · intro stay cap ceiling s1 record room t
    exact exec_roomScope (k := .checkIn) heading rfl (by decide) (applyCheckIn_vacant (s := s1) m vacant)
  · intro s1 gone notices t drains
    have out : s1.checkedOut = t := State.checkedOut_eq (s := s1) distinct
    have drains_iff : t.drains ↔ drains := by rw [← out]; exact State.checkedOut_drains_iff (s := s1) distinct
    have applied : applyCheckOut s1 = t.testDrain .head := by rw [applyCheckOut_occupied (s := s1) occupied, out]
    obtain ⟨leaves, stays⟩ := t.testDrain_spec .head
    exact ⟨fun no => exec_roomScope (k := .checkOut) heading rfl (by decide) (applied.trans (stays (mt drains_iff.1 no))),
      fun yes => exec_roomScope (k := .checkOut) heading rfl (by decide) (applied.trans (leaves (drains_iff.2 yes)))⟩
  · intro freed notices
    rw [State.enterVacant_eq, State.freed?_eq]
    rfl

/-- Settles O49: each message in the states it is applied in, behind its serial. -/
theorem stayMessagesApplied : Obligations.StayMessagesApplied := by
  refine ⟨fun s m heading stay => ?_, fun s m heading bound => ?_, fun s m k v kind heading bound => ?_, fun s m heading bound => ?_⟩
  · intro cap s1
    exact exec_roomScope (k := .setCap) heading rfl (by decide) (if_pos stay)
  · intro s1
    exact exec_roomScope (k := .entitle) heading rfl (by decide) (if_neg bound)
  · intro s1
    rw [exec_setSuspended kind heading]
    refine ⟨fun same => ?_, fun changes => ?_⟩
    · rw [State.setSuspended_same (s := s1) same]
    · rw [State.setSuspended_changes (s := s1) bound changes]
      rfl
  · intro s1
    exact exec_roomScope (k := .clearPin) heading rfl (by decide) (if_neg bound)
end

section
/-! PROOFS. What is owed (O53): the row of a part does the parts before it and the part, every other command but RESET does all of it, and
what each part of a tick and the offer of a held commit pair come to. -/

namespace Sys2Proof.Machine

/-! ### Parts and their rows (log 10) -/

/-- The row of an owed part takes the first part that is owed of that row. -/
theorem exec_owedRow (o : Owed) (s : State) : exec o.row s = .next (s.takeOwed fun x => decide (x.row = o.row)) := by
  have of_row (p : Owed → Bool) (h : ∀ x : Owed, p x = true ↔ x.row = o.row) :
      s.takeOwed p = s.takeOwed fun x => decide (x.row = o.row) := by
    rw [show p = fun x => decide (x.row = o.row) from funext fun x => by rw [Bool.eq_iff_iff, h, decide_eq_true_iff]]
  cases o
  all_goals refine congrArg Host.Outcome.next (of_row _ fun x => ?_)
  all_goals cases x <;> simp [Owed.row, Owed.isEventEnd]

section
variable {p : Owed → Bool} {o : Owed} {os : List Owed} {s : State}

/-- A part that is first among what is owed is done. -/
theorem State.takeOwed_first (h : s.owed = o :: os) (wanted : p o = true) : s.takeOwed p = s.doOwed o os := by
  unfold State.takeOwed
  rw [h, if_pos (by rw [List.any_cons, wanted, Bool.true_or]), State.runThrough, if_pos wanted]

/-- A part that is owed behind another is done behind it. -/
theorem State.takeOwed_behind (h : s.owed = o :: os) (other : p o = false) (owed : os.any p = true) :
    s.takeOwed p = (s.doOwed o os).takeOwed p := by
  have owed' : (s.doOwed o os).owed = os := rfl
  unfold State.takeOwed
  rw [h, owed', if_pos (by rw [List.any_cons, owed, Bool.or_true]), if_pos owed, State.runThrough, other]
  rfl

/-- A part that is not owed is not done. -/
theorem State.takeOwed_none (h : s.owed.any p = false) : s.takeOwed p = s := if_neg (by rw [h]; exact Bool.false_ne_true)

end

/-- The row of the part that is first among what is owed does it. -/
theorem exec_owedFirst {s : State} {o : Owed} {os : List Owed} (h : s.owed = o :: os) : exec o.row s = .next (s.doOwed o os) := by
  rw [exec_owedRow, State.takeOwed_first h (decide_eq_true rfl)]

/-- What the first part that is owed comes to is what its row comes to, the parts behind it staying owed. -/
theorem exec_owedPart {s t : State} {o : Owed} {os : List Owed} (h : s.owed = o :: os) (part : s.runOwed o = t) :
    exec o.row s = .next { t with owed := os } := by
  rw [exec_owedFirst h, State.doOwed, part]

/-- The row of a part does nothing when no part of that row is owed. -/
theorem exec_notOwed {s : State} {o : Owed} (h : ∀ x ∈ s.owed, x.row ≠ o.row) : exec o.row s = .next s := by
  rw [exec_owedRow, State.takeOwed_none (List.any_eq_false.2 fun x hx => by simpa using h x hx)]

/-- The row of a part that is owed behind others does those first. -/
theorem exec_owedBehind {s : State} {o p : Owed} {os : List Owed} (h : s.owed = o :: os) (other : p.row ≠ o.row)
    (owed : ∃ x ∈ os, x.row = p.row) : exec p.row s = exec p.row (s.doOwed o os) := by
  rw [exec_owedRow, exec_owedRow, State.takeOwed_behind h (decide_eq_false (Ne.symm other))]
  obtain ⟨x, hx, row⟩ := owed
  exact List.any_eq_true.2 ⟨x, hx, decide_eq_true row⟩

/-- A command that is neither RESET nor a part's row does all that is owed first. -/
theorem exec_settle {c : Instr} (h : c.settlesFirst = true) (s : State) : exec c s = exec c s.settle := by
  have arrives (x : Txn) : arrival x s = arrival x s.settle := by rw [arrival_eq, arrival_eq, State.settle_settle]
  cases c with
  | reset straps performed => cases h
  | eventEnd | grantExpiry | lockoutExpiry | resendDue | rebuiltEntryLimit | checkoutExpiry | commitPairOffer => cases h
  | streamSlotWrite w | streamSlotRead w | controlSlotWrite w | requestProduceWrite w | consumeIndexWrite w
  | indexWordWriteIgnored w | passedTransactionArrival w => exact arrives _
  | _ => exact (act_settle _ s).symm

/-! ### The parts of a tick -/

/-- A lockout that uptime has reached ends (R80). -/
theorem State.expireLockout_eq (s : State) : s.expireLockout = { s with lock := { s.lock with lockout :=
    match s.lock.lockout with
    | some e => if e ≤ s.events.uptime then none else some e
    | none => none } } := by
  have ends : s.lock.lockout.filter (fun e => decide (s.events.uptime < e)) = match s.lock.lockout with
      | some e => if e ≤ s.events.uptime then none else some e
      | none => none := by
    cases s.lock.lockout with
    | none => rfl
    | some e => by_cases h : e ≤ s.events.uptime <;> simp [Option.filter, h]
  unfold State.expireLockout
  rw [ends]

/-- A record OFFERED at least the resend interval ago is DUE again (R141). -/
theorem State.resendDue_eq (s : State) : s.resendDue = { s with bills := { s.bills with log := s.bills.log.map fun l =>
    match l.offer with
    | .due => l
    | .offered u => if u + s.msgs.policy.resendInterval ≤ s.events.uptime then { l with offer := .due } else l } } := by
  have resend : LogRecord.resend s.events.uptime s.msgs.policy.resendInterval = fun l => match l.offer with
      | .due => l
      | .offered u => if u + s.msgs.policy.resendInterval ≤ s.events.uptime then { l with offer := .due } else l := by
    funext l
    unfold LogRecord.resend
    cases l.offer <;> rfl
  unfold State.resendDue
  rw [resend]

/-- A rebuilt entry at its limit, in terms of hotel time and of the event table (R130). -/
theorem State.atRebuiltLimit_eq (s : State) (e : PurchaseEntry) : s.atRebuiltLimit e =
    (decide (e.origin = .rebuilt) && (match s.events.hotelTime with | some h => decide (e.taken + 28800 ≤ h) | none => false)
      && s.events.entries.all fun v => v.id != e.event) := by
  have unlisted : (s.events.byId e.event).isNone = s.events.entries.all fun v => v.id != e.event := by
    rw [Bool.eq_iff_iff]
    simp [EventUnit.byId]
  have reached : s.events.reached (e.taken + Config.rebuiltLimit) =
      match s.events.hotelTime with | some h => decide (e.taken + 28800 ≤ h) | none => false := by
    unfold EventUnit.reached
    cases s.events.hotelTime <;> rfl
  unfold State.atRebuiltLimit
  rw [unlisted, reached, Bool.beq_eq_decide_eq]

/-- The rebuilt entries at their limit leave in list order (R130, R136; log 37). -/
theorem State.limitRebuilt_eq {s : State} (distinct : s.purchases.handlesDistinct) : s.limitRebuilt =
    let leaving := s.purchases.entries.filter s.atRebuiltLimit
    { s with
      purchases := { s.purchases with entries := s.purchases.entries.filter fun e => !s.atRebuiltLimit e }
      store := (leaving.filterMap s.freed?).foldl (fun st i => st.offer .part (.commit i none)) s.store
      req := { s.req with notices := goneNotices .eventEnded leaving s.req.notices } } := by
  unfold State.limitRebuilt
  rw [State.foldl_retireCommitted, filter_handles distinct]

/-- The state in which the checkout expiry has been marked as reached (R159). -/
def State.markExpired (t : CheckoutTimer) (s : State) : State :=
  { s with msgs := { s.msgs with room := { s.msgs.room with checkout := some { t with expired := true } } } }

/-- A room that is not in CHECKOUT, or whose checkout expiry lies ahead (R159). -/
theorem State.expireCheckout_ahead {s : State}
    (h : s.msgs.room.state ≠ .checkout ∨ ∀ c, s.msgs.room.checkout = some c → s.events.uptime < c.expiry) : s.expireCheckout = s := by
  unfold State.expireCheckout
  split
  · next c checkout timer => exact if_neg (Nat.not_le.2 (h.resolve_left (fun no => no checkout) c timer))
  · rfl

/-- The checkout expiry reached: the room waits for the COMMITTING entries, or enters VACANT (R159). -/
theorem State.expireCheckout_reached {s : State} {c : CheckoutTimer} (checkout : s.msgs.room.state = .checkout)
    (timer : s.msgs.room.checkout = some c) (reached : c.expiry ≤ s.events.uptime) :
    s.expireCheckout = if s.purchases.anyCommitting then s.markExpired c else (s.markExpired c).enterVacant .part := by
  unfold State.expireCheckout
  rw [checkout, timer]
  exact if_pos reached

/-- Entering VACANT leaves what is owed as it is. -/
theorem State.enterVacant_owed (c : Caller) (os : List Owed) (s : State) :
    { s.enterVacant c with owed := os } = ({ s with owed := os } : State).enterVacant c := by
  rw [State.enterVacant_eq, State.enterVacant_eq]
  rfl

/-- A held pair is offered with the place that is free (R135). -/
theorem State.offerHeldPair_free {s : State} {r : CommitRecord} {rest : List CommitRecord} {i : Fin 48}
    (held : s.purchases.heldPairs = r :: rest) (free : s.store.freePlace = some i) : s.offerHeldPair = { s with
      purchases := { s.purchases with heldPairs := rest }
      store := s.store.offerPair .part (.room (some s.roomRecord)) (.commit i (some r)) } := by
  unfold State.offerHeldPair
  rw [held, free]

end Sys2Proof.Machine

open Sys2Proof Sys2Proof.Machine

/-- Settles O53: the order of what is owed, and then each part, first among what is owed. -/
theorem owedPartsDone : Obligations.OwedPartsDone := by
  refine ⟨fun c s h => exec_settle h s, State.settle_owed, fun s h => State.settle_settled h, fun s o os h => ?_, fun s settled => ?_,
    fun s os h => ?_, fun s os h => ?_, fun s os h => ?_, fun s os h distinct => ?_, fun s os h => ?_,
    fun s os r rest i h held free => ?_⟩
  · refine ⟨s.doOwed o os, exec_owedFirst h, rfl, State.settle_cons h, fun p other => ⟨exec_owedBehind h other, fun unowed => ?_⟩⟩
    refine exec_notOwed fun x hx => ?_
    rw [h] at hx
    rcases List.mem_cons.1 hx with rfl | hx
    · exact Ne.symm other
    · exact unowed x hx
  · have none (o : Owed) : exec o.row s = .next s := exec_notOwed fun x hx => by rw [show s.owed = [] from settled] at hx; cases hx
    exact ⟨none .grantExpiry, none .lockoutExpiry, none .resendDue, none .rebuiltEntryLimit, none .checkoutExpiry, none .commitPairOffer⟩
  · exact exec_owedFirst h
  · exact exec_owedPart h s.expireLockout_eq
  · exact exec_owedPart h s.resendDue_eq
  · intro atLimit leaving freed notices
    have limit : s.atRebuiltLimit = atLimit := funext s.atRebuiltLimit_eq
    have limited := exec_owedPart h (State.limitRebuilt_eq distinct)
    rw [limit, State.freed?_eq] at limited
    exact limited
  · refine ⟨fun ahead => exec_owedPart h (State.expireCheckout_ahead ahead), fun c checkout timer reached => ⟨?_, fun ended => ?_⟩⟩
    · intro ⟨e, he, committing⟩
      have waits : s.purchases.anyCommitting = true := List.any_eq_true.2 ⟨e, he, by rw [committing]; rfl⟩
      exact exec_owedPart h ((State.expireCheckout_reached checkout timer reached).trans (if_pos waits))
    · intro t
      have leaves : ¬s.purchases.anyCommitting = true := Bool.eq_false_iff.1 (s.purchases.anyCommitting_false.2 ended)
      have entered := exec_owedPart h ((State.expireCheckout_reached checkout timer reached).trans (if_neg leaves))
      rw [State.enterVacant_owed] at entered
      refine ⟨entered, ?_⟩
      rw [show t = _ from State.enterVacant_eq .part _]
      exact ⟨rfl, rfl, rfl, rfl, rfl, rfl⟩
  · exact exec_owedPart h (State.offerHeldPair_free held free)
end

section
/-! PROOFS. The ends of store writes and the advance of the waiting line (O57). -/

namespace Sys2Proof.Machine

/-! ### Who waits for a write (R82, R133) -/

/-- An answer at the end of its write: an OK answer carries the word kept behind its results (R82). -/
theorem Answer.withKept_eq (a : Answer) (kept : Bool) :
    a.withKept kept = { a with results := if a.outcome = .ok then a.results ++ [single (flag kept)] else a.results } := by
  obtain ⟨kind, tag, outcome, results⟩ := a
  cases outcome <;> rfl

/-- A request that waits for its write is answered at the write's end (R82, R134). -/
theorem RequestUnit.writeEnded_eq (q : RequestUnit) (kept : Bool) : q.writeEnded kept = match q.service with
    | .waiting a true => { q with
        service := .answering { a with results := if a.outcome = .ok then a.results ++ [single (flag kept)] else a.results } none }
    | _ => q := by
  unfold RequestUnit.writeEnded
  cases q.service with
  | idle | fetching | answering a h => rfl
  | waiting a completes =>
    cases completes with
    | false => rfl
    | true => exact congrArg (fun b => { q with service := .answering b none }) (a.withKept_eq kept)

@[simp] theorem RequestUnit.writeEnded_startUp (q : RequestUnit) (kept : Bool) : (q.writeEnded kept).startUp = q.startUp := by
  unfold RequestUnit.writeEnded
  split <;> rfl

/-- A request that waits for its write to join the queue is answered when it has (R82, R133). -/
theorem RequestUnit.writeJoined_eq (q : RequestUnit) : q.writeJoined = match q.service with
    | .waiting a false => { q with service := .answering a none }
    | _ => q := by
  unfold RequestUnit.writeJoined
  cases q.service with
  | idle | fetching | answering a h => rfl
  | waiting a completes => cases completes <;> rfl

/-- The request unit when every write has been lost: an answer that waited for its write goes out, with kept 0 if it waited for the
write's end (R134). -/
theorem RequestUnit.writesLost_eq (q : RequestUnit) : (q.writeEnded false).writeJoined = match q.service with
    | .waiting a true => { q with
        service := .answering { a with results := if a.outcome = .ok then a.results ++ [single 0] else a.results } none }
    | .waiting a false => { q with service := .answering a none }
    | _ => q := by
  rw [RequestUnit.writeJoined_eq, RequestUnit.writeEnded_eq]
  cases service : q.service with
  | idle | fetching | answering a h => simp only [service]
  | waiting a completes =>
    cases completes with
    | false => simp only [service]
    | true => rfl

/-- The same with other flags pending. -/
theorem RequestUnit.writesLost_noticed (q : RequestUnit) (l : List Notice) : { (q.writeEnded false).writeJoined with notices := l } =
    match q.service with
    | .waiting a true => { q with
        notices := l
        service := .answering { a with results := if a.outcome = .ok then a.results ++ [single 0] else a.results } none }
    | .waiting a false => { q with notices := l, service := .answering a none }
    | _ => { q with notices := l } := by
  rw [RequestUnit.writesLost_eq]
  cases service : q.service with
  | idle | fetching | answering a h => simp only [service]
  | waiting a completes => cases completes <;> rfl

/-! ### Writes that end verified (R82, R134, R135) -/

theorem exec_storeWrite (v : Verify) {s : State} (h : s.settled) : exec (.storeWriteComplete v) s = .next (s.completeWrite v) :=
  act_settled _ h

/-- A write's end while the queue is empty (log 7). -/
theorem State.completeWrite_idle {s : State} (v : Verify) (h : s.store.queue = []) : s.completeWrite v = s := by
  unfold State.completeWrite
  rw [h]

theorem State.completeWrite_verified {s : State} {q : QueuedWrite} {rest : List QueuedWrite} (h : s.store.queue = q :: rest) :
    s.completeWrite .verified =
      { s with store := { s.store with queue := rest, places := s.store.places.write q.write } }.writeDone q := by
  unfold State.completeWrite
  rw [h]

/-- Outside the wait for the ROOM write of start-up, no write ends start-up. -/
theorem State.endStartUpIf_other {s : State} (h : s.req.startUp ≠ .awaitingRoom) : s.endStartUpIf = s := by
  unfold State.endStartUpIf
  split
  · next awaiting => exact absurd awaiting h
  · rfl
  · rfl

/-- The owner of a verified write told, but for a new commit record and for the end of start-up: a waiting setting is answered with
kept 1, and a freed place is offered to a held pair. -/
theorem State.writeDone_eq {s : State} {q : QueuedWrite} (settled : s.settled) (running : s.req.startUp ≠ .awaitingRoom)
    (known : ∀ i r, q.write = .commit i (some r) → r.acked = true) : s.writeDone q = { s with
      owed := match q.write with
        | .commit _ none => if s.purchases.heldPairs = [] then [] else [.commitPairOffer]
        | _ => []
      req := match q.write, q.answers, s.req.service with
        | .room _, true, .waiting a true =>
          { s.req with service := .answering { a with results := if a.outcome = .ok then a.results ++ [single 1] else a.results } none }
        | _, _, _ => s.req } := by
  have settled' (q : RequestUnit) : { s with req := q } = { s with owed := [], req := q } :=
    (State.owed_nil (s := { s with req := q }) settled).symm
  have unchanged := settled' s.req
  unfold State.writeDone
  cases write : q.write with
  | binding c | policy c | serials c | titles c => exact unchanged
  | room c =>
    cases q.answers with
    | false => exact (State.endStartUpIf_other running).trans unchanged
    | true =>
      rw [if_pos rfl, State.endStartUpIf_other (by simpa using running), s.req.writeEnded_eq true]
      cases s.req.service with
      | idle | fetching | answering a h => exact unchanged
      | waiting a completes =>
        cases completes with
        | false => exact unchanged
        | true => exact settled' _
  | commit i c =>
    cases c with
    | some r => exact (if_pos (known i r write)).trans unchanged
    | none =>
      cases held : s.purchases.heldPairs with
      | nil => exact unchanged
      | cons r rest => rfl

/-! ### Writes that fail (R122, R134) -/

/-- The state in which the started write has left the places as `p`. -/
def State.leaving (p : Places) (s : State) : State := { s with store := { s.store with places := p } }

theorem State.completeWrite_failed {s : State} {v : Verify} {q : QueuedWrite} {rest : List QueuedWrite} (h : s.store.queue = q :: rest)
    (failed : v ≠ .verified) : s.completeWrite v = (State.failedCommits s
      (s.leaving (if v = .failedDamaged then s.store.places.damage q.write else s.store.places)).storeFault).endStartUpIf := by
  unfold State.completeWrite
  rw [h]
  cases v with
  | verified => exact absurd rfl failed
  | failedFormer => rfl
  | failedDamaged => rfl

/-- With no entry COMMITTING, none fails. -/
theorem State.failCommitting_none {s : State} (ended : ∀ e ∈ s.purchases.entries, e.state ≠ .committing) : s.failCommitting = s := by
  unfold State.failCommitting
  rw [List.filter_eq_nil_iff.2 fun e he => by simpa using ended e he]
  rfl

/-- No entry is COMMITTING once the COMMITTING ones have failed. -/
theorem State.failCommitting_ended (s : State) : ∀ e ∈ s.failCommitting.purchases.entries, e.state ≠ .committing := by
  intro e he committing
  rw [State.failCommitting, State.foldl_failCommit] at he
  obtain ⟨listed, others⟩ := List.mem_filter.1 he
  have self := List.all_eq_true.1 others e (List.mem_filter.2 ⟨listed, by rw [committing]; rfl⟩)
  simp at self

/-- The store is FAULTED with nothing queued, its places being `p`, and no entry is COMMITTING: what a failed write leaves, whatever the
drain and the end of start-up do behind it. -/
structure State.StoreLost (p : Places) (s : State) : Prop where
  store : s.store = ⟨p, .faulted, [], []⟩
  ended : ∀ e ∈ s.purchases.entries, e.state ≠ .committing

/-- Offers to a FAULTED store change nothing. -/
theorem foldl_offer_faulted {α : Type} (c : Caller) (w : α → StoreWrite) (l : List α) {st : Store} (h : st.state = .faulted) :
    l.foldl (fun st x => st.offer c (w x)) st = st := foldl_unchanged fun x _ => Store.offer_faulted st c (w x) h

section
variable {p : Places} {s : State}

theorem State.StoreLost.ite {c : Prop} [Decidable c] {t : State} (h : s.StoreLost p) (k : t.StoreLost p) :
    (if c then s else t).StoreLost p := by
  split
  · exact h
  · exact k

theorem State.StoreLost.setReq (h : s.StoreLost p) (q : RequestUnit) : ({ s with req := q } : State).StoreLost p := ⟨h.store, h.ended⟩

theorem State.StoreLost.enterVacant (h : s.StoreLost p) (c : Caller) : (s.enterVacant c).StoreLost p := by
  rw [State.enterVacant_eq]
  refine ⟨?_, fun e he => by cases he⟩
  have faulted : s.store.state = .faulted := by rw [h.store]
  dsimp only
  rw [foldl_offer_faulted c (fun i => .commit i none) _ faulted, Store.offer_faulted _ _ _ faulted, Store.offer_faulted _ _ _ faulted,
    h.store]

theorem State.StoreLost.testDrain (h : s.StoreLost p) (c : Caller) : (s.testDrain c).StoreLost p := .ite (h.enterVacant c) h

theorem State.StoreLost.commitEnded (h : s.StoreLost p) (c : Caller) : (s.commitEnded c).StoreLost p :=
  .ite (h.enterVacant c) (h.testDrain c)

/-- A rebuilt entry is COMMITTED (R129). -/
theorem rebuiltEntries_committed (h : Nat) (l : List CommitRecord) : ∀ e ∈ rebuiltEntries h l, e.state = .committed := by
  induction l generalizing h with
  | nil => intro e he; cases he
  | cons r l ih =>
    intro e he
    rcases List.mem_cons.1 he with rfl | he
    · rfl
    · exact ih (h + 1) e he

theorem State.StoreLost.offerRoom (h : s.StoreLost p) (c : Caller) : (s.offerRoom c).StoreLost p :=
  ⟨(Store.offer_faulted _ _ _ (by rw [h.store])).trans h.store, h.ended⟩

/-- Records freed in a FAULTED store free nothing. -/
theorem State.StoreLost.freeRecords (h : s.StoreLost p) (l : List CommitRecord) : (s.freeRecords l).StoreLost p := by
  have refused : l.foldl (Store.freeing s.bills.log) s.store = s.store := by
    refine foldl_unchanged fun r _ => ?_
    unfold Store.freeing
    split
    · split
      · exact Store.offer_faulted _ _ _ (by rw [h.store])
      · rfl
    · rfl
  rw [State.freeRecords_eq, refused]
  exact h

/-- What is recovered at the end of start-up: the entries are rebuilt ones, the ROOM write and the freeing writes refused. -/
theorem State.StoreLost.takeRecovered (h : s.StoreLost p) (x : Scanned) : (s.takeRecovered x).StoreLost p := by
  have rebuilt : ∀ e ∈ x.purchasesTaken.entries, e.state ≠ .committing := fun e he => by
    rw [rebuiltEntries_committed _ _ e he]
    decide
  unfold State.takeRecovered
  refine State.StoreLost.freeRecords (State.StoreLost.ite ?_ (State.StoreLost.offerRoom ?_ .part)) x.freed
  · exact ⟨h.store, rebuilt⟩
  · exact ⟨h.store, rebuilt⟩

theorem State.StoreLost.startUpLockout (h : s.StoreLost p) : s.startUpLockout.StoreLost p := .ite ⟨h.store, h.ended⟩ h

theorem State.StoreLost.startUpCheckout (h : s.StoreLost p) : s.startUpCheckout.StoreLost p :=
  .ite (State.StoreLost.testDrain (s := s.startCheckoutTimer) ⟨h.store, h.ended⟩ .part) h

theorem State.StoreLost.endStartUp (h : s.StoreLost p) : s.endStartUp.StoreLost p := by
  have recovered := State.StoreLost.takeRecovered (s := s.startTimer) ⟨h.store, h.ended⟩ (s.req.scanned.getD Scanned.nothing)
  unfold State.endStartUp
  exact (recovered.startUpLockout.startUpCheckout.setReq _).setReq _

theorem State.StoreLost.endStartUpIf (h : s.StoreLost p) : s.endStartUpIf.StoreLost p := by
  unfold State.endStartUpIf
  split
  · exact h.endStartUp
  · exact h
  · exact h

end

/-- A store fault loses the store and ends the commits (R122, R134). -/
theorem State.storeFault_lost (s : State) : s.storeFault.StoreLost s.store.places where
  store := by rw [State.storeFault, State.failCommitting, State.foldl_failCommit]; rfl
  ended := State.failCommitting_ended _

/-- A store fault but for the COMMITTING entries, written out (R134). -/
theorem State.faultStore_eq (s : State) : s.faultStore = { s with
    store := { s.store with state := .faulted, queue := [], line := [] }
    purchases := { s.purchases with heldPairs := [] }
    msgs := if s.msgs.headApplied then { s.msgs with intake := s.msgs.intake.drop 1, headApplied := false } else s.msgs
    req := match s.req.service with
      | .waiting a true => { s.req with
          service := .answering { a with results := if a.outcome = .ok then a.results ++ [single 0] else a.results } none }
      | .waiting a false => { s.req with service := .answering a none }
      | _ => s.req } := by
  unfold State.faultStore
  rw [RequestUnit.writesLost_eq]
  rfl

theorem State.with_req {s : State} {q : RequestUnit} (h : s.req = q) : s = { s with req := q } := by
  rw [← h]

/-- A store fault with the COMMITTING entries, which carry distinct handles: they leave, each with its notice (R122, R134). -/
theorem State.storeFault_eq {s : State} (distinct : s.purchases.handlesDistinct) : s.storeFault =
    let notices := goneNotices .storeFault (s.purchases.entries.filter fun e => e.state = .committing) s.req.notices
    { s with
      store := { s.store with state := .faulted, queue := [], line := [] }
      purchases := { s.purchases with entries := s.purchases.entries.filter fun e => e.state ≠ .committing, heldPairs := [] }
      msgs := if s.msgs.headApplied then { s.msgs with intake := s.msgs.intake.drop 1, headApplied := false } else s.msgs
      req := match s.req.service with
        | .waiting a true => { s.req with
            notices := notices
            service := .answering { a with results := if a.outcome = .ok then a.results ++ [single 0] else a.results } none }
        | .waiting a false => { s.req with notices := notices, service := .answering a none }
        | _ => { s.req with notices := notices } } := by
  have pending : s.faultStore.req.notices = s.req.notices := by
    rw [State.faultStore_eq]
    dsimp only
    split <;> rfl
  have stay : (fun e : PurchaseEntry => e.state != .committing) = fun e => decide (e.state ≠ .committing) := by
    funext e
    rw [decide_not]
    rfl
  unfold State.storeFault
  rw [State.failCommitting_eq s.faultStore distinct, pending, stay]
  exact State.with_req (s.req.writesLost_noticed _)

/-- A write that fails outside start-up: the store fault, and the drain's test when commits have ended with it (R122, R134, R159). -/
theorem exec_failedWrite {s : State} {v : Verify} {q : QueuedWrite} {rest : List QueuedWrite} (settled : s.settled)
    (h : s.store.queue = q :: rest) (failed : v ≠ .verified) (running : s.req.startUp ≠ .awaitingRoom) :
    exec (.storeWriteComplete v) s = .next (State.failedCommits s
      (s.leaving (if v = .failedDamaged then s.store.places.damage q.write else s.store.places)).storeFault) := by
  rw [exec_storeWrite v settled, State.completeWrite_failed h failed, State.endStartUpIf_other]
  have fault (p : Places) : (s.leaving p).storeFault.req.startUp = s.req.startUp := (Cascade.storeFault (s.leaving p)).startUp
  unfold State.failedCommits
  split
  · rw [(Cascade.commitEnded _ _).startUp, fault]
    exact running
  · rw [fault]
    exact running

/-! ### The waiting line (R133, R148) -/

/-- The line moves when the queue has room for its front. -/
theorem Store.advance_eq (st : Store) : st.advance = match st.line with
    | [] => st
    | .one q :: rest => if st.queue.length < 8 then
        { st with queue := st.queue ++ [{ q with admits := false, heads := false }], line := rest } else st
    | .pair q p :: rest => if st.queue.length < 7 then
        { st with
          queue := st.queue ++ [{ q with admits := false, heads := false }, { p with admits := false, heads := false }]
          line := rest }
        else st := by
  unfold Store.advance
  cases st.line with
  | nil => rfl
  | cons x rest =>
    cases x with
    | one q => rfl
    | pair q p => exact ite_congr (propext (show _ + 2 ≤ 8 ↔ _ < 7 by omega)) (fun _ => rfl) fun _ => rfl

theorem State.goOn_eq (s : State) : s.goOn = { s with
    req := match s.req.service with
      | .waiting a false => if s.store.line.any (·.any (·.admits)) then s.req else { s.req with service := .answering a none }
      | _ => s.req
    msgs := if s.msgs.headApplied = true ∧ s.store.line.any (·.any (·.heads)) = false then
        { s.msgs with intake := s.msgs.intake.drop 1, headApplied := false } else s.msgs } := by
  have joined : (if s.store.line.any (·.any (·.admits)) then s else { s with req := s.req.writeJoined }) = { s with req :=
      match s.req.service with
      | .waiting a false => if s.store.line.any (·.any (·.admits)) then s.req else { s.req with service := .answering a none }
      | _ => s.req } := by
    rw [s.req.writeJoined_eq]
    cases s.req.service with
    | idle | fetching | answering a h => exact ite_self _
    | waiting a completes =>
      cases completes with
      | false => split <;> rfl
      | true => exact ite_self _
  unfold State.goOn
  rw [joined]
  dsimp only
  split
  · rfl
  · rfl

end Sys2Proof.Machine

open Sys2Proof Sys2Proof.Machine

/-- Settles O57: a write that ends verified, one that fails, and the move of the waiting line. -/
theorem storeWritesEnd : Obligations.StoreWritesEnd := by
  refine ⟨fun s v settled idle => ?_, fun s q rest settled queue running known => ?_, fun s q rest v settled queue failed => ?_,
    fun s settled => ?_⟩
  · rw [exec_storeWrite v settled, State.completeWrite_idle v idle]
  · intro kept
    rw [exec_storeWrite _ settled, State.completeWrite_verified queue]
    refine congrArg Host.Outcome.next (State.writeDone_eq ?_ running known)
    exact settled
  · intro places lost
    have lost_store : (State.failedCommits s (s.leaving places).storeFault).StoreLost places :=
      .ite ((s.leaving places).storeFault_lost.commitEnded .part) (s.leaving places).storeFault_lost
    refine ⟨⟨_, ?_, lost_store.endStartUpIf.store, lost_store.endStartUpIf.ended⟩, fun ended running => ?_,
      fun ⟨e, he, committing⟩ distinct running => ?_⟩
    · rw [exec_storeWrite v settled, State.completeWrite_failed queue failed]
    · rw [exec_failedWrite settled queue failed running]
      have calm : ¬s.purchases.anyCommitting = true := Bool.eq_false_iff.1 (s.purchases.anyCommitting_false.2 ended)
      refine congrArg Host.Outcome.next ((if_neg calm).trans ?_)
      exact (State.failCommitting_none (s := (s.leaving places).faultStore) ended).trans (s.leaving places).faultStore_eq
    · intro gone notices u
      have tested : s.purchases.anyCommitting = true := List.any_eq_true.2 ⟨e, he, by rw [committing]; rfl⟩
      have faulted : (s.leaving places).storeFault = u := State.storeFault_eq (s := s.leaving places) distinct
      have row : exec (.storeWriteComplete v) s = .next (u.commitEnded .part) := by
        rw [exec_failedWrite settled queue failed running, ← faulted]
        exact congrArg Host.Outcome.next (if_pos tested)
      obtain ⟨leaves, stays⟩ := u.commitEnded_spec .part
      exact ⟨fun drains => row.trans (congrArg _ (leaves drains)), fun still => row.trans (congrArg _ (stays still))⟩
  · intro st
    have moved : s.store.advance = st := s.store.advance_eq
    have row : exec .storeWaitingLineAdvance s = .next ({ s with store := st } : State).goOn := by
      rw [← moved]
      exact act_settled _ settled
    exact row.trans (congrArg _ (State.goOn_eq { s with store := st }))
end

section
/-! PROOFS. Hotel time (O7): a tick and a TIME message let it rise, a reset makes it unknown, and every other command leaves it as it is
(R94, R95). -/

namespace Sys2Proof.Machine

/-! ### What leaves the event unit as it is -/

@[simp] theorem State.phaseReport_events (ring : Fin 4) (slot : Nat) (ks : Fin 64) (q : Phase) (s : State) :
    (s.phaseReport ring slot ks q).events = s.events := by
  have installed : (s.installStaged ks q).events = s.events := by unfold State.installStaged; split <;> rfl
  unfold State.phaseReport; dsimp only; split <;> exact installed

@[simp] theorem State.setSlotTag_events (ring : Fin 4) (slot : Nat) (w : Word) (s : State) :
    (s.setSlotTag ring slot w).events = s.events := by
  rcases State.setSlotTag_cases ring slot w s with ⟨-, set⟩ | ⟨-, set | ⟨ks, q, set⟩⟩
  · rw [set]; rfl
  · rw [set]; rfl
  · rw [set]; exact State.phaseReport_events ring slot ks q _

@[simp] theorem State.writePortion_events (w : WriteTxn) (q : Portion) (s : State) : (s.writePortion w q).events = s.events := by
  have headers (ring : Fin 4) (slot : Nat) : (s.streamWrite w ring slot q).events = s.events := by
    unfold State.streamWrite
    repeat' split
    all_goals simp [State.replaceTag]
  have cells : (s.controlWrite w q).events = s.events := by
    unfold State.controlWrite
    repeat' split
    all_goals rfl
  unfold State.writePortion
  split
  · exact headers _ _
  · exact cells
  all_goals rfl

/-- Whatever a request finds, serving it leaves the event unit: each branch ends in an answer. -/
theorem requestService_events {code : Nat} {f : Request → State → State} (h : requestService code = some f) (r : Request)
    (s : State) : (f r s).events = s.events := by
  unfold requestService at h
  split at h <;> cases h
  all_goals simp only [serveAttachRing, serveDetachRing, serveServiceInfo, serveKeyInfo, serveSlateInfo, serveSetPin,
    serveSetGuestCeiling, serveUnlock, serveLockNow, serveLockInfo, serveReadEvent, serveQuote, servePurchase, State.purchaseEvent,
    serveCancel, serveListPurchases, serveBillInfo, serveStatus]
  all_goals repeat' split
  all_goals simp
  all_goals rfl

/-! ### Hotel time, once known, stays known and does not fall -/

/-- Hotel time that is known stays known, and no lower. -/
def TimeRuns (s t : State) : Prop := ∀ h, s.events.hotelTime = some h → ∃ h', t.events.hotelTime = some h' ∧ h ≤ h'

namespace TimeRuns

/-- Hotel time as it was. -/
theorem stands {s t : State} (h : t.events.hotelTime = s.events.hotelTime := by rfl) : TimeRuns s t :=
  fun n known => ⟨n, h.trans known, Nat.le_refl n⟩

theorem refl (s : State) : TimeRuns s s := stands

theorem trans {s t u : State} (h : TimeRuns s t) (k : TimeRuns t u) : TimeRuns s u := fun n known => by
  obtain ⟨n', known', le⟩ := h n known
  obtain ⟨n'', known'', le'⟩ := k n' known'
  exact ⟨n'', known'', Nat.le_trans le le'⟩

theorem fold {α : Type} {f : State → α → State} (hf : ∀ s a, TimeRuns s (f s a)) (l : List α) (s : State) :
    TimeRuns s (l.foldl f s) := by
  induction l generalizing s with
  | nil => exact refl s
  | cons a l ih => exact (hf s a).trans (ih _)

theorem ite {p : Prop} [Decidable p] {s t u : State} (h : TimeRuns s t) (k : TimeRuns s u) : TimeRuns s (if p then t else u) := by
  split
  · exact h
  · exact k

/-- A cascade leaves hotel time. -/
theorem of_cascade {s t : State} (h : Cascade s t) : TimeRuns s t := stands h.hotelTime

/-- So does what leaves the event unit. -/
theorem of_events {s t : State} (h : t.events = s.events := by rfl) : TimeRuns s t := stands (by rw [h])

variable (s : State)

/-! ### Arrivals, the memory side, requests and records -/

theorem arriveWrite (w : WriteTxn) : TimeRuns s (s.arriveWrite w) :=
  ite ((fold (fun s q => of_events (s.writePortion_events w q)) _ s).trans of_events) (refl s)

theorem readPortions (r : ReadTxn) (l : List Portion) (a : State × List HeldPortion) :
    TimeRuns a.1 (l.foldl (readPortion r) a).1 := by
  induction l generalizing a with
  | nil => exact refl _
  | cons q l ih =>
    refine TimeRuns.trans ?_ (ih (readPortion r a q))
    rcases readPortion_cases r a q with h | ⟨id, h⟩ <;> rw [h]
    · exact refl _
    · exact stands

theorem arriveRead (r : ReadTxn) : TimeRuns s (s.arriveRead r) := by
  unfold State.arriveRead
  exact ite ((readPortions r _ (s, [])).trans of_events) (refl s)

theorem arbitrate : TimeRuns s s.arbitrate := by
  unfold State.arbitrate
  split
  case h_4 => exact ite of_events of_events
  all_goals exact of_events

theorem grant : TimeRuns s s.grant := by
  unfold State.grant
  split
  · exact arbitrate s
  · split
    · exact refl s
    · exact trans (t := s.performWrite _) of_events (arbitrate _)

theorem returnRead : TimeRuns s s.returnRead := by
  unfold State.returnRead
  split <;> exact of_events

theorem serveUnknown : TimeRuns s s.serveUnknown := by
  unfold State.serveUnknown
  split
  · exact refl s
  · exact ite (refl s) of_events

theorem serveAs {code : Nat} {f : Request → State → State} (h : requestService code = some f) : TimeRuns s (s.serveAs code f) := by
  rcases s.serveAs_cases code f with e | ⟨r, -, -, e⟩ <;> rw [e]
  · exact refl s
  · exact of_events (requestService_events h r s.fetchDone)

theorem writeAnswer : TimeRuns s s.writeAnswer := by
  unfold State.writeAnswer
  split
  · next a h _ =>
    refine ite (trans (t := s.issueAnswer a) of_events ?_) (refl s)
    cases h with
    | none => exact refl _
    | some n => exact of_cascade (.beginCommit _ _ _)
  all_goals exact refl s

theorem writeNotice : TimeRuns s s.writeNotice := by
  unfold State.writeNotice
  split
  · exact refl s
  · exact ite of_events (refl s)

theorem writeBill : TimeRuns s s.writeBill := by
  unfold State.writeBill
  split
  · exact ite of_events (refl s)
  · exact refl s

/-! ### Messages -/

theorem testDrain (c : Caller) : TimeRuns s (s.testDrain c) := of_cascade (.testDrain s c)

theorem applyCheckOut : TimeRuns s (applyCheckOut s) := by
  have released (u : State) : TimeRuns u u.releaseAllHeld := fold (fun u e => of_cascade (.releaseHeld u .checkout e)) _ u
  unfold Machine.applyCheckOut
  split
  · exact ((released ((s.setRoomState .checkout).offerRoom .head)).trans
      (t := State.raise .room (State.startCheckoutTimer _)) of_events).trans (testDrain _ _)
  all_goals exact refl s

theorem ackUpTo (n : Nat) : TimeRuns s (s.ackUpTo n) := by
  have written (u : State) (l : LogRecord) : TimeRuns u (u.ackWrite l) := by
    unfold State.ackWrite
    split
    · exact refl u
    · exact ite of_events of_events
  unfold State.ackUpTo
  dsimp only
  split
  · exact of_events
  · exact trans of_events (fold written _ _)

theorem applyBillAck (m : Message) : TimeRuns s (applyBillAck m s) := by
  refine ite (refl s) ?_
  split
  · exact testDrain s _
  · exact ite ((ackUpTo s _).trans (testDrain _ _)) (testDrain s _)

theorem applyKey (m : Message) : TimeRuns s (applyKey m s) := by
  have announced (u : State) (ks : Fin 64) (p : Phase) (w : Word) : TimeRuns u (u.announceKey ks p w) := by
    unfold State.announceKey
    split
    · exact of_events
    · exact ite (refl u) of_events
  unfold Machine.applyKey
  split
  · exact refl s
  · refine ite (fold (fun u j => ?_) _ s) (refl s)
    unfold applyKeyEntry
    dsimp only
    split
    · exact ite (announced u _ _ _) (ite (announced u _ _ _) (refl u))
    · exact refl u

/-- An announcement changes entries of the table alone (R100). -/
theorem announce (a : EventEntry) : TimeRuns s (s.announce a) := by
  have ended (id : BitVec 32) : TimeRuns s (s.endPurchase .head id) := of_cascade (.endPurchase s .head id)
  unfold State.announce
  split
  · unfold State.announceKnown
    split
    · exact stands
    · exact ite stands (ite ((of_cascade (.endEvent s .head _)).trans stands) (refl s))
  · refine ite (ended _) ?_
    split
    · exact ite stands (ite ((ended _).trans stands) (refl s))
    · unfold State.announceNew
      refine ite stands ?_
      split <;> exact stands

theorem applyEvent (m : Message) : TimeRuns s (applyEvent m s) := by
  refine ite (fold (fun u j => ?_) _ s) (refl s)
  split
  · exact refl u
  · exact announce u _

/-- A TIME message sets hotel time forward only (R95). -/
theorem applyTime (m : Message) : TimeRuns s (applyTime m s) := by
  intro h known
  unfold Machine.applyTime
  dsimp only
  rw [known]
  dsimp only
  split
  · next later => exact ⟨_, rfl, Nat.le_of_lt later⟩
  · exact ⟨h, rfl, Nat.le_refl h⟩

theorem applyKind (k : MsgKind) (m : Message) : TimeRuns s (applyKind k m s) := by
  cases k with
  | bind => exact of_events (by simp only [Machine.applyKind, applyBind]; split <;> rfl)
  | unbind => exact ite of_events (refl s)
  | checkIn => exact of_events (by simp only [Machine.applyKind, applyCheckIn]; split <;> rfl)
  | checkOut => exact applyCheckOut s
  | setCap => exact ite of_events (refl s)
  | entitle => exact ite (refl s) of_events
  | policy => exact ite (refl s) (trans of_events (fold (fun u h => of_cascade (.beginCommit u .head h)) _ _))
  | billAck => exact applyBillAck s m
  | suspend | resume => exact ite (refl s) of_events
  | hotelKey => exact of_events (by simp only [Machine.applyKind, applyHotelKey]; split <;> rfl)
  | clearPin => exact ite (refl s) of_events
  | key => exact applyKey s m
  | serviceMap => exact ite of_events (refl s)
  | event => exact applyEvent s m
  | time => exact applyTime s m
  | slate => exact of_events (by simp only [Machine.applyKind, applySlate]; split <;> rfl)

theorem applyHead (k : MsgKind) (m : Message) : TimeRuns s (s.applyHead k m) := by
  have consumed : TimeRuns s (s.consumeSerial k m.serial) := by
    unfold State.consumeSerial
    split <;> exact of_events
  exact (consumed.trans (applyKind _ k m)).trans (ite of_events of_events)

theorem dealHeadAs (k : MsgKind) : TimeRuns s (s.dealHeadAs k) := by
  rcases s.dealHeadAs_cases k with e | ⟨m, -, e⟩ <;> rw [e]
  · exact refl s
  · exact applyHead s k m

theorem dealHead : TimeRuns s s.dealHead := by
  rcases s.dealHead_cases with e | e | ⟨k, m, -, e⟩ <;> rw [e]
  · exact refl s
  · exact of_events
  · exact applyHead s k m

/-! ### Start-up, store writes and the tick -/

theorem endStartUp : TimeRuns s s.endStartUp := by
  have freed (u : State) (l : List CommitRecord) : TimeRuns u (u.freeRecords l) :=
    fold (fun u (r : CommitRecord) => of_cascade (.freeIfAcked u .part (some r.seq))) l u
  have recovered (x : Scanned) : TimeRuns s (s.startTimer.takeRecovered x) := by
    unfold State.takeRecovered
    dsimp only
    exact trans (ite stands stands) (freed _ _)
  have locked (u : State) : TimeRuns u u.startUpLockout := ite of_events (refl u)
  have drained (u : State) : TimeRuns u u.startUpCheckout :=
    ite (trans (t := u.startCheckoutTimer) of_events (testDrain _ _)) (refl u)
  have ended (u : State) (n : Notice) : TimeRuns u { u.raise n with
      req := { (u.raise n).req with startUp := .running, scanned := none } } := of_events
  exact (((recovered _).trans (locked _)).trans (drained _)).trans (ended _ _)

theorem endStartUpIf : TimeRuns s s.endStartUpIf := by
  unfold State.endStartUpIf
  split
  · exact endStartUp s
  all_goals exact refl s

theorem scanComplete (e : ScanEnd) : TimeRuns s (s.scanComplete e) := by
  unfold State.scanComplete
  split
  · cases e with
    | unreadable => exact trans of_events (endStartUp _)
    | read failed => exact trans of_events (fold (fun u w => of_events (t := u.offer .part w)) _ _)
  all_goals exact refl s

theorem writeDone (q : QueuedWrite) : TimeRuns s (s.writeDone q) := by
  unfold State.writeDone
  split
  · exact trans (ite of_events (refl s)) (endStartUpIf _)
  · exact ite (refl s) (of_cascade (.completeCommit s _))
  · exact ite (refl s) of_events
  all_goals exact refl s

theorem completeWrite (v : Verify) : TimeRuns s (s.completeWrite v) := by
  have failed (u : State) : TimeRuns u (State.failedCommits s u.storeFault).endStartUpIf :=
    ((of_cascade (.storeFault u)).trans (ite (of_cascade (.commitEnded _ _)) (refl _))).trans (endStartUpIf _)
  unfold State.completeWrite
  split
  · exact refl s
  · cases v with
    | verified => exact trans of_events (writeDone _ _)
    | failedFormer => exact failed s
    | failedDamaged => exact trans of_events (failed _)

theorem advanceLine : TimeRuns s s.advanceLine := by
  have joined (u : State) : TimeRuns u (if u.store.line.any (·.any (·.admits)) then u else { u with req := u.req.writeJoined }) :=
    ite (refl u) of_events
  exact trans (t := { s with store := s.store.advance }) of_events ((joined _).trans (ite of_events (refl _)))

/-- A tick takes hotel time forward by a second, or leaves it at its last value (R94). -/
theorem takeTick : TimeRuns s s.takeTick := by
  have advanced : TimeRuns s { s with events := s.events.advance } := fun h known =>
    ⟨nextSecond h, by simp [EventUnit.advance, known], le_nextSecond h⟩
  have folded := advanced.trans (of_cascade (.foldMarks _ s.events.advance.plan.1))
  exact ite (folded.trans of_events) (refl s)

/-! ### Every command but RESET -/

theorem of_effect {s t : State} (h : Effect s t) : TimeRuns s t := by
  cases h with
  | scan e => exact scanComplete s e
  | write w => exact arriveWrite s w
  | read r => exact arriveRead s r
  | returnRead => exact returnRead s
  | grant => exact grant s
  | takeRequest => exact ite of_events (refl s)
  | serveUnknown => exact serveUnknown s
  | serve h => exact serveAs s h
  | writeAnswer => exact writeAnswer s
  | writeNotice => exact writeNotice s
  | writeBill => exact writeBill s
  | dealHead => exact dealHead s
  | dealHeadAs k => exact dealHeadAs s k
  | tick => exact takeTick s
  | completeWrite v => exact completeWrite s v
  | advanceLine => exact advanceLine s

end TimeRuns

/-- What a command other than RESET can do: parts of what is owed, or its effect once all that is owed has been done. -/
theorem exec_inv_of_not_reset {c : Instr} {s t : State} (ran : exec c s = .next t)
    (other : ∀ straps performed, c ≠ .reset straps performed) :
    (∃ p, t = s.takeOwed p) ∨ Effect s.settle t := by
  cases c with
  | reset straps performed => exact absurd rfl (other straps performed)
  | eventEnd | grantExpiry | lockoutExpiry | resendDue | rebuiltEntryLimit | checkoutExpiry | commitPairOffer =>
    cases ran; exact .inl ⟨_, rfl⟩
  | streamSlotWrite w | streamSlotRead w | controlSlotWrite w | requestProduceWrite w | consumeIndexWrite w
  | indexWordWriteIgnored w | passedTransactionArrival w => exact .inr (arrival_effect ran)
  | attachRing | detachRing | serviceInfo | keyInfo | slateInfo | setPin | setGuestCeiling | unlock | lockNow | lockInfo | readEvent
  | quote | purchase | cancel | listPurchases | billInfo | status => cases ran; exact .inr (.serve rfl)
  | bind | unbind | checkIn | checkOut | setCap | entitle | policy | billAck | suspend | resume | hotelKey | clearPin | key
  | serviceMap | event | time | slate => cases ran; exact .inr (.dealHeadAs _)
  | startUpScanComplete e => cases ran; exact .inr (.scan e)
  | storeWriteComplete v => cases ran; exact .inr (.completeWrite v)
  | readWordsReturn | msideGrant | requestTake | unknownRequest | answerRecordWrite | noticeWrite | billNoticeWrite | messageAtHead | tick
  | storeWaitingLineAdvance => cases ran; exact .inr (by constructor)

end Sys2Proof.Machine

open Sys2Proof Sys2Proof.Machine

/-- Settles O7: RESET apart, a command does parts of what is owed, or all of it and then its effect; neither takes hotel time back. -/
theorem hotelTimeNeverDecreases : Obligations.HotelTimeNeverDecreases := by
  intro c s t h ran other known
  rcases exec_inv_of_not_reset ran other with ⟨p, rfl⟩ | effect
  · exact TimeRuns.of_cascade (.takeOwed s p) h known
  · exact (TimeRuns.of_cascade (.settle s)).trans (.of_effect effect) h known
end

section
/-! PROOFS. READ_EVENT (O34): the lookups in the event table by their results, and the words of an entry. -/

namespace Sys2Proof.Machine

/-! ### The best of a list -/

/-- An element takes the place of the one in hand when it betters it. -/
def keepBetter {α : Type} (better : α → α → Bool) (best : Option α) (e : α) : Option α :=
  match best with
  | none => some e
  | some b => if better e b then some e else some b

/-- The first element of a list that none of the list betters. -/
def bestOf {α : Type} (better : α → α → Bool) (l : List α) : Option α := l.foldl (keepBetter better) none

section
variable {α : Type} {better : α → α → Bool}

/-- Going through a list with `b` in hand: what is kept is `b` or betters it, and no element of the list betters what is kept. -/
theorem foldl_keepBetter (irrefl : ∀ a, better a a = false)
    (trans : ∀ a b c, better a b = true → better b c = true → better a c = true) (l : List α) (b : α) :
    ∃ m, l.foldl (keepBetter better) (some b) = some m ∧ (m = b ∨ m ∈ l ∧ better m b = true) ∧ ∀ e ∈ l, better e m = false := by
  induction l generalizing b with
  | nil => exact ⟨b, rfl, .inl rfl, fun e he => by cases he⟩
  | cons x l ih =>
    cases beats : better x b with
    | true =>
      obtain ⟨m, found, kept, best⟩ := ih x
      have taken : keepBetter better (some b) x = some x := if_pos beats
      refine ⟨m, by rw [List.foldl_cons, taken, found], .inr ?_, fun e he => ?_⟩
      · rcases kept with rfl | ⟨listed, more⟩
        · exact ⟨List.mem_cons_self, beats⟩
        · exact ⟨List.mem_cons_of_mem _ listed, trans _ _ _ more beats⟩
      · rcases List.mem_cons.1 he with rfl | he
        · rcases kept with rfl | ⟨-, more⟩
          · exact irrefl _
          · exact Bool.eq_false_iff.2 fun back => Bool.false_ne_true ((irrefl m).symm.trans (trans _ _ _ more back))
        · exact best e he
    | false =>
      obtain ⟨m, found, kept, best⟩ := ih b
      have left : keepBetter better (some b) x = some b := if_neg (Bool.eq_false_iff.1 beats)
      refine ⟨m, by rw [List.foldl_cons, left, found], ?_, fun e he => ?_⟩
      · exact kept.imp_right fun ⟨listed, more⟩ => ⟨List.mem_cons_of_mem _ listed, more⟩
      · rcases List.mem_cons.1 he with rfl | he
        · rcases kept with rfl | ⟨-, more⟩
          · exact beats
          · exact Bool.eq_false_iff.2 fun back => Bool.eq_false_iff.1 beats (trans _ _ _ back more)
        · exact best e he

/-- The best of a list with elements is one of them, and none betters it. -/
theorem bestOf_some (irrefl : ∀ a, better a a = false) (trans : ∀ a b c, better a b = true → better b c = true → better a c = true)
    {l : List α} (h : l ≠ []) : ∃ m, bestOf better l = some m ∧ m ∈ l ∧ ∀ e ∈ l, better e m = false := by
  cases l with
  | nil => exact absurd rfl h
  | cons b l =>
    obtain ⟨m, found, kept, best⟩ := foldl_keepBetter irrefl trans l b
    refine ⟨m, found, ?_, fun e he => ?_⟩
    · rcases kept with rfl | ⟨listed, -⟩
      · exact List.mem_cons_self
      · exact List.mem_cons_of_mem _ listed
    · rcases List.mem_cons.1 he with rfl | he
      · rcases kept with rfl | ⟨-, more⟩
        · exact irrefl _
        · exact Bool.eq_false_iff.2 fun back => Bool.false_ne_true ((irrefl m).symm.trans (trans _ _ _ more back))
      · exact best e he

end

/-! ### Looking up an event (R96, R106) -/

/-- No entry bears an event ID that finds none. -/
theorem EventUnit.byId_none_iff (u : EventUnit) (id : BitVec 32) : u.byId id = none ↔ ∀ v ∈ u.entries, v.id ≠ id := by
  simp [EventUnit.byId]

/-- The entry found under an event ID is one of the table, and bears the ID. -/
theorem EventUnit.byId_some {u : EventUnit} {id : BitVec 32} {v : EventEntry} (h : u.byId id = some v) : v ∈ u.entries ∧ v.id = id :=
  ⟨List.mem_of_find?_eq_some h, by simpa using List.find?_some h⟩

/-- An entry that alone bears its event ID is found under it. -/
theorem EventUnit.byId_unique {u : EventUnit} {v : EventEntry} (listed : v ∈ u.entries)
    (alone : ∀ w ∈ u.entries, w.id = v.id → w = v) : u.byId v.id = some v := by
  cases h : u.byId v.id with
  | none => exact absurd rfl ((u.byId_none_iff v.id).1 h v listed)
  | some w =>
    obtain ⟨hw, id⟩ := EventUnit.byId_some h
    rw [alone w hw id]

/-- The entry at or above a number is the one with the smallest ID among those that are (R106, mode 1). -/
theorem EventUnit.nextFrom_eq (u : EventUnit) (n : Nat) : u.nextFrom n =
    bestOf (fun e b => decide (e.id.toNat < b.id.toNat)) (u.entries.filter fun v => decide (n ≤ v.id.toNat)) := by
  unfold EventUnit.nextFrom bestOf
  refine congrArg (List.foldl · none _) (funext fun best => funext fun e => ?_)
  cases best with
  | none => rfl
  | some b => exact ite_congr (decide_eq_true_eq).symm (fun _ => rfl) fun _ => rfl

theorem EventUnit.nextFrom_none {u : EventUnit} {n : Nat} (h : ∀ v ∈ u.entries, v.id.toNat < n) : u.nextFrom n = none := by
  rw [EventUnit.nextFrom_eq, List.filter_eq_nil_iff.2]
  · rfl
  · exact fun v hv above => Nat.not_le.2 (h v hv) (of_decide_eq_true above)

/-- An entry that alone bears its event ID, at or above a number with none between them. -/
theorem EventUnit.nextFrom_unique {u : EventUnit} {v : EventEntry} {n : Nat} (listed : v ∈ u.entries)
    (alone : ∀ w ∈ u.entries, w.id = v.id → w = v) (above : n ≤ v.id.toNat)
    (first : ∀ w ∈ u.entries, n ≤ w.id.toNat → v.id.toNat ≤ w.id.toNat) : u.nextFrom n = some v := by
  have candidate : v ∈ u.entries.filter fun v => decide (n ≤ v.id.toNat) := List.mem_filter.2 ⟨listed, decide_eq_true above⟩
  obtain ⟨w, found, listedToo, least⟩ := bestOf_some (better := fun e b : EventEntry => decide (e.id.toNat < b.id.toNat))
    (fun _ => decide_eq_false (Nat.lt_irrefl _))
    (fun _ _ _ h k => decide_eq_true (Nat.lt_trans (of_decide_eq_true h) (of_decide_eq_true k))) (List.ne_nil_of_mem candidate)
  obtain ⟨hw, reached⟩ := List.mem_filter.1 listedToo
  have low : w.id.toNat ≤ v.id.toNat := Nat.not_lt.1 (of_decide_eq_false (least v candidate))
  have same : w.id = v.id := BitVec.eq_of_toNat_eq (Nat.le_antisymm low (first w hw (of_decide_eq_true reached)))
  rw [EventUnit.nextFrom_eq, found, alone w hw same]

/-! ### READ_EVENT's checks (R106) -/

/-- The entry READ_EVENT looks for (R106). -/
def State.eventSought (s : State) (r : Request) : Option EventEntry :=
  if r.arg 2 = 0 then s.events.byId (BitVec.ofNat 32 (r.arg 1)) else s.events.nextFrom (r.arg 1)

theorem serveReadEvent_bad {r : Request} (s : State) (bad : 0xFFFFFFFF < r.arg 1 ∨ 1 < r.arg 2) :
    serveReadEvent r s = s.answer r .badArgument [] := if_pos bad

theorem serveReadEvent_none {r : Request} {s : State} (ok : ¬(0xFFFFFFFF < r.arg 1 ∨ 1 < r.arg 2)) (none : s.eventSought r = none) :
    serveReadEvent r s = s.answer r .noEvent [] := by
  unfold State.eventSought at none
  rw [serveReadEvent, if_neg ok, none]

theorem serveReadEvent_some {r : Request} {s : State} {v : EventEntry} (ok : ¬(0xFFFFFFFF < r.arg 1 ∨ 1 < r.arg 2))
    (found : s.eventSought r = some v) : serveReadEvent r s = s.answer r .ok (s.eventWords v) := by
  unfold State.eventSought at found
  rw [serveReadEvent, if_neg ok, found]

/-- An argument that fits 32 bits is the number of the event ID it names. -/
theorem toNat_argument {n : Nat} (h : ¬0xFFFFFFFF < n) : (BitVec.ofNat 32 n).toNat = n := by
  rw [BitVec.toNat_ofNat]; omega

/-- READ_EVENT finds nothing: no entry with its ID, or none at or above it. -/
theorem State.eventSought_none {s : State} {r : Request} (ok : ¬0xFFFFFFFF < r.arg 1)
    (h : (r.arg 2 = 0 ∧ ∀ v ∈ s.events.entries, v.id.toNat ≠ r.arg 1) ∨
      (r.arg 2 = 1 ∧ ∀ v ∈ s.events.entries, v.id.toNat < r.arg 1)) :
    s.eventSought r = none := by
  rcases h with ⟨mode, unlisted⟩ | ⟨mode, below⟩
  · refine (if_pos mode).trans ((EventUnit.byId_none_iff _ _).2 fun v hv same => unlisted v hv ?_)
    rw [same, toNat_argument ok]
  · exact (if_neg (by omega)).trans (EventUnit.nextFrom_none below)

/-- READ_EVENT finds the entry with its ID, or the one with the smallest ID at or above it. -/
theorem State.eventSought_some {s : State} {r : Request} {v : EventEntry} (ok : ¬0xFFFFFFFF < r.arg 1) (listed : v ∈ s.events.entries)
    (alone : ∀ w ∈ s.events.entries, w.id = v.id → w = v)
    (h : (r.arg 2 = 0 ∧ v.id.toNat = r.arg 1) ∨
      (r.arg 2 = 1 ∧ r.arg 1 ≤ v.id.toNat ∧ ∀ w ∈ s.events.entries, r.arg 1 ≤ w.id.toNat → v.id.toNat ≤ w.id.toNat)) :
    s.eventSought r = some v := by
  rcases h with ⟨mode, same⟩ | ⟨mode, above, first⟩
  · have id : BitVec.ofNat 32 (r.arg 1) = v.id := BitVec.eq_of_toNat_eq ((toNat_argument ok).trans same.symm)
    exact (if_pos mode).trans (id ▸ EventUnit.byId_unique listed alone)
  · exact (if_neg (by omega)).trans (EventUnit.nextFrom_unique listed alone above first)

/-! ### The words of an entry (R107) -/

/-- The free-look seconds that remain, in the room's and the policy's terms (R98, R107). -/
theorem State.freeLookLeft_eq (s : State) (v : EventEntry) : s.freeLookLeft v =
    if s.msgs.room.state = .occupied ∧ v.freeLook = true ∧ v.used < s.msgs.policy.allowance then s.msgs.policy.allowance - v.used
    else 0 := ite_congr (propext (s.freeLookOpen_iff v)) (fun _ => rfl) fun _ => rfl

/-- The elapsed seconds and the seconds left where these fit their field (R107; log 19). -/
theorem State.eventTimes_known {s : State} {v : EventEntry} {h : Nat} (known : s.events.hotelTime = some h)
    (fits : v.start + v.duration - h < 4294967296) :
    s.eventTimes v = put 0 4 (h - v.start) ||| put 4 4 (v.start + v.duration - h) := by
  unfold State.eventTimes
  rw [known]
  exact congrArg (put 0 4 (h - v.start) ||| put 4 4 ·) (if_pos fits)

theorem State.eventTimes_unknown {s : State} (v : EventEntry) (unknown : s.events.hotelTime = none) :
    s.eventTimes v = put 0 4 0xFFFFFFFF ||| put 4 4 0xFFFFFFFF := by
  unfold State.eventTimes
  rw [unknown]

end Sys2Proof.Machine

open Sys2Proof Sys2Proof.Machine

/-- Settles O34: what READ_EVENT looks for by its mode, and the words of the entry it finds. -/
theorem readEventServed : Obligations.ReadEventServed := by
  intro s r serving bad
  have served : exec .readEvent s = .next (serveReadEvent r s.fetchDone) := act_serving serveReadEvent serving
  rw [served]
  refine ⟨fun bad => ?_, fun ok nothing => ?_, fun v ok listed alone sought => ⟨s.eventTimes v, ?_, ?_, ?_⟩⟩
  · rw [serveReadEvent_bad _ bad, State.answer_fetchDone]
  · have none : s.fetchDone.eventSought r = none := State.eventSought_none (fun out => ok (.inl out)) nothing
    rw [serveReadEvent_none ok none, State.answer_fetchDone]
  · have found : s.fetchDone.eventSought r = some v := State.eventSought_some (fun out => ok (.inl out)) listed alone sought
    rw [serveReadEvent_some ok found, State.answer_fetchDone, ← State.freeLookLeft_eq]
    rfl
  · exact State.eventTimes_unknown v
  · exact fun h known fits => State.eventTimes_known known fits
end

section
/-! PROOFS. EVENT (O45): the announcements of a message and the order in which they are applied. -/

namespace Sys2Proof.Machine

/-! ### Applying EVENT (R100) -/

/-- A broadcast message consumes no serial (R153). -/
theorem State.consumeSerial_broadcast {k : MsgKind} (broadcast : k.scope = .broadcast) (n : Nat) (s : State) :
    s.consumeSerial k n = s := by
  unfold State.consumeSerial; rw [broadcast]

/-- The row of EVENT applies the message at the head and lets it leave or wait. -/
theorem exec_event {s : State} {m : Message} (h : s.heading .event m) : exec .event s = .next (applyEvent m s).leaveOrWait :=
  exec_applied (k := .event) h (by rw [State.consumeSerial_broadcast rfl]; rfl)

/-- A message with a count above 2 is ignored whole. -/
theorem applyEvent_ignored {m : Message} (s : State) (h : 2 < bytesAt (m.body 0) 0 1) : applyEvent m s = s := if_neg (Nat.not_le.2 h)

/-! ### The fields of an announcement (R100, R180) -/

/-- A number clamped to a range, as the larger of the low end and the smaller of the high end and the number. -/
theorem clamp_eq {lo hi : Nat} (h : lo ≤ hi) (n : Nat) : clamp lo hi n = max lo (min hi n) := by
  unfold clamp; split
  · omega
  · split <;> omega

/-- An announcement's service number, rating and flags are in range (R100). -/
def announcementInRange (w : Word) : Prop := bytesAt w 0 2 ≤ 4095 ∧ bytesAt w 3 1 ≤ 7 ∧ bytesAt w 6 1 ≤ 1 ∧ bytesAt w 7 1 ≤ 1

theorem announcementInRange_iff (w : Word) :
    announcementInRange w ↔ ¬(4095 < bytesAt w 0 2 ∨ 7 < bytesAt w 3 1 ∨ 1 < bytesAt w 6 1 ∨ 1 < bytesAt w 7 1) := by
  simp only [announcementInRange, not_or, Nat.not_lt]

/-- A number of `n` bytes is a word of as many bits. -/
theorem toNat_ofNat_bytesAt (w : Word) (lo n : Nat) : (BitVec.ofNat (8 * n) (bytesAt w lo n)).toNat = bytesAt w lo n := by
  rw [BitVec.toNat_ofNat]; exact Nat.mod_mod _ _

theorem Message.announcement_dropped {m : Message} {j : Nat} (h : ¬announcementInRange (m.body (3 + 3 * j))) :
    m.announcement j = none := if_neg h

/-- The entry of an announcement whose fields are in range. -/
theorem Message.announcement_taken {m : Message} {j : Nat} (h : announcementInRange (m.body (3 + 3 * j))) :
    let w1 := m.body (1 + 3 * j)
    let w2 := m.body (2 + 3 * j)
    let w3 := m.body (3 + 3 * j)
    ∃ a, m.announcement j = some a ∧ a.id.toNat = bytesAt w1 0 4 ∧ a.title.toNat = bytesAt w1 4 4 ∧ a.service.toNat = bytesAt w3 0 2 ∧
      a.tag.toNat = bytesAt w3 2 1 ∧ a.start = bytesAt w2 0 4 ∧ a.duration = max 60 (min 28800 (bytesAt w2 4 4)) ∧
      a.price = min 50000 (bytesAt w3 4 2) ∧ a.rating = bytesAt w3 3 1 ∧ a.purchasable = decide (bytesAt w3 6 1 = 1) ∧
      a.freeLook = decide (bytesAt w3 7 1 = 1) ∧ a.used = 0 ∧ a.seen = false := by
  intro w1 w2 w3
  have number : (BitVec.ofNat 12 (bytesAt w3 0 2)).toNat = bytesAt w3 0 2 := by
    rw [BitVec.toNat_ofNat, Nat.mod_eq_of_lt (Nat.lt_succ_of_le h.1)]
  exact ⟨_, if_pos h, toNat_ofNat_bytesAt w1 0 4, toNat_ofNat_bytesAt w1 4 4, number, toNat_ofNat_bytesAt w3 2 1, rfl,
    clamp_eq (by decide) _, Nat.min_comm _ _, rfl, Bool.beq_eq_decide_eq _ _, Bool.beq_eq_decide_eq _ _, rfl, rfl⟩

end Sys2Proof.Machine

open Sys2Proof Sys2Proof.Machine

/-- Settles O45: EVENT by its count, and an announcement by whether its fields are in range. -/
theorem eventApplied : Obligations.EventApplied := by
  refine ⟨fun s m heading => ?_, fun m j => ?_⟩
  · intro n
    rw [exec_event heading]
    obtain ⟨-, -, -, unwaited⟩ := heading
    refine ⟨fun many => ?_, fun few => ?_⟩
    · rw [applyEvent_ignored s many, State.leaveOrWait_gone unwaited]
    · exact congrArg (fun t : State => Host.Outcome.next t.leaveOrWait) (if_pos few)
  · intro w3 bad
    have dropped_iff : announcementInRange w3 ↔ ¬bad := announcementInRange_iff w3
    exact ⟨fun out => Message.announcement_dropped fun ok => dropped_iff.1 ok out,
      fun ok => Message.announcement_taken (dropped_iff.2 ok)⟩
end

section
/-! PROOFS. The end of an event (O52), at a tick or found by an announcement: what it takes from the event table and from the purchase
list. -/

namespace Sys2Proof.Machine

/-! ### The purchase unit told of an event's end (R125, R136) -/

section
variable {s : State} {id : BitVec 32} {e : PurchaseEntry}

/-- An event without a purchase entry ends with nothing to settle. -/
theorem State.endPurchase_none (c : Caller) (h : s.purchases.byEvent id = none) : s.endPurchase c id = s := by
  rw [State.endPurchase, h]

/-- A HELD entry leaves. -/
theorem State.endPurchase_held (c : Caller) (h : s.purchases.byEvent id = some e) (held : e.state = .held) :
    s.endPurchase c id = s.releaseHeld .eventEnded e := by
  rw [State.endPurchase, h]; dsimp only; rw [held]

/-- A COMMITTING entry is marked. -/
theorem State.endPurchase_committing (c : Caller) (h : s.purchases.byEvent id = some e) (committing : e.state = .committing) :
    s.endPurchase c id = { s with purchases := { s.purchases with entries := s.purchases.entries.map fun x =>
      if x.handle = e.handle then { x with endNoted := true } else x } } := by
  rw [State.endPurchase, h]; dsimp only; rw [committing]; exact State.mapPurchase_eq ..

/-- A COMMITTED entry leaves as a HELD one does, and its place is freed when its record has been acknowledged. -/
theorem State.endPurchase_committed (c : Caller) (h : s.purchases.byEvent id = some e) (committed : e.state = .committed) :
    s.endPurchase c id = { s.releaseHeld .eventEnded e with
      store := match s.freed? e with | some i => s.store.offer c (.commit i none) | none => s.store } := by
  rw [State.endPurchase, h]; dsimp only; rw [committed]
  exact State.freeIfAcked_eq c e (s.releaseHeld .eventEnded e)

end

/-- The purchase unit settles an entry without touching the event table. -/
@[simp] theorem State.endPurchase_events (c : Caller) (id : BitVec 32) (s : State) : (s.endPurchase c id).events = s.events := by
  cases h : s.purchases.byEvent id with
  | none => rw [State.endPurchase_none c h]
  | some e =>
    cases state : e.state with
    | held => rw [State.endPurchase_held c h state]; rfl
    | committing => rw [State.endPurchase_committing c h state]
    | committed => rw [State.endPurchase_committed c h state]; rfl

/-- An event's end, the two blocks apart (R99). -/
theorem State.endEvent_eq (c : Caller) (id : BitVec 32) (s : State) :
    s.endEvent c id = { s.endPurchase c id with events := s.events.remove id } := by
  rw [State.endEvent, State.endPurchase_events]

/-! ### The place freed with a COMMITTED entry (R136; log 31) -/

section
variable {s : State} {e : PurchaseEntry} {n : Nat}

theorem State.freed?_unnumbered (h : e.seq = none) : s.freed? e = none := by rw [State.freed?_eq]; dsimp only; rw [h]

/-- A record that is still in the log keeps its place. -/
theorem State.freed?_logged (h : e.seq = some n) (logged : ∃ l ∈ s.bills.log, l.record.seq = n) : s.freed? e = none := by
  obtain ⟨l, hl, same⟩ := logged
  rw [State.freed?_eq]; dsimp only; rw [h]
  exact if_neg fun acked => acked l hl same

theorem State.freed?_acked (h : e.seq = some n) (acked : ∀ l ∈ s.bills.log, l.record.seq ≠ n) : s.freed? e = s.store.placeOf n := by
  rw [State.freed?_eq]; dsimp only; rw [h]
  exact if_pos acked

end

end Sys2Proof.Machine

open Sys2Proof Sys2Proof.Machine

/-- Settles O52: EVENT_END by what is owed, and an event's end by the state of its purchase entry. -/
theorem eventsEnded : Obligations.EventsEnded := by
  refine ⟨fun s id next os owed => ?_, fun s unowed => ?_, fun s c id => ?_⟩
  · exact exec_owedPart (o := .eventEnd id next) owed rfl
  · refine exec_notOwed (o := .eventEnd 0#32 []) fun x hx row => ?_
    cases x with
    | eventEnd id next => exact unowed id next hx
    | _ => cases row
  · intro rest
    refine ⟨fun none => ?_, fun e found => ?_⟩
    · rw [State.endEvent_eq, State.endPurchase_none c none]; rfl
    · intro gone
      refine ⟨fun held => ?_, fun committing => ?_, fun committed => ?_⟩
      · rw [State.endEvent_eq, State.endPurchase_held c found held]; rfl
      · rw [State.endEvent_eq, State.endPurchase_committing c found committing]; rfl
      · rw [State.endEvent_eq, State.endPurchase_committed c found committed]
        refine ⟨fun unnumbered => ?_, fun n number logged => ?_, fun n i number acked place => ?_⟩
        · rw [State.freed?_unnumbered unnumbered]; rfl
        · rw [State.freed?_logged number logged]; rfl
        · rw [State.freed?_acked number acked, place]; rfl
end

section
/-! PROOFS. Announcements (O46): disposed of as updates, as over, by the pair they carry, or as new entries. -/

namespace Sys2Proof.Machine

/-! ### Protected and ended entries (R96) -/

theorem State.isProtected_iff (s : State) (e : EventEntry) :
    s.isProtected e = true ↔ (∃ p ∈ s.purchases.entries, p.event = e.id) ∨ 0 < e.used := by
  rw [State.isProtected, Bool.or_eq_true, decide_eq_true_iff, ← State.bought_iff, State.bought]

theorem EventUnit.hasEnded_iff (u : EventUnit) (e : EventEntry) :
    u.hasEnded e = true ↔ ∃ h, u.hotelTime = some h ∧ e.start + e.duration ≤ h := by
  unfold EventUnit.hasEnded EventUnit.reached EventEntry.endTime
  cases u.hotelTime <;> simp

/-! ### Entries changed in their places (log 25) -/

theorem EventUnit.mapId_eq (u : EventUnit) (id : BitVec 32) (f : EventEntry → EventEntry) :
    u.mapId id f = { u with entries := u.entries.map fun e => if e.id = id then f e else e } := by
  simp [EventUnit.mapId]

/-- An update takes the announcement's fields and keeps the free-look seconds and the seen mark (R101). -/
theorem State.updateEvent_eq (a : EventEntry) (s : State) : s.updateEvent a =
    { s with events := { s.events with entries := s.events.entries.map fun e =>
      if e.id = a.id then { a with used := e.used, seen := e.seen } else e } } := by
  rw [State.updateEvent, EventUnit.mapId_eq]; rfl

theorem State.replaceEvent_eq (o : BitVec 32) (a : EventEntry) (s : State) : s.replaceEvent o a =
    { s with events := { s.events with entries := s.events.entries.map fun e => if e.id = o then a else e } } := by
  rw [State.replaceEvent, EventUnit.mapId_eq]

/-! ### The first rule that applies (R101 to R104) -/

section
variable {s : State} {a o : EventEntry}

/-- An announcement of a known event ID is an update (R101). -/
theorem State.announce_known {old : EventEntry} (known : s.events.byId a.id = some old) : s.announce a = s.announceKnown a := by
  rw [State.announce, known]

theorem State.announceKnown_free (free : s.events.otherByTag a.id a.service a.tag = none) : s.announceKnown a = s.updateEvent a := by
  rw [State.announceKnown, free]

/-- The update whose pair another entry holds: that entry goes, is ended, or stands in its way. -/
theorem State.announceKnown_taken (taken : s.events.otherByTag a.id a.service a.tag = some o) : s.announceKnown a =
    if s.isProtected o = false then (s.removeEvent o.id).updateEvent a
    else if s.events.hasEnded o then (s.endEvent .head o.id).updateEvent a else s := by
  rw [State.announceKnown, taken]

/-- An announcement of a new event ID that is over is handed to the purchase unit (R102). -/
theorem State.announce_over (new : s.events.byId a.id = none) (ended : s.events.hasEnded a = true) :
    s.announce a = s.endPurchase .head a.id := by
  rw [State.announce, new]; exact if_pos ended

/-- An announcement of a new event ID whose pair an entry holds (R103). -/
theorem State.announce_reuse (new : s.events.byId a.id = none) (ahead : ¬s.events.hasEnded a = true)
    (taken : s.events.byTag a.service a.tag = some o) : s.announce a =
    if s.isProtected o = false then s.replaceEvent o.id a
    else if s.events.hasEnded o then (s.endPurchase .head o.id).replaceEvent o.id a else s := by
  rw [State.announce, new]; dsimp only; rw [if_neg ahead, taken]; rfl

/-- An announcement of a new event ID with a new pair (R104). -/
theorem State.announce_new (new : s.events.byId a.id = none) (ahead : ¬s.events.hasEnded a = true)
    (free : s.events.byTag a.service a.tag = none) : s.announce a = s.announceNew a := by
  rw [State.announce, new]; dsimp only; rw [if_neg ahead, free]

end

/-! ### The entry displaced (R104) -/

/-- The order in which entries are displaced: the latest start, and of equal starts the smallest event ID. -/
theorem displacedBefore_iff (e b : EventEntry) :
    displacedBefore e b = true ↔ b.start < e.start ∨ (b.start = e.start ∧ e.id.toNat < b.id.toNat) := by
  simp only [displacedBefore, Bool.or_eq_true, Bool.and_eq_true, decide_eq_true_iff]

theorem displacedBefore_irrefl (e : EventEntry) : displacedBefore e e = false := by
  rw [Bool.eq_false_iff, ne_eq, displacedBefore_iff]; omega

theorem displacedBefore_trans (e b c : EventEntry) (h : displacedBefore e b = true) (k : displacedBefore b c = true) :
    displacedBefore e c = true := by
  rw [displacedBefore_iff] at *; omega

theorem State.displaced_eq (s : State) : s.displaced = bestOf displacedBefore (s.events.entries.filter fun e => !s.isProtected e) := by
  unfold State.displaced bestOf
  refine congrArg (List.foldl · none _) (funext fun best => funext fun e => ?_)
  cases best <;> rfl

/-- With every entry protected none is displaced. -/
theorem State.displaced_none {s : State} (h : ∀ e ∈ s.events.entries, s.isProtected e = true) : s.displaced = none := by
  rw [State.displaced_eq, List.filter_eq_nil_iff.2]
  · rfl
  · intro e he
    rw [h e he]
    exact Bool.false_ne_true

/-- With an unprotected entry, one is displaced before which no other unprotected one is. -/
theorem State.displaced_some {s : State} (h : ∃ e ∈ s.events.entries, ¬s.isProtected e = true) :
    ∃ o ∈ s.events.entries, s.displaced = some o ∧ ¬s.isProtected o = true ∧
      ∀ e ∈ s.events.entries, ¬s.isProtected e = true → e.start < o.start ∨ (e.start = o.start ∧ o.id.toNat ≤ e.id.toNat) := by
  have candidate_iff (e : EventEntry) :
      e ∈ s.events.entries.filter (fun e => !s.isProtected e) ↔ e ∈ s.events.entries ∧ ¬s.isProtected e = true := by
    rw [List.mem_filter, Bool.not_eq_true', Bool.not_eq_true]
  obtain ⟨e, he⟩ := h
  obtain ⟨o, found, candidate, best⟩ :=
    bestOf_some displacedBefore_irrefl displacedBefore_trans (List.ne_nil_of_mem ((candidate_iff e).2 he))
  obtain ⟨listed, free⟩ := (candidate_iff o).1 candidate
  refine ⟨o, listed, s.displaced_eq.trans found, free, fun x hx unprotected => ?_⟩
  have last := best x ((candidate_iff x).2 ⟨hx, unprotected⟩)
  rw [Bool.eq_false_iff, ne_eq, displacedBefore_iff] at last
  omega

theorem State.announceNew_room {s : State} (a : EventEntry) (room : s.events.entries.length < 48) :
    s.announceNew a = { s with events := { s.events with entries := s.events.entries ++ [a] } } := if_pos room

theorem State.announceNew_full {s : State} (a : EventEntry) (full : 48 ≤ s.events.entries.length) (none : s.displaced = none) :
    s.announceNew a = s := by
  rw [State.announceNew, if_neg (Nat.not_lt.2 full : ¬s.events.entries.length < Config.maxEvents), none]

theorem State.announceNew_displaces {s : State} {o : EventEntry} (a : EventEntry) (full : 48 ≤ s.events.entries.length)
    (displaced : s.displaced = some o) : s.announceNew a = s.replaceEvent o.id a := by
  rw [State.announceNew, if_neg (Nat.not_lt.2 full : ¬s.events.entries.length < Config.maxEvents), displaced]

end Sys2Proof.Machine

open Sys2Proof Sys2Proof.Machine

/-- Settles O46: the rules in their order, each by the entry it meets. -/
theorem announcementsDisposed : Obligations.AnnouncementsDisposed := by
  intro s a isOver isProtected updated inPlaceOf
  have protected_iff (e : EventEntry) : s.isProtected e = true ↔ isProtected e := s.isProtected_iff e
  have open_iff (e : EventEntry) : s.isProtected e = false ↔ ¬isProtected e := by rw [← protected_iff, Bool.not_eq_true]
  have over_iff (e : EventEntry) : s.events.hasEnded e = true ↔ isOver e := s.events.hasEnded_iff e
  refine ⟨fun old known => ?_, fun new => ⟨fun ended => ?_, fun ahead => ?_⟩⟩
  · rw [State.announce_known known]
    refine ⟨fun free => ?_, fun o taken => ?_⟩
    · rw [State.announceKnown_free free, State.updateEvent_eq]
    · simp only [State.announceKnown_taken taken, open_iff, over_iff]
      refine ⟨fun free => ?_, fun held ended => ?_, fun held running => ?_⟩
      · rw [if_pos free, State.updateEvent_eq]; rfl
      · rw [if_neg (not_not_intro held), if_pos ended, State.updateEvent_eq, State.endEvent_eq]; rfl
      · rw [if_neg (not_not_intro held), if_neg running]
  · exact State.announce_over new ((over_iff a).2 ended)
  · have ahead' : ¬s.events.hasEnded a = true := mt (over_iff a).1 ahead
    refine ⟨fun o taken => ?_, fun free => ?_⟩
    · simp only [State.announce_reuse new ahead' taken, open_iff, over_iff]
      refine ⟨fun free => ?_, fun held ended => ?_, fun held running => ?_⟩
      · rw [if_pos free, State.replaceEvent_eq]
      · rw [if_neg (not_not_intro held), if_pos ended, State.replaceEvent_eq, State.endPurchase_events]
      · rw [if_neg (not_not_intro held), if_neg running]
    · rw [State.announce_new new ahead' free]
      refine ⟨State.announceNew_room a, fun full all => ?_, fun full open_ => ?_⟩
      · exact State.announceNew_full a full (State.displaced_none fun e he => (protected_iff e).2 (all e he))
      · simp only [← protected_iff] at open_ ⊢
        obtain ⟨o, listed, displaced, unprotected, last⟩ := State.displaced_some open_
        exact ⟨o, listed, unprotected, (State.announceNew_displaces a full displaced).trans (State.replaceEvent_eq o.id a s), last⟩
end

section
/-! PROOFS. The tick and the meter (O51): the times, the walk over the entries, the fold of a mark, and what the folds leave of the event
table, whatever commits they begin. -/

namespace Sys2Proof.Machine

/-! ### The times and the walk (R93, R94, R99) -/

/-- A count of seconds that has not passed its last value rises by one or stays there. -/
theorem nextSecond_eq_min {t : Nat} (h : t ≤ 4294967295) : nextSecond t = min 4294967295 (t + 1) := by
  have last : Config.lastSecond = 4294967295 := rfl
  unfold nextSecond
  split <;> omega

/-- The two counts of a tick. -/
theorem EventUnit.advance_eq (u : EventUnit) : u.advance = { u with
    uptime := if u.uptime < 4294967295 then u.uptime + 1 else u.uptime
    hotelTime := match u.hotelTime with | some h => some (if h < 4294967295 then h + 1 else h) | none => none } := by
  unfold EventUnit.advance
  cases u.hotelTime <;> rfl

theorem EventUnit.hasEnded_eq (u : EventUnit) (e : EventEntry) :
    u.hasEnded e = match u.hotelTime with | some h => decide (e.start + e.duration ≤ h) | none => false := by
  unfold EventUnit.hasEnded EventUnit.reached
  cases u.hotelTime <;> rfl

/-- An entry has ended by its start and duration alone. -/
theorem EventUnit.hasEnded_congr {u w : EventUnit} (time : w.hotelTime = u.hotelTime) {e f : EventEntry} (start : f.start = e.start)
    (duration : f.duration = e.duration) : w.hasEnded f = u.hasEnded e := by
  unfold EventUnit.hasEnded EventUnit.reached EventEntry.endTime
  rw [time, start, duration]

/-- With no entry ended, every mark is folded and no end is owed. -/
theorem meterPlan_none {l : List (BitVec 32 × Bool)} (h : ∀ x ∈ l, x.2 = false) : meterPlan l = (l.map (·.1), []) := by
  induction l with
  | nil => rfl
  | cons x l ih =>
    obtain ⟨id, ended⟩ := x
    have running : ended = false := h _ List.mem_cons_self
    rw [meterPlan, ih fun y hy => h y (List.mem_cons_of_mem _ hy), running]
    rfl

/-- The first entry that has ended closes the first folds, and its end opens the next. -/
theorem meterPlan_append {front : List (BitVec 32 × Bool)} (rest : List (BitVec 32 × Bool)) (id : BitVec 32)
    (h : ∀ x ∈ front, x.2 = false) :
    meterPlan (front ++ (id, true) :: rest) = (front.map (·.1) ++ [id], (id, (meterPlan rest).1) :: (meterPlan rest).2) := by
  induction front with
  | nil => rfl
  | cons x front ih =>
    obtain ⟨first, ended⟩ := x
    have running : ended = false := h _ List.mem_cons_self
    rw [List.cons_append, meterPlan, ih fun y hy => h y (List.mem_cons_of_mem _ hy), running]
    rfl

/-- The ends owed are those of the entries that have ended, in the table's order. -/
theorem meterPlan_ends (l : List (BitVec 32 × Bool)) : (meterPlan l).2.map (·.1) = (l.filter (·.2)).map (·.1) := by
  induction l with
  | nil => rfl
  | cons x l ih =>
    obtain ⟨id, ended⟩ := x
    cases ended with
    | false => exact ih
    | true => exact congrArg (id :: ·) ih

/-- What a tick owes behind the first folds. -/
def EventUnit.owedAtTick (u : EventUnit) : List Owed := (u.plan.2.map fun p => .eventEnd p.1 p.2) ++ tickParts

/-- The event whose end is owed. -/
def Owed.ends : Owed → Option (BitVec 32)
  | .eventEnd id _ => some id
  | _ => none

theorem EventUnit.owedAtTick_ends (u : EventUnit) : u.owedAtTick.filterMap Owed.ends = (u.entries.filter u.hasEnded).map (·.id) := by
  have walked (l : List (BitVec 32 × List (BitVec 32))) :
      (l.map fun p => Owed.eventEnd p.1 p.2).filterMap Owed.ends = l.map (·.1) := by
    induction l with
    | nil => rfl
    | cons p l ih => exact congrArg (p.1 :: ·) ih
  have others : tickParts.filterMap Owed.ends = [] := rfl
  rw [EventUnit.owedAtTick, List.filterMap_append, walked, others, List.append_nil, EventUnit.plan, meterPlan_ends, List.filter_map,
    List.map_map]
  rfl

/-- The other parts of a tick are owed behind the ends. -/
theorem EventUnit.owedAtTick_drop (u : EventUnit) : u.owedAtTick.drop (u.entries.filter u.hasEnded).length = tickParts := by
  have ends : u.plan.2.length = (u.entries.filter u.hasEnded).length := by
    have := congrArg List.length (meterPlan_ends (u.entries.map fun e => (e.id, u.hasEnded e)))
    rw [List.length_map, List.length_map, List.filter_map, List.length_map] at this
    exact this
  rw [EventUnit.owedAtTick, ← ends, ← List.length_map (fun p => Owed.eventEnd p.1 p.2), List.drop_left]

/-- A tick before the end of start-up does nothing (R93). -/
theorem State.takeTick_stopped {s : State} (stopped : s.events.timerRunning = false) : s.takeTick = s :=
  if_neg (by rw [stopped]; exact Bool.false_ne_true)

/-- A tick: the times, the first folds, and what is owed behind them. -/
theorem State.takeTick_running {s : State} (running : s.events.timerRunning = true) : s.takeTick =
    { ({ s with events := s.events.advance } : State).foldMarks s.events.advance.plan.1 with owed := s.events.advance.owedAtTick } :=
  if_pos running

/-! ### The fold of a mark (R97, R98, R118) -/

/-- An entry with its mark cleared. -/
def EventEntry.unmarked (e : EventEntry) : EventEntry := { e with seen := false }

/-- The mark of an event's entry cleared. -/
def State.unmark (id : BitVec 32) (s : State) : State := { s with events := s.events.mapId id EventEntry.unmarked }

theorem State.unmark_eq (id : BitVec 32) (s : State) : s.unmark id = { s with events := { s.events with
    entries := s.events.entries.map fun x => if x.id = id then { x with seen := false } else x } } := by
  rw [State.unmark, EventUnit.mapId_eq]; rfl

/-- An event that is not in the table has no mark to clear. -/
theorem State.unmark_unlisted {s : State} {id : BitVec 32} (h : s.events.byId id = none) : s.unmark id = s := by
  have unchanged : (s.events.entries.map fun x => if x.id = id then x.unmarked else x) = s.events.entries :=
    (List.map_congr_left fun x hx => if_neg ((s.events.byId_none_iff id).1 h x hx)).trans (List.map_id _)
  rw [State.unmark, EventUnit.mapId_eq, unchanged]

section
variable {s : State} {id : BitVec 32} {v : EventEntry} {e : PurchaseEntry}

theorem State.foldMark_unlisted (h : s.events.byId id = none) : s.foldMark id = s := by
  rw [State.foldMark, h]

theorem State.foldMark_unseen (h : s.events.byId id = some v) (unseen : v.seen = false) : s.foldMark id = s.unmark id := by
  rw [State.foldMark, h]; dsimp only; rw [unseen]; rfl

theorem State.foldMark_unbought (h : s.events.byId id = some v) (seen : v.seen = true) (unbought : s.purchases.byEvent id = none) :
    s.foldMark id = (s.unmark id).freeLookSecond v := by
  rw [State.foldMark, h]; dsimp only; rw [if_pos seen, unbought]; rfl

theorem State.foldMark_committing (h : s.events.byId id = some v) (bought : s.purchases.byEvent id = some e)
    (committing : e.state = .committing) : s.foldMark id = s.unmark id := by
  cases seen : v.seen with
  | false => exact State.foldMark_unseen h seen
  | true => rw [State.foldMark, h]; dsimp only; rw [if_pos seen, bought]; dsimp only; rw [committing]; rfl

theorem State.foldMark_watched (h : s.events.byId id = some v) (seen : v.seen = true) (bought : s.purchases.byEvent id = some e)
    (counted : e.state ≠ .committing) : s.foldMark id = (s.unmark id).watch e := by
  rw [State.foldMark, h]; dsimp only; rw [if_pos seen, bought]; dsimp only
  cases state : e.state with
  | committing => exact absurd state counted
  | held | committed => rfl

/-- A free-look second counts on the entry whose mark is cleared. -/
theorem State.freeLookSecond_unmark (h : s.events.byId id = some v) : (s.unmark id).freeLookSecond v =
    if s.msgs.room.state = .occupied ∧ v.freeLook = true ∧ v.used < s.msgs.policy.allowance then
      { s with events := { s.events with entries := s.events.entries.map fun x =>
        if x.id = id then { x with seen := false, used := x.used + 1 } else x } }
    else s.unmark id := by
  obtain ⟨-, rfl⟩ := EventUnit.byId_some h
  refine ite_congr rfl (fun _ => ?_) fun _ => rfl
  rw [EventUnit.mapId_eq, State.unmark_eq]
  dsimp only
  rw [List.map_map]
  refine congrArg (fun l => { s with events := { s.events with entries := l } }) (List.map_congr_left fun x _ => ?_)
  dsimp only [Function.comp_apply]
  by_cases same : x.id = v.id
  · simp only [if_pos same]
  · simp only [if_neg same]

/-- The entry's watched seconds one higher, staying at 65535 (R108). -/
def State.watched (e : PurchaseEntry) (s : State) : State := { s with purchases := { s.purchases with
  entries := s.purchases.entries.map fun x => if x.handle = e.handle then { x with watched := riseWatched e.watched } else x } }

/-- A watched second, and the commit that it begins (R118). -/
theorem State.watch_eq (e : PurchaseEntry) (s : State) : s.watch e =
    if e.state = .held ∧ s.msgs.policy.threshold ≤ riseWatched e.watched then (s.watched e).beginCommit .part e.handle
    else s.watched e := by
  rw [State.watch, State.mapPurchase_eq]; rfl

end

/-! ### The event table through a commit -/

/-- The event unit is as it was, or its free-look seconds have been cleared by an entry to VACANT (R98). -/
def LeavesEvents (s t : State) : Prop := t.events = s.events ∨ t.events = s.events.clearUsed

namespace LeavesEvents

theorem same {s t : State} (h : t.events = s.events := by rfl) : LeavesEvents s t := .inl h

theorem refl (s : State) : LeavesEvents s s := same

theorem trans {s t u : State} (h : LeavesEvents s t) (k : LeavesEvents t u) : LeavesEvents s u := by
  have once (w : EventUnit) : w.clearUsed.clearUsed = w.clearUsed := by
    unfold EventUnit.clearUsed; dsimp only; rw [List.map_map]; rfl
  unfold LeavesEvents at *
  rcases h with h | h <;> rcases k with k | k <;> rw [k, h]
  · exact .inl rfl
  · exact .inr rfl
  · exact .inr rfl
  · exact .inr (once _)

theorem fold {α : Type} {f : State → α → State} (hf : ∀ s a, LeavesEvents s (f s a)) (l : List α) (s : State) :
    LeavesEvents s (l.foldl f s) := by
  induction l generalizing s with
  | nil => exact refl s
  | cons a l ih => exact (hf s a).trans (ih _)

theorem ite {p : Prop} [Decidable p] {s t u : State} (h : LeavesEvents s t) (k : LeavesEvents s u) :
    LeavesEvents s (if p then t else u) := by
  split
  · exact h
  · exact k

variable (s : State)

theorem enterVacant (c : Caller) : LeavesEvents s (s.enterVacant c) := .inr (by rw [State.enterVacant_eq])

theorem commitEnded (c : Caller) : LeavesEvents s (s.commitEnded c) := ite (enterVacant s c) (ite (enterVacant s c) (refl s))

theorem commitFree (c : Caller) (e : PurchaseEntry) : LeavesEvents s (s.commitFree c e) := by
  have joined (u : State) (t : BitVec 32) : LeavesEvents u (u.addTitle t) :=
    ite (refl u) (trans same (fold (fun u e => same (t := u.clearCharge e)) _ _))
  have offered (u : State) (changed : Bool) : LeavesEvents u (u.offerTitlesIf c changed) := ite same (refl u)
  have mapped : LeavesEvents s (s.mapPurchase e.handle fun _ => { e with state := .committed }) := same
  exact ((mapped.trans (joined _ e.title)).trans (offered _ _)).trans same

theorem failed (c : Caller) (e : PurchaseEntry) : LeavesEvents s ((s.storeFault.failCommit e).commitEnded c) := by
  have faulted : LeavesEvents s s.storeFault := trans (t := s.faultStore) same (fold (fun u e => same (t := u.failCommit e)) _ _)
  exact (faulted.trans (u := s.storeFault.failCommit e) same).trans (commitEnded _ c)

theorem commitNumbered (c : Caller) (e : PurchaseEntry) (n : Nat) : LeavesEvents s (s.commitNumbered c e n) := by
  have offered (u : State) (r : CommitRecord) : LeavesEvents u (u.offerCommit c r) := by
    unfold State.offerCommit; split <;> exact same
  exact trans (trans same (offered { s.mapPurchase e.handle fun _ => { e with state := .committing, seq := some n } with
    bills := { s.bills with counter := some (n + 1) } } _)) same

theorem beginCommit (c : Caller) (h : Nat) : LeavesEvents s (s.beginCommit c h) := by
  have charged (e : PurchaseEntry) : LeavesEvents s (s.commitCharged c e) := by
    unfold State.commitCharged
    split
    · exact trans (t := s.failCommit e) same (commitEnded _ c)
    · exact failed s c e
    · exact ite (commitNumbered s c e _) (failed s c e)
  unfold State.beginCommit
  split
  · exact refl s
  · split
    · exact ite (commitFree s c _) (charged _)
    all_goals exact refl s

theorem watch (e : PurchaseEntry) : LeavesEvents s (s.watch e) := by
  rw [State.watch_eq]
  exact ite (trans (t := s.watched e) same (beginCommit _ _ _)) same

end LeavesEvents

/-! ### The event table through the folds -/

/-- An entry's event and its time stay as they are, and its mark is not raised. -/
structure KeepsTime (g : EventEntry → EventEntry) : Prop where
  id       : ∀ e, (g e).id = e.id
  start    : ∀ e, (g e).start = e.start
  duration : ∀ e, (g e).duration = e.duration
  seen     : ∀ e, e.seen = false → (g e).seen = false

/-- The table holds the same events at the same times, none marked anew. -/
def KeepsSchedule (u w : EventUnit) : Prop := ∃ g, KeepsTime g ∧ w.entries = u.entries.map g

namespace KeepsSchedule

theorem refl (u : EventUnit) : KeepsSchedule u u :=
  ⟨id, ⟨fun _ => rfl, fun _ => rfl, fun _ => rfl, fun _ => id⟩, (List.map_id _).symm⟩

theorem trans {u v w : EventUnit} (h : KeepsSchedule u v) (k : KeepsSchedule v w) : KeepsSchedule u w := by
  obtain ⟨g, hg, eg⟩ := h
  obtain ⟨f, hf, ef⟩ := k
  refine ⟨f ∘ g, ⟨fun e => ?_, fun e => ?_, fun e => ?_, fun e unseen => ?_⟩, by rw [ef, eg, List.map_map]⟩
  · exact (hf.id _).trans (hg.id e)
  · exact (hf.start _).trans (hg.start e)
  · exact (hf.duration _).trans (hg.duration e)
  · exact hf.seen _ (hg.seen e unseen)

/-- An entry's other items changed. -/
theorem mapId {f : EventEntry → EventEntry} (h : KeepsTime f) (u : EventUnit) (id : BitVec 32) : KeepsSchedule u (u.mapId id f) := by
  refine ⟨fun e => if e.id = id then f e else e, ⟨fun e => ?_, fun e => ?_, fun e => ?_, fun e unseen => ?_⟩, by rw [EventUnit.mapId_eq]⟩
  all_goals split
  · exact h.id e
  · rfl
  · exact h.start e
  · rfl
  · exact h.duration e
  · rfl
  · exact h.seen e unseen
  · exact unseen

theorem unmark (s : State) (id : BitVec 32) : KeepsSchedule s.events (s.unmark id).events :=
  mapId (f := EventEntry.unmarked) ⟨fun _ => rfl, fun _ => rfl, fun _ => rfl, fun _ _ => rfl⟩ s.events id

theorem clearUsed (u : EventUnit) : KeepsSchedule u u.clearUsed :=
  ⟨fun e => { e with used := 0 }, ⟨fun _ => rfl, fun _ => rfl, fun _ => rfl, fun _ => id⟩, rfl⟩

theorem of_leaves {s t : State} (h : LeavesEvents s t) : KeepsSchedule s.events t.events := by
  rcases h with h | h <;> rw [h]
  · exact refl _
  · exact clearUsed _

/-- Whatever a fold counts and begins, it keeps the schedule of the table with the mark cleared. -/
theorem foldMark (s : State) (id : BitVec 32) : KeepsSchedule (s.unmark id).events (s.foldMark id).events := by
  cases found : s.events.byId id with
  | none => rw [State.foldMark_unlisted found, State.unmark_unlisted found]; exact refl _
  | some v =>
    cases seen : v.seen with
    | false => rw [State.foldMark_unseen found seen]; exact refl _
    | true =>
      cases bought : s.purchases.byEvent id with
      | none =>
        rw [State.foldMark_unbought found seen bought]
        unfold State.freeLookSecond
        split
        · exact mapId (f := fun x => { x with used := x.used + 1 }) ⟨fun _ => rfl, fun _ => rfl, fun _ => rfl, fun _ h => h⟩ _ _
        · exact refl _
      | some e =>
        by_cases committing : e.state = .committing
        · rw [State.foldMark_committing found bought committing]; exact refl _
        · rw [State.foldMark_watched found seen bought committing]; exact of_leaves (.watch _ e)

/-- After the fold of an event's mark no entry of the event is marked. -/
theorem foldMark_clears (s : State) (id : BitVec 32) : ∀ e ∈ (s.foldMark id).events.entries, e.id = id → e.seen = false := by
  obtain ⟨g, hg, entries⟩ := foldMark s id
  rw [entries, State.unmark_eq]
  intro e he same
  obtain ⟨x, hx, rfl⟩ := List.mem_map.1 he
  obtain ⟨y, -, rfl⟩ := List.mem_map.1 hx
  refine hg.seen _ ?_
  rw [hg.id] at same
  by_cases h : y.id = id
  · rw [if_pos h]
  · rw [if_neg h] at same; exact absurd same h

theorem foldMarks (ids : List (BitVec 32)) (s : State) : KeepsSchedule s.events (s.foldMarks ids).events := by
  induction ids generalizing s with
  | nil => exact refl _
  | cons id ids ih => exact ((unmark s id).trans (foldMark s id)).trans (ih _)

/-- After the folds no event among them is marked. -/
theorem foldMarks_clears (ids : List (BitVec 32)) (s : State) :
    ∀ e ∈ (s.foldMarks ids).events.entries, e.id ∈ ids → e.seen = false := by
  induction ids generalizing s with
  | nil => intro e _ h; cases h
  | cons id ids ih =>
    intro e he listed
    rcases List.mem_cons.1 listed with same | listed
    · obtain ⟨g, hg, entries⟩ := foldMarks ids (s.foldMark id)
      rw [show (s.foldMarks (id :: ids)).events.entries = _ from entries] at he
      obtain ⟨x, hx, rfl⟩ := List.mem_map.1 he
      exact hg.seen x (foldMark_clears s id x hx ((hg.id x).symm.trans same))
    · exact ih (s.foldMark id) e he listed

/-- The entries that have ended are the same ones after the folds. -/
theorem ended {u w : EventUnit} (h : KeepsSchedule u w) (time : w.hotelTime = u.hotelTime) :
    (w.entries.filter w.hasEnded).map (·.id) = (u.entries.filter u.hasEnded).map (·.id) := by
  obtain ⟨g, hg, entries⟩ := h
  have same : w.hasEnded ∘ g = u.hasEnded := funext fun e => EventUnit.hasEnded_congr time (hg.start e) (hg.duration e)
  rw [entries, List.filter_map, same, List.map_map]
  exact List.map_congr_left fun e _ => hg.id e

end KeepsSchedule

/-! ### A tick of the running part -/

/-- The state after a tick's first folds. -/
def State.folded (s : State) : State := ({ s with events := s.events.advance } : State).foldMarks s.events.advance.plan.1

theorem State.folded_cascade (s : State) : Cascade { s with events := s.events.advance } s.folded := .foldMarks _ _

theorem State.folded_schedule (s : State) : KeepsSchedule s.events.advance s.folded.events :=
  .foldMarks _ { s with events := s.events.advance }

theorem State.folded_time (s : State) : s.folded.events.hotelTime = s.events.advance.hotelTime := s.folded_cascade.hotelTime

/-- The ends owed are those of the entries that the folds leave ended. -/
theorem State.owedAtTick_ends (s : State) : s.events.advance.owedAtTick.filterMap Owed.ends =
    (s.folded.events.entries.filter s.folded.events.hasEnded).map (·.id) := by
  rw [EventUnit.owedAtTick_ends, s.folded_schedule.ended s.folded_time]

theorem State.owedAtTick_drop (s : State) :
    s.events.advance.owedAtTick.drop (s.folded.events.entries.filter s.folded.events.hasEnded).length = tickParts := by
  have length := congrArg List.length (s.folded_schedule.ended s.folded_time)
  rw [List.length_map, List.length_map] at length
  rw [length, EventUnit.owedAtTick_drop]

/-- With no entry ended, the walk folds every entry and owes no end. -/
theorem EventUnit.plan_none {u : EventUnit} (h : ∀ e ∈ u.entries, u.hasEnded e = false) : u.plan = (u.entries.map (·.id), []) := by
  rw [EventUnit.plan, meterPlan_none, List.map_map]
  · rfl
  · intro x hx
    obtain ⟨e, he, rfl⟩ := List.mem_map.1 hx
    exact h e he

/-- With every entry folded no mark is left. -/
theorem State.folded_unseen {s : State} (h : s.events.advance.plan.1 = s.events.entries.map (·.id)) :
    ∀ e ∈ s.folded.events.entries, e.seen = false := by
  intro e he
  obtain ⟨g, hg, entries⟩ := s.folded_schedule
  refine KeepsSchedule.foldMarks_clears _ _ e he ?_
  rw [entries] at he
  obtain ⟨x, hx, rfl⟩ := List.mem_map.1 he
  rw [h, hg.id]
  exact List.mem_map_of_mem hx

end Sys2Proof.Machine

open Sys2Proof Sys2Proof.Machine

/-- Settles O51: the tick's next state, the walk, and the fold of a mark case by case; and what the folds leave of the table. -/
theorem tickAdvancesAndFolds : Obligations.TickAdvancesAndFolds := by
  have ticked (s : State) (settled : s.settled) : exec .tick s = .next s.takeTick := act_settled _ settled
  refine ⟨⟨fun s settled stopped => ?_, fun s settled running => ?_, fun l h => meterPlan_none h,
    fun front rest id h => meterPlan_append rest id h, fun s => rfl, fun s id ids => rfl, fun s settled running bounded => ?_⟩,
    fun s id v found => ?_⟩
  · rw [ticked s settled, State.takeTick_stopped stopped]
  · intro next events isOver walk
    have advanced : s.events.advance = events := s.events.advance_eq
    have ended : s.events.advance.hasEnded = isOver := by
      rw [advanced]; exact funext events.hasEnded_eq
    have plan : s.events.advance.plan = walk := by rw [EventUnit.plan, ended]; rfl
    rw [ticked s settled, State.takeTick_running running, EventUnit.owedAtTick, plan, advanced]
    rfl
  · have kept := s.folded_cascade
    refine ⟨{ s.folded with owed := s.events.advance.owedAtTick }, ?_, ?_, fun h known le => ?_, fun unknown => ?_, kept.mem, kept.path,
      kept.slots, kept.keys, kept.slates, ⟨?_, ?_⟩, fun none => ?_⟩
    · rw [ticked s settled, State.takeTick_running running]; rfl
    · exact kept.uptime.trans (nextSecond_eq_min bounded)
    · refine s.folded_time.trans ?_
      rw [EventUnit.advance, known, ← nextSecond_eq_min le]; rfl
    · refine s.folded_time.trans ?_
      rw [EventUnit.advance, unknown]; rfl
    · exact s.owedAtTick_ends
    · exact s.owedAtTick_drop
    · have running (e : EventEntry) (he : e ∈ s.events.advance.entries) : s.events.advance.hasEnded e = false := by
        rw [← none e he]; exact (EventUnit.hasEnded_congr s.folded_time rfl rfl).symm
      have plan := EventUnit.plan_none running
      refine ⟨?_, State.folded_unseen (by rw [plan]; rfl)⟩
      show s.events.advance.owedAtTick = _
      rw [EventUnit.owedAtTick, plan]; rfl
  · intro cleared s1 rise watched
    have unmarked : s.unmark id = s1 := s.unmark_eq id
    refine ⟨fun unseen => ?_, fun seen unbought => ?_,
      fun e seen bought => ⟨fun committing => ?_, fun counts => ?_, fun held reached => ?_⟩⟩
    · rw [State.foldMark_unseen found unseen, unmarked]
    · rw [State.foldMark_unbought found seen unbought, State.freeLookSecond_unmark found, unmarked]
    · rw [State.foldMark_committing found bought committing, unmarked]
    · have counted : e.state ≠ .committing := by
        rcases counts with committed | ⟨held, -⟩
        · rw [committed]; decide
        · rw [held]; decide
      have below : ¬(e.state = .held ∧ s.msgs.policy.threshold ≤ riseWatched e.watched) := fun ⟨held, reached⟩ => by
        rcases counts with committed | ⟨-, below⟩
        · rw [committed] at held; cases held
        · exact Nat.not_le.2 below reached
      rw [State.foldMark_watched found seen bought counted, State.watch_eq, unmarked]
      exact if_neg below
    · rw [State.foldMark_watched found seen bought (by rw [held]; decide), State.watch_eq, unmarked]
      exact if_pos ⟨held, reached⟩
end

section
/-! PROOFS. The charge and what is sold at it: the bounds of a charge (O37), QUOTE (O35) and PURCHASE (O36). -/

namespace Sys2Proof.Machine

/-! ### The charge (R112, R113) -/

/-- A rounded amount is the one multiple of the step that lies at or above the amount and less than a step above it (R113, step 5). -/
theorem roundUp_spec (a : Nat) {r : Nat} (pos : 0 < r) : r ∣ roundUp a r ∧ a ≤ roundUp a r ∧ roundUp a r < a + r := by
  have parts : (a + r - 1) / r * r + (a + r - 1) % r = a + r - 1 := by rw [Nat.mul_comm]; exact Nat.div_add_mod _ _
  have rest : (a + r - 1) % r < r := Nat.mod_lt _ pos
  unfold roundUp
  exact ⟨Nat.dvd_mul_left _ _, by omega, by omega⟩

section
variable {p : Policy} {titles : List (BitVec 32)} {v : EventEntry} (e : Nat)

theorem chargeOf_waived (listed : v.title ∈ titles) :
    (chargeOf p titles v e).c = 0 := if_pos (List.contains_iff_mem.2 listed)

theorem chargeOf_unlisted (unlisted : v.title ∉ titles) :
    (chargeOf p titles v e).c = min (roundUp (chargeOf p titles v e).a p.step) p.maximum :=
  if_neg fun listed => unlisted (List.contains_iff_mem.1 listed)

theorem chargeOf_lowered_iff :
    (chargeOf p titles v e).lowered = true ↔ p.maximum < roundUp (chargeOf p titles v e).a p.step := decide_eq_true_iff

theorem chargeOf_le_maximum : (chargeOf p titles v e).c ≤ p.maximum := by
  by_cases listed : v.title ∈ titles
  · rw [chargeOf_waived e listed]; exact Nat.zero_le _
  · rw [chargeOf_unlisted e listed]; exact Nat.min_le_right _ _

end

theorem flag_decide (p : Prop) [Decidable p] : flag (decide p) = if p then 1 else 0 := by
  unfold flag
  exact ite_congr decide_eq_true_eq (fun _ => rfl) fun _ => rfl

/-! ### Checks 3 to 7 of QUOTE, which are checks 4 to 7 of PURCHASE (R115, R116) -/

/-- The event a QUOTE or a PURCHASE names with the hotel time, or the answer of the first check that fails. -/
def State.saleChecked (s : State) (r : Request) : Except AnswerCode (EventEntry × Nat) :=
  match s.events.hotelTime with
  | none => .error .noTime
  | some h =>
    match s.events.byId (BitVec.ofNat 32 (r.arg 1)) with
    | none => .error .noEvent
    | some v =>
      match s.saleRefusal v h with
      | some code => .error code
      | none => .ok (v, h)

section
variable {r : Request} {s : State} {v : EventEntry} {h : Nat}

theorem State.saleChecked_timeless (unknown : s.events.hotelTime = none) : s.saleChecked r = .error .noTime := by
  unfold State.saleChecked
  rw [unknown]

theorem State.saleChecked_eventless (known : s.events.hotelTime = some h)
    (unlisted : s.events.byId (BitVec.ofNat 32 (r.arg 1)) = none) : s.saleChecked r = .error .noEvent := by
  unfold State.saleChecked
  rw [known]
  dsimp only
  rw [unlisted]

/-- Of an event in the table, what is left are whether it is for sale, whether it is over, and its rating. -/
theorem State.saleChecked_listed (known : s.events.hotelTime = some h)
    (listed : s.events.byId (BitVec.ofNat 32 (r.arg 1)) = some v) : s.saleChecked r =
      if v.purchasable = false then .error .notForSale
      else if v.duration ≤ h - v.start then .error .eventOver
      else if s.limit v.service < v.rating then .error .locked
      else .ok (v, h) := by
  unfold State.saleChecked
  rw [known]
  dsimp only
  rw [listed]
  dsimp only
  unfold State.saleRefusal
  by_cases unsold : v.purchasable = false
  · rw [if_pos unsold, if_pos unsold]
  rw [if_neg unsold, if_neg unsold]
  by_cases ended : v.duration ≤ v.elapsed h
  · rw [if_pos ended]; exact (if_pos ended).symm
  rw [if_neg ended]
  refine Eq.trans ?_ (if_neg ended).symm
  by_cases above : s.limit v.service < v.rating
  · rw [if_pos above, if_pos above]
  · rw [if_neg above, if_neg above]

theorem State.saleChecked_unsold (known : s.events.hotelTime = some h)
    (listed : s.events.byId (BitVec.ofNat 32 (r.arg 1)) = some v) (unsold : v.purchasable = false) :
    s.saleChecked r = .error .notForSale := (State.saleChecked_listed known listed).trans (if_pos unsold)

theorem State.saleChecked_ended (known : s.events.hotelTime = some h)
    (listed : s.events.byId (BitVec.ofNat 32 (r.arg 1)) = some v) (sold : v.purchasable = true)
    (ended : v.duration ≤ h - v.start) : s.saleChecked r = .error .eventOver := by
  rw [State.saleChecked_listed known listed, if_neg (by simp [sold]), if_pos ended]

theorem State.saleChecked_locked (known : s.events.hotelTime = some h)
    (listed : s.events.byId (BitVec.ofNat 32 (r.arg 1)) = some v) (sold : v.purchasable = true)
    (running : h - v.start < v.duration) (above : s.limit v.service < v.rating) : s.saleChecked r = .error .locked := by
  rw [State.saleChecked_listed known listed, if_neg (by simp [sold]), if_neg (Nat.not_le.2 running), if_pos above]

theorem State.saleChecked_ok (known : s.events.hotelTime = some h)
    (listed : s.events.byId (BitVec.ofNat 32 (r.arg 1)) = some v) (sold : v.purchasable = true)
    (running : h - v.start < v.duration) (within : v.rating ≤ s.limit v.service) : s.saleChecked r = .ok (v, h) := by
  rw [State.saleChecked_listed known listed, if_neg (by simp [sold]), if_neg (Nat.not_le.2 running), if_neg (Nat.not_lt.2 within)]

end

/-! ### QUOTE (R115) -/

/-- The six result words of a QUOTE of event `v` at hotel time `h` (R115). -/
def State.quoteWords (s : State) (v : EventEntry) (h : Nat) : List Word :=
  let ch := chargeOf s.msgs.policy s.purchases.titles v (h - v.start)
  [put 0 2 ch.c ||| put 2 1 (flag ch.waived) ||| put 3 1 (flag ch.lowered), single ch.q, single ch.b, single ch.a,
   single (h - v.start), single s.headroom]

section
variable {r : Request} {s : State}

theorem serveQuote_bad (bad : 0xFFFFFFFF < r.arg 1) : serveQuote r s = s.answer r .badArgument [] := if_pos bad

theorem serveQuote_unbound (ok : r.arg 1 ≤ 0xFFFFFFFF) (unbound : s.msgs.room.state = .unbound) :
    serveQuote r s = s.answer r .wrongState [] := by
  rw [serveQuote, if_neg (Nat.not_lt.2 ok), if_pos unbound]

/-- QUOTE in a bound room answers what the checks of the event come to. -/
theorem serveQuote_bound (ok : r.arg 1 ≤ 0xFFFFFFFF) (bound : s.msgs.room.state ≠ .unbound) :
    serveQuote r s = match s.saleChecked r with
      | .error code => s.answer r code []
      | .ok (v, h) => s.answer r .ok (s.quoteWords v h) := by
  rw [serveQuote, if_neg (Nat.not_lt.2 ok), if_neg bound, State.saleChecked]
  cases s.events.hotelTime with
  | none => rfl
  | some h =>
    dsimp only
    cases s.events.byId (BitVec.ofNat 32 (r.arg 1)) with
    | none => rfl
    | some v =>
      dsimp only
      cases s.saleRefusal v h <;> rfl

theorem serveQuote_refused {code : AnswerCode} (ok : r.arg 1 ≤ 0xFFFFFFFF) (bound : s.msgs.room.state ≠ .unbound)
    (refused : s.saleChecked r = .error code) : serveQuote r s = s.answer r code [] := by
  rw [serveQuote_bound ok bound, refused]

theorem serveQuote_sold {v : EventEntry} {h : Nat} (ok : r.arg 1 ≤ 0xFFFFFFFF) (bound : s.msgs.room.state ≠ .unbound)
    (sold : s.saleChecked r = .ok (v, h)) : serveQuote r s = s.answer r .ok (s.quoteWords v h) := by
  rw [serveQuote_bound ok bound, sold]

end

/-! ### PURCHASE (R116, R117) -/

section
variable {r : Request} {s : State}

theorem servePurchase_bad (bad : 0xFFFFFFFF < r.arg 1) : servePurchase r s = s.answer r .badArgument [] := if_pos bad

theorem servePurchase_suspended (ok : r.arg 1 ≤ 0xFFFFFFFF) (suspended : s.msgs.room.suspended = true) :
    servePurchase r s = s.answer r .suspended [] := by
  rw [servePurchase, if_neg (Nat.not_lt.2 ok), if_pos suspended]

theorem servePurchase_outside (ok : r.arg 1 ≤ 0xFFFFFFFF) (active : s.msgs.room.suspended = false)
    (outside : s.msgs.room.state ≠ .occupied) : servePurchase r s = s.answer r .wrongState [] := by
  rw [servePurchase, if_neg (Nat.not_lt.2 ok), if_neg (Bool.eq_false_iff.1 active), if_pos outside]

/-- PURCHASE in an OCCUPIED room that is not suspended goes on with what the checks of the event come to. -/
theorem servePurchase_occupied (ok : r.arg 1 ≤ 0xFFFFFFFF) (active : s.msgs.room.suspended = false)
    (occupied : s.msgs.room.state = .occupied) : servePurchase r s =
      match s.saleChecked r with
      | .error code => s.answer r code []
      | .ok (v, h) => s.purchaseEvent r v h := by
  rw [servePurchase, if_neg (Nat.not_lt.2 ok), if_neg (Bool.eq_false_iff.1 active), if_neg (not_not_intro occupied), State.saleChecked]
  cases s.events.hotelTime with
  | none => rfl
  | some h =>
    dsimp only
    cases s.events.byId (BitVec.ofNat 32 (r.arg 1)) with
    | none => rfl
    | some v =>
      dsimp only
      cases s.saleRefusal v h <;> rfl

theorem servePurchase_refused {code : AnswerCode} (ok : r.arg 1 ≤ 0xFFFFFFFF) (active : s.msgs.room.suspended = false)
    (occupied : s.msgs.room.state = .occupied) (refused : s.saleChecked r = .error code) :
    servePurchase r s = s.answer r code [] := by
  rw [servePurchase_occupied ok active occupied, refused]

theorem servePurchase_sold {v : EventEntry} {h : Nat} (ok : r.arg 1 ≤ 0xFFFFFFFF) (active : s.msgs.room.suspended = false)
    (occupied : s.msgs.room.state = .occupied) (sold : s.saleChecked r = .ok (v, h)) :
    servePurchase r s = s.purchaseEvent r v h := by
  rw [servePurchase_occupied ok active occupied, sold]

end

section
variable {r : Request} {s : State} {v : EventEntry} {h : Nat}

theorem State.purchaseEvent_bought {e : PurchaseEntry} (bought : s.purchases.byEvent v.id = some e) :
    s.purchaseEvent r v h = s.answer r .alreadyBought [single e.handle] := by
  unfold State.purchaseEvent
  rw [bought]

theorem State.purchaseEvent_full (unbought : s.purchases.byEvent v.id = none) (full : 8 ≤ s.purchases.entries.length) :
    s.purchaseEvent r v h = s.answer r .listFull [] := by
  unfold State.purchaseEvent
  rw [unbought]
  exact if_pos full

theorem State.purchaseEvent_unbillable (unbought : s.purchases.byEvent v.id = none) (room : s.purchases.entries.length < 8)
    (unbillable : s.store.state = .faulted ∨ 32 ≤ s.billsToCome) :
    s.purchaseEvent r v h = s.answer r .billingUnavailable [] := by
  unfold State.purchaseEvent
  rw [unbought]
  exact (if_neg (Nat.not_le.2 room)).trans (if_pos unbillable)

/-- With room in the list and in the log, what is left is the stay cap (R116, check 12). -/
theorem State.purchaseEvent_billable (unbought : s.purchases.byEvent v.id = none) (room : s.purchases.entries.length < 8)
    (good : s.store.state = .good) (few : s.billsToCome < 32) : s.purchaseEvent r v h =
      let c := (chargeOf s.msgs.policy s.purchases.titles v (h - v.start)).c
      if s.msgs.room.cap < s.msgs.room.spent + s.purchases.held + c then s.answer r .overCap [single c, single s.headroom]
      else (s.takePurchase v c h).answerPurchase r c (s.firstHandle 255 s.purchases.nextHandle) := by
  have billable : ¬(s.store.state = .faulted ∨ 32 ≤ s.billsToCome) := by rw [good]; simpa using few
  unfold State.purchaseEvent
  rw [unbought]
  exact (if_neg (Nat.not_le.2 room)).trans (if_neg billable)

end

/-- The headroom that is left by a purchase: its charge is held with the rest (R111). -/
theorem State.takePurchase_headroom (s : State) (v : EventEntry) (c h : Nat) :
    (s.takePurchase v c h).headroom = s.msgs.room.cap - (s.msgs.room.spent + s.purchases.held + c) := by
  have held : (s.takePurchase v c h).purchases.held = s.purchases.held + c := by
    unfold State.takePurchase PurchaseUnit.held
    rw [List.map_append, List.sum_append]
    rfl
  rw [State.headroom, held, Nat.add_assoc]
  rfl

/-! ### The handle of a purchase (R109) -/

/-- Which handle is given does not depend on the own read. -/
theorem State.firstHandle_fetchDone (s : State) (fuel h : Nat) : s.fetchDone.firstHandle fuel h = s.firstHandle fuel h := by
  induction fuel generalizing h with
  | zero => rfl
  | succ fuel ih => exact ite_congr rfl (fun _ => ih _) fun _ => rfl

/-- The handle `n` places after `h`, passing from 255 to 1. -/
def handleOn (h n : Nat) : Nat := (h - 1 + n) % 255 + 1

theorem handleOn_zero {h : Nat} (low : 1 ≤ h) (high : h ≤ 255) : handleOn h 0 = h := by
  unfold handleOn
  omega

theorem handleOn_handleAfter {h : Nat} (low : 1 ≤ h) (high : h ≤ 255) (n : Nat) :
    handleOn (handleAfter h) n = handleOn h (n + 1) := by
  unfold handleOn handleAfter
  split <;> omega

theorem handleAfter_range (h : Nat) : 1 ≤ handleAfter h ∧ handleAfter h ≤ 255 := by
  unfold handleAfter
  split <;> omega

/-- The search comes to the first handle that is not in use, where it goes on long enough to meet one. -/
theorem State.firstHandle_first {s : State} {fuel h : Nat} (low : 1 ≤ h) (high : h ≤ 255)
    (met : ∃ n, n < fuel ∧ s.handleInUse (handleOn h n) = false) : ∃ n, n < fuel ∧ s.firstHandle fuel h = handleOn h n ∧
      s.handleInUse (handleOn h n) = false ∧ ∀ m, m < n → s.handleInUse (handleOn h m) = true := by
  induction fuel generalizing h with
  | zero =>
    obtain ⟨n, far, -⟩ := met
    exact absurd far (Nat.not_lt_zero n)
  | succ fuel ih =>
    have start := handleOn_zero low high
    have next := handleOn_handleAfter low high
    cases first : s.handleInUse h with
    | false =>
      have here : s.firstHandle (fuel + 1) h = h := if_neg (Bool.eq_false_iff.1 first)
      exact ⟨0, Nat.succ_pos _, here.trans start.symm, start.symm ▸ first, fun m less => absurd less (Nat.not_lt_zero m)⟩
    | true =>
      have on : s.firstHandle (fuel + 1) h = s.firstHandle fuel (handleAfter h) := if_pos first
      obtain ⟨low', high'⟩ := handleAfter_range h
      have later : ∃ n, n < fuel ∧ s.handleInUse (handleOn (handleAfter h) n) = false := by
        obtain ⟨n, far, unused⟩ := met
        cases n with
        | zero =>
          rw [start, first] at unused
          cases unused
        | succ n => exact ⟨n, Nat.lt_of_succ_lt_succ far, (next n).symm ▸ unused⟩
      obtain ⟨n, far, found, unused, used⟩ := ih low' high' later
      refine ⟨n + 1, Nat.succ_lt_succ far, by rw [on, found, next], next n ▸ unused, fun m less => ?_⟩
      cases m with
      | zero => exact start.symm ▸ first
      | succ m => exact next m ▸ used m (Nat.lt_of_succ_lt_succ less)

/-- Each handle is less than 255 places after each. -/
theorem handleOn_reaches {h k : Nat} (low : 1 ≤ h) (high : h ≤ 255) (low' : 1 ≤ k) (high' : k ≤ 255) :
    ∃ n, n < 255 ∧ handleOn h n = k := by
  refine ⟨(k + 255 - h) % 255, Nat.mod_lt _ (by decide), ?_⟩
  unfold handleOn
  omega

/-- The handle given is the first that is not in use, counting up from the next-handle value, when there is one. -/
theorem State.firstHandle_spec {s : State} {h k : Nat} (low : 1 ≤ h) (high : h ≤ 255) (low' : 1 ≤ k) (high' : k ≤ 255)
    (unused : s.handleInUse k = false) : ∃ n, n < 255 ∧ s.firstHandle 255 h = handleOn h n ∧
      s.handleInUse (handleOn h n) = false ∧ ∀ m, m < n → s.handleInUse (handleOn h m) = true := by
  obtain ⟨n, near, reached⟩ := handleOn_reaches low high low' high'
  exact State.firstHandle_first low high ⟨n, near, reached.symm ▸ unused⟩

end Sys2Proof.Machine

open Sys2Proof Sys2Proof.Machine

/-- Settles O37: steps 5 to 7 of R113 by whether the title is listed and whether the maximum lowers the charge. -/
theorem chargeWithinBounds : Obligations.ChargeWithinBounds := by
  intro p titles v e pos ch
  obtain ⟨divides, above, near⟩ := roundUp_spec ch.a pos
  refine ⟨chargeOf_le_maximum e, chargeOf_waived e, fun late => ?_, fun grace => if_pos grace, fun unlisted lowered => ?_,
    fun unlisted kept => ?_⟩
  · exact Nat.le_trans (Nat.le_max_left _ _) (Nat.le_of_eq (if_neg (Nat.not_le.2 late)).symm)
  · exact (chargeOf_unlisted e unlisted).trans (Nat.min_eq_right (Nat.le_of_lt ((chargeOf_lowered_iff e).1 lowered)))
  · have within : roundUp ch.a p.step ≤ p.maximum :=
      Nat.not_lt.1 fun exceeds => Bool.eq_false_iff.1 kept ((chargeOf_lowered_iff e).2 exceeds)
    rw [show ch.c = roundUp ch.a p.step from (chargeOf_unlisted e unlisted).trans (Nat.min_eq_left within)]
    exact ⟨divides, above, near⟩

/-- Settles O35: the room, then the checks of the event in their order, and the words of one that can be bought. -/
theorem quoteServed : Obligations.QuoteServed := by
  intro s r serving
  have served : exec .quote s = .next (serveQuote r s.fetchDone) := act_serving serveQuote serving
  refine ⟨fun bad => served.trans (congrArg _ (serveQuote_bad bad)),
    fun ok unbound => served.trans (congrArg _ (serveQuote_unbound ok unbound)), fun ok bound => ?_⟩
  have refused {code : AnswerCode} (failed : s.fetchDone.saleChecked r = .error code) :
      exec .quote s = .next (s.replied r code []) := served.trans (congrArg _ (serveQuote_refused ok bound failed))
  refine ⟨fun unknown => refused (State.saleChecked_timeless unknown), fun h known => ?_⟩
  refine ⟨fun unlisted => refused (State.saleChecked_eventless known unlisted), fun v listed => ?_⟩
  refine ⟨fun unsold => refused (State.saleChecked_unsold known listed unsold),
    fun sold ended => refused (State.saleChecked_ended known listed sold ended),
    fun sold running above => refused (State.saleChecked_locked known listed sold running above), fun sold running within => ?_⟩
  have checked : s.fetchDone.saleChecked r = .ok (v, h) := State.saleChecked_ok known listed sold running within
  rw [served, serveQuote_sold (s := s.fetchDone) ok bound checked, State.quoteWords, chargeOf, flag_decide]
  rfl

/-- Settles O36: the room, the checks of the event, and then the list, the store and the log, and the cap; and the search for the
handle. -/
theorem purchaseServed : Obligations.PurchaseServed := by
  refine ⟨fun s r serving => ?_, fun s low high ⟨k, low', high', unused⟩ => ?_⟩
  · have served : exec .purchase s = .next (servePurchase r s.fetchDone) := act_serving servePurchase serving
    refine ⟨fun bad => served.trans (congrArg _ (servePurchase_bad bad)), fun ok => ?_⟩
    refine ⟨fun suspended => served.trans (congrArg _ (servePurchase_suspended ok suspended)),
      fun active outside => served.trans (congrArg _ (servePurchase_outside ok active outside)), fun active occupied => ?_⟩
    have refused {code : AnswerCode} (failed : s.fetchDone.saleChecked r = .error code) :
        exec .purchase s = .next (s.replied r code []) :=
      served.trans (congrArg _ (servePurchase_refused ok active occupied failed))
    refine ⟨fun unknown => refused (State.saleChecked_timeless unknown), fun h known => ?_⟩
    refine ⟨fun unlisted => refused (State.saleChecked_eventless known unlisted), fun v listed => ?_⟩
    refine ⟨fun unsold => refused (State.saleChecked_unsold known listed unsold),
      fun sold ended => refused (State.saleChecked_ended known listed sold ended),
      fun sold running above => refused (State.saleChecked_locked known listed sold running above), fun sold running within => ?_⟩
    have checked : s.fetchDone.saleChecked r = .ok (v, h) := State.saleChecked_ok known listed sold running within
    rw [served, servePurchase_sold (s := s.fetchDone) ok active occupied checked]
    refine ⟨fun e bought => congrArg _ (State.purchaseEvent_bought bought), fun unbought => ?_⟩
    intro toCome c total handle entry answer after
    refine ⟨fun full => congrArg _ (State.purchaseEvent_full unbought full),
      fun room unbillable => congrArg _ (State.purchaseEvent_unbillable unbought room unbillable), fun room good few => ?_⟩
    rw [State.purchaseEvent_billable (s := s.fetchDone) unbought room good few]
    refine ⟨fun above => congrArg _ (if_pos above), fun under => congrArg _ ((if_neg (Nat.not_lt.2 under)).trans ?_)⟩
    rw [State.answerPurchase, State.takePurchase_headroom, State.takePurchase, State.firstHandle_fetchDone]
    rfl
  · obtain ⟨n, near, found, free, used⟩ := State.firstHandle_spec low high low' high' unused
    refine ⟨?_, ?_, found ▸ free, n, near, found, used⟩
    · rw [found, handleOn]; omega
    · rw [found, handleOn]; omega
end

section
/-! PROOFS. CANCEL (O38), and what LIST_PURCHASES, BILL_INFO and STATUS report (O39). -/

namespace Sys2Proof.Machine

/-! ### CANCEL (R124) -/

/-- What a list of entries holds without one of them. -/
theorem heldSum_without {l : List PurchaseEntry} (distinct : (l.map (·.handle)).Nodup) {e : PurchaseEntry} (listed : e ∈ l) :
    heldSum (l.filter (·.handle != e.handle)) + e.heldCharge = heldSum l := by
  induction l with
  | nil => cases listed
  | cons x l ih =>
    rw [List.map_cons, List.nodup_cons] at distinct
    obtain ⟨new, distinct⟩ := distinct
    have sum (m : List PurchaseEntry) : heldSum (x :: m) = x.heldCharge + heldSum m := rfl
    rcases List.mem_cons.1 listed with rfl | behind
    · have others : l.filter (·.handle != e.handle) = l := List.filter_eq_self.2 fun y hy => bne_iff_ne.2 fun same =>
        new (same ▸ List.mem_map_of_mem hy)
      rw [List.filter_cons_of_neg (by simp), others, sum, Nat.add_comm]
    · have other : x.handle ≠ e.handle := fun same => new (same ▸ List.mem_map_of_mem behind)
      rw [List.filter_cons_of_pos (by simpa using other), sum, sum, Nat.add_assoc, ih distinct behind]

/-- A HELD entry's leaving takes its charge off the held total (R111). -/
theorem PurchaseUnit.remove_held {p : PurchaseUnit} {e : PurchaseEntry} (distinct : p.handlesDistinct) (listed : e ∈ p.entries)
    (held : e.state = .held) : (p.remove e.handle).held = p.held - e.charge := by
  have charge : e.heldCharge = e.charge := by unfold PurchaseEntry.heldCharge; rw [held]
  have total : (p.remove e.handle).held + e.heldCharge = p.held := heldSum_without distinct listed
  omega

section
variable {r : Request} {s : State} {e : PurchaseEntry}

theorem serveCancel_bad (bad : r.arg 1 = 0 ∨ 255 < r.arg 1) : serveCancel r s = s.answer r .badArgument [] := if_pos bad

theorem serveCancel_unfound (low : 1 ≤ r.arg 1) (high : r.arg 1 ≤ 255) (unfound : s.purchases.byHandle (r.arg 1) = none) :
    serveCancel r s = s.answer r .notFound [] := by
  rw [serveCancel, if_neg (by omega), unfound]

theorem serveCancel_late (low : 1 ≤ r.arg 1) (high : r.arg 1 ≤ 255) (found : s.purchases.byHandle (r.arg 1) = some e)
    (late : e.state ≠ .held) : serveCancel r s = s.answer r .tooLate [single e.state.code] := by
  rw [serveCancel, if_neg (by omega), found]
  dsimp only
  cases state : e.state with
  | held => exact absurd state late
  | committing => rfl
  | committed => rfl

theorem serveCancel_held (low : 1 ≤ r.arg 1) (high : r.arg 1 ≤ 255) (found : s.purchases.byHandle (r.arg 1) = some e)
    (held : e.state = .held) : serveCancel r s =
      (s.releaseHeld .cancelled e).answer r .ok [single e.charge, single (s.purchases.remove e.handle).held] := by
  rw [serveCancel, if_neg (by omega), found]
  dsimp only
  rw [held]
  rfl

end

/-! ### LIST_PURCHASES (R128) -/

/-- Of a list whose handles are distinct, an entry's place is where its handle is found first. -/
theorem findIdx_handle {l : List PurchaseEntry} {e : PurchaseEntry} {i : Nat} (distinct : (l.map (·.handle)).Nodup)
    (place : l[i]? = some e) : l.findIdx (·.handle == e.handle) = i := by
  induction l generalizing i with
  | nil => cases place
  | cons x l ih =>
    rw [List.map_cons, List.nodup_cons] at distinct
    obtain ⟨new, distinct⟩ := distinct
    cases i with
    | zero =>
      have first : x = e := Option.some.inj place
      rw [List.findIdx_cons, first, beq_self_eq_true]
      rfl
    | succ i =>
      have behind : l[i]? = some e := place
      have other : (x.handle == e.handle) = false :=
        beq_eq_false_iff_ne.2 fun same => new (same ▸ List.mem_map_of_mem (List.mem_of_getElem? behind))
      rw [List.findIdx_cons, other, ih distinct behind]
      rfl

/-- The entry at a place of a list whose handles are distinct is found by its handle. -/
theorem PurchaseUnit.byHandle_place {p : PurchaseUnit} {e : PurchaseEntry} {i : Nat} (distinct : p.handlesDistinct)
    (place : p.entries[i]? = some e) : p.byHandle e.handle = some e := by
  have listed : e ∈ p.entries := List.mem_of_getElem? place
  cases found : p.byHandle e.handle with
  | none => exact absurd (BEq.rfl) (List.find?_eq_none.1 found e listed)
  | some x =>
    obtain ⟨there, same⟩ := PurchaseUnit.byHandle_some found
    rw [eq_of_handle distinct there listed same]

section
variable {r : Request} {s : State}

theorem serveListPurchases_bad (bad : 255 < r.arg 1) : serveListPurchases r s = s.answer r .badArgument [] := if_pos bad

theorem serveListPurchases_list (all : r.arg 1 = 0) : serveListPurchases r s = s.answer r .ok
    [put 0 1 s.purchases.entries.length ||| put 4 4 s.purchases.held,
     single (entryBytes (·.handle) s.purchases.entries),
     single (entryBytes (fun e => e.state.code + 128 * e.origin.code) s.purchases.entries),
     single s.msgs.room.spent, single s.msgs.room.cap, single s.purchases.titles.length] := by
  rw [serveListPurchases, if_neg (by omega), if_pos all]

theorem serveListPurchases_unfound (low : 1 ≤ r.arg 1) (high : r.arg 1 ≤ 255)
    (unfound : s.purchases.byHandle (r.arg 1) = none) : serveListPurchases r s = s.answer r .notFound [] := by
  rw [serveListPurchases, if_neg (by omega), if_neg (by omega), unfound]

theorem serveListPurchases_found {e : PurchaseEntry} (low : 1 ≤ r.arg 1) (high : r.arg 1 ≤ 255)
    (found : s.purchases.byHandle (r.arg 1) = some e) : serveListPurchases r s = s.answer r .ok
      [put 0 4 e.event.toNat ||| put 4 4 e.title.toNat,
       put 0 1 e.state.code ||| put 1 1 e.origin.code ||| put 2 1 (flag e.endNoted),
       put 0 2 e.charge ||| put 2 1 (flag e.seq.isSome) ||| put 4 4 (e.seq.getD 0),
       single e.watched, single e.taken, single (s.purchases.entries.findIdx (·.handle == e.handle))] := by
  rw [serveListPurchases, if_neg (by omega), if_neg (by omega), found]

end

/-! ### BILL_INFO and STATUS (R146, R175) -/

theorem LogRecord.isDue_eq (l : LogRecord) : l.isDue = decide (l.offer = .due) := by
  rw [Bool.eq_iff_iff, l.isDue_iff, decide_eq_true_iff]

/-- The COMMIT places holding records, place by place (R146; log 39). -/
theorem Store.commitPlacesInUse_eq (st : Store) : st.commitPlacesInUse =
    (List.finRange 48).countP fun i => match st.places.commits[i] with
      | .holds _ => true
      | _ => false := by
  refine (countP_toList st.places.commits _).trans (List.countP_congr fun i _ => ?_)
  cases st.places.commits[i] <;> exact Iff.rfl

/-- Of a store that the scan found unreadable no COMMIT place is reported in use (R144, R146). -/
theorem State.commitPlaces_eq (s : State) :
    s.commitPlaces = if s.req.bringUp = some .storeFault then 0 else s.store.commitPlacesInUse := by
  unfold State.commitPlaces
  split
  · next lost => rw [if_pos lost]
  · next other => rw [if_neg other]

theorem SlotTable.allValidTags_eq (t : SlotTable) :
    t.allValidTags = t.validTags 0 + t.validTags 1 + t.validTags 2 + t.validTags 3 := by
  have rings : List.finRange 4 = [0, 1, 2, 3] := rfl
  simp only [SlotTable.allValidTags, rings, List.map_cons, List.map_nil, List.sum_cons, List.sum_nil]
  omega

/-- The seconds a lockout still runs (R80, R175). -/
theorem State.lockoutRemaining_eq (s : State) :
    s.lockoutRemaining = match s.lock.lockout with | some e => e - s.events.uptime | none => 0 := by
  unfold State.lockoutRemaining
  cases s.lock.lockout <;> rfl

end Sys2Proof.Machine

open Sys2Proof Sys2Proof.Machine

/-- Settles O38: the handle's range, then the entry it finds by its state. -/
theorem cancelServed : Obligations.CancelServed := by
  intro s r serving
  have served : exec .cancel s = .next (serveCancel r s.fetchDone) := act_serving serveCancel serving
  refine ⟨fun bad => served.trans (congrArg _ (serveCancel_bad bad)),
    fun low high unfound => served.trans (congrArg _ (serveCancel_unfound low high unfound)),
    fun e low high found => ⟨fun late => ?_, fun held distinct => ?_⟩⟩
  · exact served.trans (congrArg _ (serveCancel_late low high found late))
  · obtain ⟨listed, -⟩ := PurchaseUnit.byHandle_some found
    rw [served, serveCancel_held (s := s.fetchDone) low high found held,
      PurchaseUnit.remove_held (p := s.fetchDone.purchases) distinct listed held]
    rfl

/-- Settles O39: the checks of LIST_PURCHASES, and the words of each report in the terms of the tables they count. -/
theorem reportsServed : Obligations.ReportsServed := by
  refine ⟨fun s r serving => ?_, fun s r serving => ?_, fun s r b serving code => ?_⟩
  · have served : exec .listPurchases s = .next (serveListPurchases r s.fetchDone) := act_serving serveListPurchases serving
    refine ⟨fun bad => served.trans (congrArg _ (serveListPurchases_bad bad)),
      fun all => served.trans (congrArg _ (serveListPurchases_list all)),
      fun low high unfound => served.trans (congrArg _ (serveListPurchases_unfound low high unfound)),
      fun e i low high distinct handle place => ?_⟩
    have found : s.fetchDone.purchases.byHandle (r.arg 1) = some e := handle ▸ PurchaseUnit.byHandle_place distinct place
    have index : s.fetchDone.purchases.entries.findIdx (·.handle == e.handle) = i := findIdx_handle distinct place
    rw [served, serveListPurchases_found low high found, index]
    rfl
  · have served : exec .billInfo s = .next (serveBillInfo r s.fetchDone) := act_serving serveBillInfo serving
    have due : LogRecord.isDue = fun l => decide (l.offer = .due) := funext LogRecord.isDue_eq
    have offered : (fun l : LogRecord => !l.isDue) = fun l => decide (l.offer ≠ .due) := by
      funext l
      rw [LogRecord.isDue_eq, decide_not]
    rw [served, serveBillInfo, State.commitPlaces_eq, Store.commitPlacesInUse_eq, offered, due]
    rfl
  · have served : exec .status s = .next (serveStatus r s.fetchDone) := act_serving serveStatus serving
    have bringUp : s.fetchDone.req.bringUp = some b := code
    rw [served, serveStatus, bringUp, SlotTable.allValidTags_eq, State.lockoutRemaining_eq]
    rfl
end

section
/-! PROOFS. The commit of a purchase: how it begins (O54), and how it completes when its COMMIT write has verified (O55). -/

namespace Sys2Proof.Machine

/-- The entry with its commit made (R120, R121). -/
def PurchaseEntry.committed (e : PurchaseEntry) : PurchaseEntry := { e with state := .committed }

/-! ### A title that joins (R110, R123) -/

theorem PurchaseEntry.heldTitle_iff (t : BitVec 32) (e : PurchaseEntry) : e.heldTitle t = true ↔ e.state = .held ∧ e.title = t := by
  simp [PurchaseEntry.heldTitle]

theorem State.addTitle_listed {s : State} {t : BitVec 32} (listed : t ∈ s.purchases.titles) : s.addTitle t = s :=
  if_pos (List.contains_iff_mem.2 listed)

theorem joinTitle_new {t : BitVec 32} {l : List (BitVec 32)} (new : t ∉ l) :
    joinTitle t l = if l.length < 16 then l ++ [t] else l.drop 1 ++ [t] :=
  if_neg fun listed => new (List.contains_iff_mem.1 listed)

theorem joinTitle_listed {t : BitVec 32} {l : List (BitVec 32)} (listed : t ∈ l) : joinTitle t l = l :=
  if_pos (List.contains_iff_mem.2 listed)

/-- A HELD entry's charge is cleared by the title of `e`, if that is new to the list (R123; log 20). -/
def PurchaseUnit.clearedBy (p : PurchaseUnit) (e x : PurchaseEntry) : Bool :=
  !p.titles.contains e.title && x.state == .held && x.title == e.title

theorem PurchaseUnit.clearedBy_listed {p : PurchaseUnit} {e : PurchaseEntry} (listed : e.title ∈ p.titles) :
    p.clearedBy e = fun _ => false := by
  funext x
  rw [PurchaseUnit.clearedBy, List.contains_iff_mem.2 listed]
  rfl

theorem PurchaseUnit.clearedBy_new {p : PurchaseUnit} {e : PurchaseEntry} (new : e.title ∉ p.titles) :
    p.clearedBy e = fun x => decide (x.state = .held ∧ x.title = e.title) := by
  funext x
  rw [PurchaseUnit.clearedBy, Bool.eq_false_iff.2 fun listed => new (List.contains_iff_mem.1 listed), Bool.decide_and]
  rfl

section
variable {s : State} {e : PurchaseEntry}

/-- Handles stay distinct when an entry is COMMITTED. -/
theorem State.committed_distinct (distinct : s.purchases.handlesDistinct) :
    (s.mapPurchase e.handle fun _ => e.committed).purchases.handlesDistinct := by
  have handles : (s.mapPurchase e.handle fun _ => e.committed).purchases.entries.map (·.handle) =
      s.purchases.entries.map (·.handle) := by
    rw [State.mapPurchase_eq, List.map_map]
    refine List.map_congr_left fun x _ => ?_
    rw [Function.comp_apply]
    split
    · next same => exact same.symm
    · rfl
  unfold PurchaseUnit.handlesDistinct
  rw [handles]
  exact distinct

/-- A title new to the list joins with the entry COMMITTED already: the charges it clears are those of the other HELD entries that carry
it. -/
theorem State.addTitle_committed (distinct : s.purchases.handlesDistinct) (new : e.title ∉ s.purchases.titles) :
    (s.mapPurchase e.handle fun _ => e.committed).addTitle e.title = { s with
      purchases := { s.purchases with
        entries := s.purchases.entries.map fun x =>
          if x.handle = e.handle then e.committed else if x.state = .held ∧ x.title = e.title then x.waived else x
        titles := joinTitle e.title s.purchases.titles }
      req := { s.req with
        notices := waivedNotices
          (s.purchases.entries.filter fun x => x.handle ≠ e.handle ∧ x.state = .held ∧ x.title = e.title) s.req.notices } } := by
  have kept : ¬e.committed.heldTitle e.title = true := fun held => by cases ((PurchaseEntry.heldTitle_iff _ _).1 held).1
  have entries : (s.purchases.entries.map fun x => if x.handle = e.handle then e.committed else x).map
        (fun x => if x.heldTitle e.title then x.waived else x) =
      s.purchases.entries.map fun x =>
        if x.handle = e.handle then e.committed else if x.state = .held ∧ x.title = e.title then x.waived else x := by
    rw [List.map_map]
    refine List.map_congr_left fun x _ => ?_
    rw [Function.comp_apply]
    by_cases same : x.handle = e.handle
    · rw [if_pos same, if_pos same, if_neg kept]
    · rw [if_neg same, if_neg same]
      exact ite_congr (propext (x.heldTitle_iff e.title)) (fun _ => rfl) fun _ => rfl
  have cleared : (s.purchases.entries.map fun x => if x.handle = e.handle then e.committed else x).filter (·.heldTitle e.title) =
      s.purchases.entries.filter fun x => x.handle ≠ e.handle ∧ x.state = .held ∧ x.title = e.title := by
    induction s.purchases.entries with
    | nil => rfl
    | cons x l ih =>
      rw [List.map_cons]
      by_cases same : x.handle = e.handle
      · rw [if_pos same, List.filter_cons_of_neg kept, ih, List.filter_cons_of_neg (by simp [same])]
      · rw [if_neg same, List.filter_cons, List.filter_cons, ih]
        exact ite_congr (by rw [x.heldTitle_iff]; simp [same]) (fun _ => rfl) fun _ => rfl
  have absent : ¬(s.mapPurchase e.handle fun _ => e.committed).purchases.titles.contains e.title = true :=
    fun listed => new (List.contains_iff_mem.1 listed)
  rw [State.addTitle_eq e.title _ (State.committed_distinct distinct), if_neg absent, State.mapPurchase_eq]
  dsimp only
  rw [entries, cleared]

end

/-! ### A commit begins (R118 to R120) -/

section
variable {s : State} {c : Caller} {h : Nat} {e : PurchaseEntry}

theorem State.beginCommit_held (found : s.purchases.byHandle h = some e) (held : e.state = .held) :
    s.beginCommit c h = if e.charge = 0 then s.commitFree c e else s.commitCharged c e := by
  unfold State.beginCommit
  rw [found]
  dsimp only
  rw [held]

theorem State.offerTitlesIf_false (s : State) (c : Caller) : s.offerTitlesIf c false = s := rfl

/-- A commit at no charge of a title in the list (R120; log 20). -/
theorem State.commitFree_listed (listed : e.title ∈ s.purchases.titles) : s.commitFree c e =
    (s.mapPurchase e.handle fun _ => e.committed).raise (.purchase e.handle e.event .committed .committed e.charge e.seq) := by
  have there : (!s.purchases.titles.contains e.title) = false := by simp [listed]
  rw [State.commitFree, State.addTitle_listed (s := s.mapPurchase e.handle _) listed, there, State.offerTitlesIf_false]
  rfl

/-- A commit at no charge of a title new to the list (R110, R120, R123). -/
theorem State.commitFree_new (free : e.charge = 0) (new : e.title ∉ s.purchases.titles) : s.commitFree c e =
    let t := (s.mapPurchase e.handle fun _ => e.committed).addTitle e.title
    (t.offer c (.titles (some t.purchases.titles))).raise (.purchase e.handle e.event .committed .committed 0 e.seq) := by
  have absent : (!s.purchases.titles.contains e.title) = true := by simp [new]
  have notice : e.committed.notice .committed .committed = .purchase e.handle e.event .committed .committed 0 e.seq := by
    rw [PurchaseEntry.notice, show e.committed.charge = 0 from free]
    rfl
  rw [State.commitFree, absent, ← notice]
  rfl

/-- The state in which the commit of an entry has its number, before its two writes are offered (R119, R137). -/
def State.numbered (e : PurchaseEntry) (n : Nat) (s : State) : State :=
  { s.mapPurchase e.handle fun _ => { e with state := .committing, seq := some n } with
    bills := { s.bills with counter := some (n + 1) } }

theorem State.commitCharged_numbered {n : Nat} (good : s.store.state = .good) (counter : s.bills.counter = some n)
    (left : n < 4294967280) : s.commitCharged c e =
      ((s.numbered e n).offerCommit c ((s.numbered e n).commitRecord e n)).raise
        (.purchase e.handle e.event .committing .commitBegun e.charge (some n)) := by
  unfold State.commitCharged
  rw [good, counter]
  exact if_pos left

theorem State.commitCharged_faulted (faulted : s.store.state = .faulted) : s.commitCharged c e = (s.failCommit e).commitEnded c := by
  unfold State.commitCharged
  rw [faulted]

theorem State.commitCharged_exhausted {n : Nat} (good : s.store.state = .good) (counter : s.bills.counter = some n)
    (exhausted : 4294967280 ≤ n) : s.commitCharged c e = (s.storeFault.failCommit e).commitEnded c := by
  unfold State.commitCharged
  rw [good, counter]
  exact if_neg (Nat.not_lt.2 exhausted)

theorem State.offerCommit_free {r : CommitRecord} {i : Fin 48} (unheld : s.purchases.heldPairs = []) (free : s.store.freePlace = some i) :
    s.offerCommit c r = { s with store := s.store.offerPair c (.room (some s.roomRecord)) (.commit i (some r)) } := by
  unfold State.offerCommit
  rw [unheld, List.isEmpty_nil, if_pos rfl, free]

theorem State.offerCommit_held {r : CommitRecord} (full : s.purchases.heldPairs ≠ [] ∨ s.store.freePlace = none) :
    s.offerCommit c r = { s with purchases := { s.purchases with heldPairs := s.purchases.heldPairs ++ [r] } } := by
  have unplaced : (if s.purchases.heldPairs.isEmpty then s.store.freePlace else none) = none := by
    rcases full with held | none
    · exact if_neg fun empty => held (List.isEmpty_iff.1 empty)
    · rw [none, ite_self]
  unfold State.offerCommit
  rw [unplaced]

end

/-! ### A commit that fails (R122, R134, R137) -/

theorem RequestUnit.writesLost_notices (q : RequestUnit) : (q.writeEnded false).writeJoined.notices = q.notices := by
  rw [RequestUnit.writesLost_eq]
  split <;> rfl

/-- The commit of an entry that fails behind those that an exhausted counter makes fail (R122, R137; log 32). -/
theorem State.storeFault_failCommit {s : State} {e : PurchaseEntry} (distinct : s.purchases.handlesDistinct) :
    s.storeFault.failCommit e = { s with
      store := { s.store with state := .faulted, queue := [], line := [] }
      purchases := { s.purchases with
        entries := s.purchases.entries.filter fun x => x.state ≠ .committing ∧ x.handle ≠ e.handle, heldPairs := [] }
      msgs := if s.msgs.headApplied then { s.msgs with intake := s.msgs.intake.drop 1, headApplied := false } else s.msgs
      req := { (s.req.writeEnded false).writeJoined with
        notices := raiseIn (.purchase e.handle e.event .gone .storeFault e.charge e.seq)
          (goneNotices .storeFault (s.purchases.entries.filter fun x => x.state = .committing) s.req.notices) } } := by
  have remaining : (s.purchases.entries.filter (·.state != .committing)).filter (·.handle != e.handle) =
      s.purchases.entries.filter fun x => x.state ≠ .committing ∧ x.handle ≠ e.handle := by
    rw [List.filter_filter]
    refine List.filter_congr fun x _ => ?_
    rw [Bool.decide_and, decide_not, decide_not, Bool.and_comm]
    rfl
  rw [State.storeFault, State.failCommitting_eq s.faultStore distinct, ← remaining, ← s.req.writesLost_notices]
  rfl

/-- The end of a commit changes nothing, or the room enters VACANT. -/
theorem State.commitEnded_cases (s : State) (c : Caller) : s.commitEnded c = s ∨ s.commitEnded c = s.enterVacant c := by
  by_cases drains : s.drainsAtCommitEnd
  · exact .inr ((s.commitEnded_spec c).1 drains)
  · exact .inl ((s.commitEnded_spec c).2 drains)

theorem State.StoreLost.failCommit {s : State} {p : Places} (h : s.StoreLost p) (e : PurchaseEntry) : (s.failCommit e).StoreLost p :=
  ⟨h.store, fun x hx => h.ended x (List.mem_filter.1 hx).1⟩

theorem State.failCommit_others (s : State) (e : PurchaseEntry) : ∀ x ∈ (s.failCommit e).purchases.entries, x.handle ≠ e.handle :=
  fun _ hx => bne_iff_ne.1 (List.mem_filter.1 hx).2

theorem State.storeFault_bills (s : State) : s.storeFault.bills = s.bills := by
  rw [State.storeFault, State.failCommitting, State.foldl_failCommit]
  rfl

/-- What an exhausted counter leaves, whether or not the room drains behind it. -/
theorem State.storeFault_commitEnded (s : State) (c : Caller) (e : PurchaseEntry) :
    let t := (s.storeFault.failCommit e).commitEnded c
    t.StoreLost s.store.places ∧ t.bills = s.bills ∧ ∀ x ∈ t.purchases.entries, x.handle ≠ e.handle := by
  intro t
  have lost : t.StoreLost s.store.places := (s.storeFault_lost.failCommit e).commitEnded c
  have bills : (s.storeFault.failCommit e).bills = s.bills := s.storeFault_bills
  rcases (s.storeFault.failCommit e).commitEnded_cases c with stays | leaves
  · exact ⟨lost, by rw [show t = _ from stays, bills], by rw [show t = _ from stays]; exact State.failCommit_others _ e⟩
  · rw [State.enterVacant_eq] at leaves
    exact ⟨lost, by rw [show t = _ from leaves]; exact bills, by rw [show t = _ from leaves]; intro x hx; cases hx⟩

/-! ### A commit completes (R121) -/

/-- The record of a commit logged, its entry COMMITTED with its title in the list, the writes offered and the notice raised (R121). -/
def State.commitDone (r : CommitRecord) (e : PurchaseEntry) (s : State) : State :=
  (((((s.logRecord r).spend e.charge).mapPurchase e.handle fun _ => e.committed).addTitle e.title).offerRoom
    .part).offerTitlesIf .part (!s.purchases.titles.contains e.title) |>.raise
      (.purchase e.handle e.event .committed .committed e.charge e.seq)

section
variable {s : State} {r : CommitRecord} {e : PurchaseEntry}

theorem State.completeCommit_found (found : s.purchases.committing r.seq = some e) : s.completeCommit r =
    (if e.endNoted then (s.commitDone r e).retireCommitted .part .eventEnded e.committed
      else s.commitDone r e).commitEnded .part := by
  unfold State.completeCommit
  rw [found]
  rfl

theorem State.commitDone_listed (listed : e.title ∈ s.purchases.titles) : s.commitDone r e = { s with
    bills := { s.bills with log := s.bills.log ++ [⟨r, .due, false⟩] }
    purchases := { s.purchases with
      entries := s.purchases.entries.map fun x => if x.handle = e.handle then e.committed else x }
    msgs := { s.msgs with room := { s.msgs.room with spent := s.msgs.room.spent + e.charge } }
    store := s.store.offer .part (.room (some { s.roomRecord with spent := s.msgs.room.spent + e.charge }))
    req := { s.req with
      notices := raiseIn (.purchase e.handle e.event .committed .committed e.charge e.seq) s.req.notices } } := by
  have there : (!s.purchases.titles.contains e.title) = false := by simp [listed]
  let logged : State := ((s.logRecord r).spend e.charge).mapPurchase e.handle fun _ => e.committed
  rw [State.commitDone, State.addTitle_listed (s := logged) listed, there, State.offerTitlesIf_false]
  exact congrArg (fun t : State => (t.offerRoom .part).raise _) (State.mapPurchase_eq _ _ _)

theorem State.commitDone_new (distinct : s.purchases.handlesDistinct) (committing : e.state = .committing)
    (there : e ∈ s.purchases.entries)
    (new : e.title ∉ s.purchases.titles) : s.commitDone r e = { s with
      bills := { s.bills with log := s.bills.log ++ [⟨r, .due, false⟩] }
      purchases := { s.purchases with
        entries := s.purchases.entries.map fun x =>
          if x.handle = e.handle then e.committed
          else if x.state = .held ∧ x.title = e.title then x.waived else x
        titles := joinTitle e.title s.purchases.titles }
      msgs := { s.msgs with room := { s.msgs.room with spent := s.msgs.room.spent + e.charge } }
      store := (s.store.offer .part (.room (some { s.roomRecord with spent := s.msgs.room.spent + e.charge }))).offer .part
        (.titles (some (joinTitle e.title s.purchases.titles)))
      req := { s.req with
        notices := raiseIn (.purchase e.handle e.event .committed .committed e.charge e.seq)
          (waivedNotices (s.purchases.entries.filter fun x => x.state = .held ∧ x.title = e.title) s.req.notices) } } := by
  have absent : (!s.purchases.titles.contains e.title) = true := by simp [new]
  have others : (s.purchases.entries.filter fun x => x.handle ≠ e.handle ∧ x.state = .held ∧ x.title = e.title) =
      s.purchases.entries.filter fun x => x.state = .held ∧ x.title = e.title := by
    refine List.filter_congr fun x hx => decide_eq_decide.2 ⟨And.right, fun held => ⟨fun same => ?_, held⟩⟩
    rw [eq_of_handle distinct hx there same, committing] at held
    cases held.1
  rw [State.commitDone, State.addTitle_committed (s := (s.logRecord r).spend e.charge) distinct new, absent, ← others]
  rfl

/-- The state of a commit done, whether or not the entry's title is new to the list (R121, R123, R138; log 20, log 30). -/
theorem State.commitDone_eq (distinct : s.purchases.handlesDistinct) (committing : e.state = .committing)
    (there : e ∈ s.purchases.entries) :
    s.commitDone r e =
      let titles := joinTitle e.title s.purchases.titles
      let store := s.store.offer .part (.room (some { s.roomRecord with spent := s.msgs.room.spent + e.charge }))
      { s with
        bills := { s.bills with log := s.bills.log ++ [⟨r, .due, false⟩] }
        purchases := { s.purchases with
          entries := s.purchases.entries.map fun x =>
            if x.handle = e.handle then e.committed else if s.purchases.clearedBy e x then x.waived else x
          titles := titles }
        msgs := { s.msgs with room := { s.msgs.room with spent := s.msgs.room.spent + e.charge } }
        store := if !s.purchases.titles.contains e.title then store.offer .part (.titles (some titles)) else store
        req := { s.req with
          notices := raiseIn (.purchase e.handle e.event .committed .committed e.charge e.seq)
            (waivedNotices (s.purchases.entries.filter (s.purchases.clearedBy e)) s.req.notices) } } := by
  by_cases listed : e.title ∈ s.purchases.titles
  · have none : s.purchases.entries.filter (fun _ => false) = [] := List.filter_eq_nil_iff.2 fun _ _ => Bool.false_ne_true
    rw [State.commitDone_listed listed, PurchaseUnit.clearedBy_listed listed, joinTitle_listed listed, List.contains_iff_mem.2 listed,
      none]
    rfl
  · have entries : (fun x : PurchaseEntry => if x.handle = e.handle then e.committed
        else if s.purchases.clearedBy e x then x.waived else x) =
        fun x => if x.handle = e.handle then e.committed else if x.state = .held ∧ x.title = e.title then x.waived else x := by
      rw [PurchaseUnit.clearedBy_new listed]
      simp only [decide_eq_true_eq]
    rw [State.commitDone_new distinct committing there listed, entries, PurchaseUnit.clearedBy_new listed,
      Bool.eq_false_iff.2 fun there => listed (List.contains_iff_mem.1 there)]
    rfl

/-- A COMMITTED entry whose record stands in the log leaves the list: nothing is freed (R125, R136). -/
theorem State.retireCommitted_logged {c : Caller} {reason : Reason} {n : Nat} (number : e.seq = some n)
    (logged : ∃ l ∈ s.bills.log, l.record.seq = n) :
    s.retireCommitted c reason e = (s.removePurchase e.handle).raise (e.notice .gone reason) := by
  have unacked : s.isAcked n = false := by
    obtain ⟨l, hl, same⟩ := logged
    exact List.all_eq_false.2 ⟨l, hl, by simp [same]⟩
  unfold State.retireCommitted State.freeIfAcked
  rw [number]
  exact if_neg (Bool.eq_false_iff.1 unacked)

/-- An entry whose commit has completed leaves the list when its event has ended, and stays otherwise (R121, R125). -/
theorem State.leaveIfEnded_eq {n : Nat} (number : e.seq = some n) (logged : ∃ l ∈ s.bills.log, l.record.seq = n) :
    (if e.endNoted then s.retireCommitted .part .eventEnded e.committed else s) = { s with
      purchases := { s.purchases with
        entries := if e.endNoted then s.purchases.entries.filter (·.handle != e.handle) else s.purchases.entries }
      req := { s.req with
        notices := if e.endNoted then raiseIn (.purchase e.handle e.event .gone .eventEnded e.charge e.seq) s.req.notices
          else s.req.notices } } := by
  rw [State.retireCommitted_logged (e := e.committed) number logged]
  cases e.endNoted <;> rfl

end

end Sys2Proof.Machine

open Sys2Proof Sys2Proof.Machine

/-- Settles O54: the free commit by whether its title is listed, the charged one by the store and the counter. -/
theorem commitBegins : Obligations.CommitBegins := by
  intro s c h e found held become noticed
  obtain ⟨there, handle⟩ := PurchaseUnit.byHandle_some found
  subst handle
  have free (waived : e.charge = 0) : s.beginCommit c e.handle = s.commitFree c e :=
    (State.beginCommit_held found held).trans (if_pos waived)
  have charged (priced : e.charge ≠ 0) : s.beginCommit c e.handle = s.commitCharged c e :=
    (State.beginCommit_held found held).trans (if_neg priced)
  refine ⟨fun waived listed => ?_, fun waived new distinct => ?_,
    fun n priced good counter left => ⟨fun i unheld place => ?_, fun full => ?_⟩,
    fun priced faulted => ?_, fun n priced good counter exhausted distinct => ?_, fun n priced good counter exhausted => ?_⟩
  · rw [free waived, State.commitFree_listed listed, State.mapPurchase_eq]
    rfl
  · intro titles notices
    rw [free waived, State.commitFree_new waived new, State.addTitle_committed distinct new, joinTitle_new new]
    rfl
  · rw [charged priced, State.commitCharged_numbered good counter left, State.offerCommit_free (s := s.numbered e n) unheld place,
      State.numbered, State.mapPurchase_eq]
    rfl
  · rw [charged priced, State.commitCharged_numbered good counter left, State.offerCommit_held (s := s.numbered e n) full,
      State.numbered, State.mapPurchase_eq]
    rfl
  · rw [charged priced, State.commitCharged_faulted faulted]
    exact (s.failCommit e).commitEnded_spec c
  · intro lost failed notices t
    have left : s.storeFault.failCommit e = t :=
      (State.storeFault_failCommit distinct).trans (State.with_req (s.req.writesLost_noticed _))
    rw [charged priced, State.commitCharged_exhausted good counter exhausted, left]
    exact t.commitEnded_spec c
  · obtain ⟨lost, bills, others⟩ := s.storeFault_commitEnded c e
    rw [charged priced, State.commitCharged_exhausted good counter exhausted]
    exact ⟨lost.store, bills, fun x hx => ⟨lost.ended x hx, others x hx⟩⟩

/-- Settles O55: the record logged and the entry COMMITTED, by whether the title is listed; then the entry's leaving and the drain. -/
theorem commitCompletes : Obligations.CommitCompletes := by
  intro s q queue i r e settled first write unacked found distinct isNew waived become titles store store1 cleared committed gone t
  obtain ⟨there, committing, number⟩ := PurchaseUnit.committing_some found
  let written : State := { s with store := store }
  have verified : exec (.storeWriteComplete .verified) s = .next (written.completeCommit r) := by
    rw [exec_storeWrite _ settled, State.completeWrite_verified first, State.writeDone, write]
    exact congrArg _ (if_neg (Bool.eq_false_iff.1 unacked))
  have left : written.completeCommit r = t.commitEnded .part := by
    rw [State.completeCommit_found (s := written) found, State.commitDone_eq (s := written) distinct committing there,
      State.leaveIfEnded_eq number ⟨_, List.mem_append_right _ List.mem_cons_self, rfl⟩]
    rfl
  rw [verified, left]
  exact ⟨fun drains => congrArg _ ((t.commitEnded_spec .part).1 drains), fun stays => congrArg _ ((t.commitEnded_spec .part).2 stays)⟩
end

section
/-! PROOFS. The law of the bill log (R138) through everything that a purchase, a commit, a store write, an event or the drain can lead to:
what keeps it because the log and the records to come only become fewer, and the two operations that add to them. -/

namespace Sys2Proof.Machine

/-! ### The law without the handles -/

/-- An entry is COMMITTING under the number of a record. -/
def State.commits (s : State) (r : CommitRecord) : Prop := ∃ e ∈ s.purchases.entries, e.state = .committing ∧ e.seq = some r.seq

/-- The number of entries that hold a charge (R116, check 10). -/
def chargedCount (l : List PurchaseEntry) : Nat := l.countP fun e => decide (0 < e.heldCharge)

/-- What the law says of an entry. -/
def PurchaseEntry.Lawful (e : PurchaseEntry) : Prop :=
  (e.state = .committing → e.charge ≠ 0) ∧ (e.state ≠ .committed → e.origin = .taken)

/-- What `State.BillsSound` says of the log, the counter and the entries beside the handles, for the records `coming` behind the log. -/
structure State.BooksHold (coming : List CommitRecord) (s : State) : Prop where
  rising     : (s.bills.log.map (·.record.seq) ++ coming.map (·.seq)).Pairwise (· < ·)
  below      : ∀ r ∈ s.bills.log.map (·.record) ++ coming, ∃ n, s.bills.counter = some n ∧ r.seq < n
  behind     : ∀ r ∈ coming, s.commits r
  committing : ∀ e ∈ s.purchases.entries, e.Lawful
  few32      : s.bills.log.length + chargedCount s.purchases.entries ≤ Config.maxBills

/-- It holds for the records to come. -/
abbrev State.BillLaw (s : State) : Prop := s.BooksHold s.recordsToCome

theorem State.billsSound_iff (s : State) : s.BillsSound ↔ s.HandlesSound ∧ s.BillLaw :=
  ⟨fun h => ⟨h.toHandlesSound, h.rising, h.below, h.behind, h.committing, h.few32⟩,
    fun ⟨h, w⟩ => ⟨h, w.rising, w.below, w.behind, w.committing, w.few32⟩⟩

/-- With no entry COMMITTING, no record is to come. -/
theorem State.BillLaw.nothingToCome {s : State} (h : s.BillLaw) (ended : ∀ e ∈ s.purchases.entries, e.state ≠ .committing) :
    s.recordsToCome = [] := by
  refine List.eq_nil_iff_forall_not_mem.2 fun r coming => ?_
  obtain ⟨e, he, committing, -⟩ := h.behind r coming
  exact ended e he committing

/-- An entry that is not COMMITTED was taken, not rebuilt (R108, R129). -/
theorem State.BillLaw.rebuilt_committed {s : State} (h : s.BillLaw) {e : PurchaseEntry} (he : e ∈ s.purchases.entries)
    (rebuilt : e.origin = .rebuilt) : e.state = .committed := by
  refine Decidable.byContradiction fun other => ?_
  rw [(h.committing e he).2 other] at rebuilt
  cases rebuilt

/-! ### Charges held by the entries -/

theorem PurchaseEntry.heldCharge_committed {e : PurchaseEntry} (h : e.state = .committed) : e.heldCharge = 0 := by
  simp [PurchaseEntry.heldCharge, h]

theorem PurchaseEntry.heldCharge_committing {e : PurchaseEntry} (h : e.state = .committing) : e.heldCharge = e.charge := by
  simp [PurchaseEntry.heldCharge, h]

/-- What an operation may not change in an entry that it does not commit: handle, state, charge and origin. -/
def PurchaseEntry.standing (e : PurchaseEntry) : Nat × PurchaseState × Nat × Origin := (e.handle, e.state, e.charge, e.origin)

/-- An entry `x` stands as `y` did, or is COMMITTED. -/
def PurchaseEntry.Follows (x y : PurchaseEntry) : Prop := x.state = .committed ∨ x.standing = y.standing

theorem PurchaseEntry.Follows.lawful {x y : PurchaseEntry} (h : x.Follows y) (lawful : y.Lawful) : x.Lawful := by
  rcases h with committed | same
  · unfold PurchaseEntry.Lawful
    rw [committed]
    exact ⟨PurchaseState.noConfusion, fun other => absurd rfl other⟩
  · obtain ⟨-, state, charge, origin⟩ := by simpa only [PurchaseEntry.standing, Prod.mk.injEq] using same
    unfold PurchaseEntry.Lawful
    rw [state, charge, origin]
    exact lawful

theorem PurchaseEntry.Follows.heldCharge {x y : PurchaseEntry} (h : x.Follows y) : 0 < x.heldCharge → 0 < y.heldCharge := by
  rcases h with committed | same
  · rw [x.heldCharge_committed committed]
    exact fun none => absurd none (Nat.lt_irrefl 0)
  · obtain ⟨-, state, charge, -⟩ := by simpa only [PurchaseEntry.standing, Prod.mk.injEq] using same
    unfold PurchaseEntry.heldCharge
    rw [state, charge]
    exact id

/-- Entries each changed to stand as they did or be COMMITTED: no more of them hold a charge. -/
theorem chargedCount_map {f : PurchaseEntry → PurchaseEntry} {l : List PurchaseEntry} (h : ∀ e ∈ l, (f e).Follows e) :
    chargedCount (l.map f) ≤ chargedCount l := by
  unfold chargedCount
  rw [List.countP_map]
  exact List.countP_mono_left fun e he holds => decide_eq_true ((h e he).heldCharge (of_decide_eq_true holds))

/-- One of them held a charge and is COMMITTED: fewer of them hold one. -/
theorem chargedCount_map_lt {f : PurchaseEntry → PurchaseEntry} {l : List PurchaseEntry} (h : ∀ e ∈ l, (f e).Follows e)
    {x : PurchaseEntry} (hx : x ∈ l) (charged : 0 < x.heldCharge) (committed : (f x).state = .committed) :
    chargedCount (l.map f) < chargedCount l := by
  obtain ⟨front, back, rfl⟩ := List.append_of_mem hx
  have none : chargedCount [f x] = 0 := by simp [chargedCount, (f x).heldCharge_committed committed]
  have one : chargedCount [x] = 1 := by simp [chargedCount, charged]
  have split (a b : List PurchaseEntry) (y : PurchaseEntry) :
      chargedCount (a ++ y :: b) = chargedCount a + (chargedCount [y] + chargedCount b) := by
    unfold chargedCount
    rw [List.countP_append, ← List.singleton_append, List.countP_append]
  have fewer (part : List PurchaseEntry) (within : ∀ e ∈ part, e ∈ front ++ x :: back) :
      chargedCount (part.map f) ≤ chargedCount part :=
    chargedCount_map fun e he => h e (within e he)
  have := fewer front fun e he => List.mem_append_left _ he
  have := fewer back fun e he => List.mem_append_right _ (List.mem_cons_of_mem _ he)
  rw [List.map_append, List.map_cons, split, split, none, one]
  omega

/-! ### What leaves no more in the books than there was -/

/-- The log and the records to come only become fewer, and what is COMMITTING under their numbers stays so; an entry that stays stands
as it did or is COMMITTED; and no more entries hold a charge. -/
structure BillsEase (s t : State) : Prop where
  log     : (t.bills.log.map (·.record)).Sublist (s.bills.log.map (·.record))
  toCome  : t.recordsToCome.Sublist s.recordsToCome
  behind  : ∀ r ∈ t.recordsToCome, s.commits r → t.commits r
  entries : ∀ x ∈ t.purchases.entries, ∃ y ∈ s.purchases.entries, x.Follows y
  charged : chargedCount t.purchases.entries ≤ chargedCount s.purchases.entries

/-- The counter keeps its value or rises (R137). -/
def CounterRises (s t : State) : Prop := ∀ n, s.bills.counter = some n → ∃ n', t.bills.counter = some n' ∧ n ≤ n'

theorem CounterRises.stands {s t : State} (h : t.bills.counter = s.bills.counter := by rfl) : CounterRises s t :=
  fun n given => ⟨n, h.trans given, Nat.le_refl n⟩

/-- So the law is kept while the counter does not fall. -/
theorem State.BillLaw.ease {s t : State} (w : s.BillLaw) (h : BillsEase s t) (counter : CounterRises s t) : t.BillLaw where
  rising := by
    have seqs (u : State) : u.bills.log.map (·.record.seq) ++ u.recordsToCome.map (·.seq) =
        (u.bills.log.map (·.record) ++ u.recordsToCome).map (·.seq) := by rw [List.map_append, List.map_map]; rfl
    have kept := w.rising
    rw [seqs] at kept ⊢
    exact kept.sublist ((h.log.append h.toCome).map _)
  below := fun r hr => by
    obtain ⟨n, given, less⟩ := w.below r ((h.log.append h.toCome).subset hr)
    obtain ⟨n', given', le⟩ := counter n given
    exact ⟨n', given', Nat.lt_of_lt_of_le less le⟩
  behind := fun r hr => h.behind r hr (w.behind r (h.toCome.subset hr))
  committing := fun x hx => by
    obtain ⟨y, hy, follows⟩ := h.entries x hx
    exact follows.lawful (w.committing y hy)
  few32 := by
    have shorter := h.log.length_le
    rw [List.length_map, List.length_map] at shorter
    have := h.charged
    have := w.few32
    omega

/-- Freeing writes offered one after another add no new record. -/
theorem Store.foldl_freeing_newRecords (c : Caller) (l : List (Fin 48)) (st : Store) :
    (l.foldl (fun st i => st.offer c (.commit i none)) st).newRecords.Sublist st.newRecords := by
  induction l generalizing st with
  | nil => exact .refl _
  | cons i l ih => exact (ih _).trans (st.offer_newRecords c _ rfl)

namespace BillsEase

/-- The log's records, the entries and the held pairs as they were, no new record added to the store. -/
theorem of_store {s t : State} (log : t.bills.log.map (·.record) = s.bills.log.map (·.record))
    (entries : t.purchases.entries = s.purchases.entries) (held : t.purchases.heldPairs = s.purchases.heldPairs)
    (records : t.store.newRecords.Sublist s.store.newRecords) : BillsEase s t where
  log := log ▸ .refl _
  toCome := by
    rw [State.recordsToCome_eq, State.recordsToCome_eq, held]
    exact records.append (.refl _)
  behind := fun r _ ⟨e, he, c⟩ => ⟨e, entries ▸ he, c⟩
  entries := fun x hx => ⟨x, entries ▸ hx, .inr rfl⟩
  charged := Nat.le_of_eq (by rw [entries])

/-- The books as they were. -/
theorem same {s t : State} (h : (t.bills.log, t.purchases.entries, t.purchases.heldPairs, t.store) =
    (s.bills.log, s.purchases.entries, s.purchases.heldPairs, s.store) := by rfl) : BillsEase s t := by
  obtain ⟨log, entries, held, store⟩ := by simpa only [Prod.mk.injEq] using h
  exact of_store (by rw [log]) entries held (store ▸ .refl _)

theorem refl (s : State) : BillsEase s s := same

theorem trans {s t u : State} (h : BillsEase s t) (k : BillsEase t u) : BillsEase s u where
  log := k.log.trans h.log
  toCome := k.toCome.trans h.toCome
  behind := fun r hr c => k.behind r hr (h.behind r (k.toCome.subset hr) c)
  entries := fun x hx => by
    obtain ⟨y, hy, committed | same⟩ := k.entries x hx
    · obtain ⟨z, hz, -⟩ := h.entries y hy
      exact ⟨z, hz, .inl committed⟩
    · obtain ⟨z, hz, committed | same'⟩ := h.entries y hy
      · refine ⟨z, hz, .inl ?_⟩
        rw [← committed]
        exact congrArg (·.2.1) same
      · exact ⟨z, hz, .inr (same.trans same')⟩
  charged := Nat.le_trans k.charged h.charged

theorem ite {p : Prop} [Decidable p] {s t u : State} (h : BillsEase s t) (k : BillsEase s u) : BillsEase s (if p then t else u) := by
  split
  · exact h
  · exact k

/-- No entry COMMITTING, and no record to come, after. -/
theorem of_ended {s t : State} (log : (t.bills.log.map (·.record)).Sublist (s.bills.log.map (·.record))) (coming : t.recordsToCome = [])
    (entries : t.purchases.entries.Sublist s.purchases.entries) : BillsEase s t where
  log := log
  toCome := coming ▸ List.nil_sublist _
  behind := fun r hr => by rw [coming] at hr; cases hr
  entries := fun x hx => ⟨x, entries.subset hx, .inr rfl⟩
  charged := entries.countP_le

variable (s : State)

theorem offer (c : Caller) {w : StoreWrite} (h : w.newRecord? = none) : BillsEase s (s.offer c w) :=
  of_store rfl rfl rfl (s.store.offer_newRecords c w h)

theorem offerRoom (c : Caller) : BillsEase s (s.offerRoom c) := offer s c rfl

theorem raise (n : Notice) : BillsEase s (s.raise n) := same

/-- Entries each changed to stand as they did or be COMMITTED, those that are COMMITTING staying so under their numbers. -/
theorem mapEntries {f : PurchaseEntry → PurchaseEntry} (follows : ∀ e ∈ s.purchases.entries, (f e).Follows e)
    (committing : ∀ e ∈ s.purchases.entries, e.state = .committing → (f e).state = .committing ∧ (f e).seq = e.seq) :
    BillsEase s { s with purchases := { s.purchases with entries := s.purchases.entries.map f } } where
  log := .refl _
  toCome := .refl _
  behind := fun _ _ ⟨e, he, c, number⟩ =>
    ⟨f e, List.mem_map_of_mem he, (committing e he c).1, (committing e he c).2.trans number⟩
  entries := fun x hx => by
    obtain ⟨y, hy, rfl⟩ := List.mem_map.1 hx
    exact ⟨y, hy, follows y hy⟩
  charged := chargedCount_map follows

/-- The entry of a handle changed so. -/
theorem mapPurchase (h : Nat) {f : PurchaseEntry → PurchaseEntry}
    (follows : ∀ e ∈ s.purchases.entries, e.handle = h → (f e).Follows e)
    (committing : ∀ e ∈ s.purchases.entries, e.handle = h → e.state = .committing →
      (f e).state = .committing ∧ (f e).seq = e.seq) : BillsEase s (s.mapPurchase h f) := by
  rw [State.mapPurchase_eq]
  refine mapEntries s (fun e he => ?_) (fun e he c => ?_)
  · split
    · next at_ => exact follows e he at_
    · exact .inr rfl
  · split
    · next at_ => exact committing e he at_ c
    · exact ⟨c, rfl⟩

/-- Entries off the list, none of them COMMITTING. -/
theorem filterEntries (p : PurchaseEntry → Bool) (set : List Notice)
    (committing : ∀ e ∈ s.purchases.entries, e.state = .committing → p e = true) :
    BillsEase s { s with
      purchases := { s.purchases with entries := s.purchases.entries.filter p }
      req := { s.req with notices := set } } where
  log := .refl _
  toCome := .refl _
  behind := fun _ _ ⟨e, he, c, number⟩ => ⟨e, List.mem_filter.2 ⟨he, committing e he c⟩, c, number⟩
  entries := fun x hx => ⟨x, (List.mem_filter.1 hx).1, .inr rfl⟩
  charged := List.filter_sublist.countP_le

/-- An entry that is not COMMITTING off the list, with its notice. -/
theorem releaseHeld (r : Reason) (e : PurchaseEntry)
    (other : ∀ x ∈ s.purchases.entries, x.state = .committing → x.handle ≠ e.handle) :
    BillsEase s (s.releaseHeld r e) :=
  filterEntries s (·.handle != e.handle) _ fun x hx c => bne_iff_ne.2 (other x hx c)

theorem freeIfAcked (c : Caller) (seq : Option Nat) : BillsEase s (s.freeIfAcked c seq) := by
  unfold State.freeIfAcked
  split
  · exact refl s
  · refine ite ?_ (refl s)
    split
    · exact offer s c rfl
    · exact refl s

theorem retireCommitted (c : Caller) (r : Reason) (e : PurchaseEntry)
    (other : ∀ x ∈ s.purchases.entries, x.state = .committing → x.handle ≠ e.handle) : BillsEase s (s.retireCommitted c r e) :=
  (releaseHeld s r e other).trans (freeIfAcked _ c e.seq)

/-- COMMITTED entries off the list one after another, with their notices and freeing writes. -/
theorem foldRetireCommitted (c : Caller) (r : Reason) (l : List PurchaseEntry)
    (other : ∀ x ∈ s.purchases.entries, x.state = .committing → ∀ e ∈ l, x.handle ≠ e.handle) :
    BillsEase s (l.foldl (fun s e => s.retireCommitted c r e) s) := by
  rw [State.foldl_retireCommitted]
  refine (filterEntries s (fun x => l.all fun e => x.handle != e.handle) s.req.notices fun x hx committing => ?_).trans
    (of_store rfl rfl rfl (Store.foldl_freeing_newRecords c _ _))
  exact List.all_eq_true.2 fun e he => bne_iff_ne.2 (other x hx committing e he)

/-- The room enters VACANT while no entry is COMMITTING, so that no record is to come (R159, R160). -/
theorem enterVacant (c : Caller) (ended : ∀ e ∈ s.purchases.entries, e.state ≠ .committing) : BillsEase s (s.enterVacant c) := by
  rw [State.enterVacant_eq]
  exact {
    log := .refl _
    toCome := by
      refine List.Sublist.append ?_ (.refl _)
      exact ((Store.offer_newRecords _ c _ rfl).trans (Store.offer_newRecords _ c _ rfl)).trans (Store.foldl_freeing_newRecords c _ _)
    behind := fun _ _ ⟨e, he, committing, _⟩ => absurd committing (ended e he)
    entries := fun x hx => by cases hx
    charged := Nat.zero_le _ }

theorem testDrain (c : Caller) : BillsEase s (s.testDrain c) := by
  by_cases drains : s.drains
  · rw [(s.testDrain_spec c).1 drains]
    exact enterVacant s c drains.2.1
  · rw [(s.testDrain_spec c).2 drains]
    exact refl s

theorem commitEnded (c : Caller) : BillsEase s (s.commitEnded c) := by
  by_cases drains : s.drainsAtCommitEnd
  · rw [(s.commitEnded_spec c).1 drains]
    exact enterVacant s c drains.2.1
  · rw [(s.commitEnded_spec c).2 drains]
    exact refl s

/-- The charges a title clears are those of HELD entries (R123). -/
theorem addTitle (t : BitVec 32) (distinct : s.purchases.handlesDistinct) : BillsEase s (s.addTitle t) := by
  rw [State.addTitle_eq t s distinct]
  refine ite (refl s) ((mapEntries s (f := fun x => if x.heldTitle t then x.waived else x) (fun e _ => ?_)
    fun e _ committing => ?_).trans same)
  · split
    · exact .inl rfl
    · exact .inr rfl
  · rw [if_neg fun held => by rw [((e.heldTitle_iff t).1 held).1] at committing; cases committing]
    exact ⟨committing, rfl⟩

theorem offerTitlesIf (c : Caller) (changed : Bool) : BillsEase s (s.offerTitlesIf c changed) := ite (offer s c rfl) (refl s)

/-- A HELD entry is made COMMITTED. -/
theorem mapHeld (e : PurchaseEntry) {e' : PurchaseEntry} (distinct : s.purchases.handlesDistinct) (he : e ∈ s.purchases.entries)
    (held : e.state = .held) (committed : e'.state = .committed) : BillsEase s (s.mapPurchase e.handle fun _ => e') := by
  refine mapPurchase s e.handle (fun _ _ _ => .inl committed) fun x hx here committing => ?_
  rw [eq_of_handle distinct hx he here, held] at committing
  cases committing

theorem commitFree (c : Caller) (e : PurchaseEntry) (distinct : s.purchases.handlesDistinct) (he : e ∈ s.purchases.entries)
    (held : e.state = .held) : BillsEase s (s.commitFree c e) := by
  have mapped := mapHeld s e (e' := { e with state := .committed }) distinct he held rfl
  exact ((mapped.trans (addTitle _ e.title (State.committed_distinct distinct))).trans (offerTitlesIf _ c _)).trans (raise _ _)

/-- A HELD entry's commit fails (R122). -/
theorem failCommit (e : PurchaseEntry) (other : ∀ x ∈ s.purchases.entries, x.state = .committing → x.handle ≠ e.handle) :
    BillsEase s (s.failCommit e) := releaseHeld s .storeFault e other

/-- A store fault discards every record that was to come, and its COMMITTING entry (R122, R134). -/
theorem storeFault (distinct : s.purchases.handlesDistinct) : BillsEase s s.storeFault := by
  rw [State.storeFault, State.failCommitting_eq s.faultStore distinct]
  exact of_ended (.refl _) rfl List.filter_sublist

/-- The purchase unit told of an event's end (R125). -/
theorem endPurchase (c : Caller) (id : BitVec 32) (distinct : s.purchases.handlesDistinct) : BillsEase s (s.endPurchase c id) := by
  unfold State.endPurchase
  split
  · exact refl s
  · next e found =>
    have he : e ∈ s.purchases.entries := List.mem_of_find?_eq_some found
    have others (ended : e.state ≠ .committing) : ∀ x ∈ s.purchases.entries, x.state = .committing → x.handle ≠ e.handle :=
      fun x hx committing here => ended (eq_of_handle distinct hx he here ▸ committing)
    split
    · next held => exact releaseHeld s _ e (others (by rw [held]; decide))
    · exact mapPurchase s e.handle (fun _ _ _ => .inr rfl) fun _ _ _ committing => ⟨committing, rfl⟩
    · next committed => exact retireCommitted s c _ e (others (by rw [committed]; decide))

theorem endEvent (c : Caller) (id : BitVec 32) (distinct : s.purchases.handlesDistinct) : BillsEase s (s.endEvent c id) :=
  (endPurchase s c id distinct).trans same

/-- Rebuilt entries are COMMITTED, so those at their limit are (R130). -/
theorem limitRebuilt (distinct : s.purchases.handlesDistinct) (law : s.BillLaw) : BillsEase s s.limitRebuilt := by
  refine foldRetireCommitted s .part .eventEnded _ fun x hx committing e he here => ?_
  obtain ⟨he, limit⟩ := List.mem_filter.1 he
  simp only [State.atRebuiltLimit, Bool.and_eq_true, beq_iff_eq] at limit
  obtain ⟨⟨rebuilt, -⟩, -⟩ := limit
  rw [eq_of_handle distinct hx he here, law.rebuilt_committed he rebuilt] at committing
  cases committing

theorem expireCheckout : BillsEase s s.expireCheckout := by
  unfold State.expireCheckout
  split
  · refine ite ?_ (refl s)
    dsimp only
    split
    · exact same
    · next ended =>
      exact trans same (enterVacant _ _ ((s.purchases.anyCommitting_false).1 (Bool.eq_false_iff.2 ended)))
  · exact refl s

end BillsEase

/-! ### The commit pairs and the records to come -/

/-- A pair whose COMMIT write carries no new record adds none. -/
theorem Store.offerPair_newRecords_none (st : Store) (c : Caller) (room : Option RoomRecord) {w : StoreWrite} (none : w.newRecord? = none) :
    (st.offerPair c (.room room) w).newRecords.Sublist st.newRecords := by
  have noRoom : (StoreWrite.room room).newRecord? = .none := rfl
  cases good : st.state <;> simp only [Store.offerPair, good]
  · split
    · exact (Store.offer_newRecords _ c w none).trans (by rw [Store.coalesce_room_newRecords])
    · split
      · next joins =>
        have line := List.isEmpty_iff.1 (Bool.and_eq_true_iff.1 joins).1
        simp [Store.newRecords, line, QueuedWrite.fresh, none, noRoom]
      · simp [Store.newRecords, LineItem.writes, QueuedWrite.freshWaiting, none, noRoom]
  · exact .refl _

/-- The offer of a pair adds its record behind the others, or none when it is lost or acknowledged. -/
theorem Store.offerPair_adds (st : Store) (c : Caller) (room : Option RoomRecord) {i : Fin 48} (r : CommitRecord)
    (free : st.names i = false) :
    (st.offerPair c (.room room) (.commit i (some r))).newRecords.Sublist (st.newRecords ++ [r]) := by
  cases acked : r.acked with
  | true =>
    exact (st.offerPair_newRecords_none c room (by simp [StoreWrite.newRecord?, acked])).trans (List.sublist_append_left _ _)
  | false =>
    cases good : st.state with
    | good => rw [st.offerPair_newRecords c room i r good free acked]
    | faulted =>
      unfold Store.offerPair
      rw [good]
      exact List.sublist_append_left _ _

/-- The offer of the first held pair moves its record from the pairs to the store (R135). -/
theorem BillsEase.offerHeldPair (s : State) : BillsEase s s.offerHeldPair := by
  unfold State.offerHeldPair
  split
  · next r rest i held free =>
    refine { refl s with toCome := ?_, behind := fun _ _ => id }
    rw [State.recordsToCome_eq, State.recordsToCome_eq, held, ← List.singleton_append, ← List.append_assoc]
    exact (s.store.offerPair_adds .part _ r (Store.freePlace_spec free).2).append (.refl _)
  · exact refl s

/-- The record of a commit that begins comes last of those to come, whether its pair is offered or held (R119, R135). -/
theorem State.offerCommit_recordsToCome {s : State} {c : Caller} {r : CommitRecord} (good : s.store.state = .good)
    (new : r.acked = false) : (s.offerCommit c r).recordsToCome = s.recordsToCome ++ [r] := by
  rw [State.recordsToCome_eq, State.recordsToCome_eq]
  by_cases free : s.purchases.heldPairs = [] ∧ ∃ i, s.store.freePlace = some i
  · obtain ⟨unheld, i, free⟩ := free
    rw [State.offerCommit_free unheld free]
    dsimp only
    rw [s.store.offerPair_newRecords c _ i r good (Store.freePlace_spec free).2 new, unheld, List.append_nil, List.append_nil]
  · rw [State.offerCommit_held (Decidable.or_iff_not_imp_left.2 fun unheld => Option.eq_none_iff_forall_ne_some.2 fun i place =>
      free ⟨Decidable.not_not.1 unheld, i, place⟩)]
    exact (List.append_assoc _ _ _).symm

/-- The commit of a HELD entry takes the number the counter gives, and its record comes behind all others (R119, R137). -/
theorem State.BillLaw.commitNumbered {s : State} (w : s.BillLaw) {c : Caller} {e : PurchaseEntry} {n : Nat}
    (distinct : s.purchases.handlesDistinct) (he : e ∈ s.purchases.entries) (held : e.state = .held) (charged : e.charge ≠ 0)
    (good : s.store.state = .good) (counter : s.bills.counter = some n) : (s.commitNumbered c e n).BillLaw := by
  let begun : PurchaseEntry := { e with state := .committing, seq := some n }
  let numbered : State := { s.mapPurchase e.handle fun _ => begun with bills := { s.bills with counter := some (n + 1) } }
  let r := numbered.commitRecord begun n
  have books : (s.commitNumbered c e n).bills = numbered.bills ∧
      (s.commitNumbered c e n).purchases.entries = numbered.purchases.entries := by
    unfold State.commitNumbered State.offerCommit
    dsimp only
    split <;> exact ⟨rfl, rfl⟩
  have coming : (s.commitNumbered c e n).recordsToCome = s.recordsToCome ++ [r] :=
    State.offerCommit_recordsToCome (s := numbered) (c := c) good rfl
  have entries : numbered.purchases.entries = s.purchases.entries.map fun x => if x.handle = e.handle then begun else x := by
    show (s.mapPurchase e.handle fun _ => begun).purchases.entries = _
    rw [State.mapPurchase_eq]
  obtain ⟨bills, listed⟩ := books
  rw [entries] at listed
  have lower : ∀ x ∈ s.bills.log.map (·.record) ++ s.recordsToCome, x.seq < n := fun x hx => by
    obtain ⟨m, given, less⟩ := w.below x hx
    rw [counter, Option.some.injEq] at given
    rwa [given]
  exact {
    rising := by
      rw [bills, coming, List.map_append, ← List.append_assoc]
      refine List.pairwise_append.2 ⟨w.rising, List.pairwise_singleton _ _, fun a ha b hb => ?_⟩
      rw [List.mem_singleton.1 hb]
      rcases List.mem_append.1 ha with logged | coming
      · obtain ⟨l, hl, rfl⟩ := List.mem_map.1 logged
        exact lower _ (List.mem_append_left _ (List.mem_map_of_mem hl))
      · obtain ⟨x, hx, rfl⟩ := List.mem_map.1 coming
        exact lower _ (List.mem_append_right _ hx)
    below := by
      rw [bills, coming, ← List.append_assoc]
      intro x hx
      refine ⟨n + 1, rfl, ?_⟩
      rcases List.mem_append.1 hx with before | last
      · exact Nat.lt_succ_of_lt (lower x before)
      · rw [List.mem_singleton.1 last]
        exact Nat.lt_succ_self n
    behind := by
      rw [coming]
      intro x hx
      unfold State.commits
      rw [listed]
      rcases List.mem_append.1 hx with before | last
      · obtain ⟨y, hy, committing, number⟩ := w.behind x before
        refine ⟨y, List.mem_map.2 ⟨y, hy, if_neg fun here => ?_⟩, committing, number⟩
        rw [eq_of_handle distinct hy he here, held] at committing
        cases committing
      · rw [List.mem_singleton.1 last]
        exact ⟨begun, List.mem_map.2 ⟨e, he, if_pos rfl⟩, rfl, rfl⟩
    committing := by
      rw [listed]
      intro x hx
      obtain ⟨y, hy, rfl⟩ := List.mem_map.1 hx
      split
      · exact ⟨fun _ => charged, fun _ => (w.committing e he).2 (by rw [held]; decide)⟩
      · exact w.committing y hy
    few32 := by
      have same : chargedCount (s.purchases.entries.map fun x => if x.handle = e.handle then begun else x) =
          chargedCount s.purchases.entries := by
        unfold chargedCount
        rw [List.countP_map]
        refine List.countP_congr fun x hx => ?_
        rw [Function.comp_apply]
        split
        · next here =>
          rw [eq_of_handle distinct hx he here, begun.heldCharge_committing rfl]
          simp [PurchaseEntry.heldCharge, held, begun]
        · rfl
      rw [bills, listed, same]
      exact w.few32 }

/-- The commit of an entry with a charge fails, the store being FAULTED or made so, or takes a number (R119, R122, R137). -/
theorem State.commitCharged_cases (s : State) (c : Caller) (e : PurchaseEntry) :
    s.commitCharged c e = (s.failCommit e).commitEnded c ∨ s.commitCharged c e = (s.storeFault.failCommit e).commitEnded c ∨
      ∃ n, s.store.state = .good ∧ s.bills.counter = some n ∧ s.commitCharged c e = s.commitNumbered c e n := by
  unfold State.commitCharged
  split
  · exact .inl rfl
  · exact .inr (.inl rfl)
  · next n good counter =>
    split
    · exact .inr (.inr ⟨n, good, counter, rfl⟩)
    · exact .inr (.inl rfl)

/-- The commit of a HELD entry with a charge begins (R119, R122, R137). -/
theorem State.BillLaw.commitCharged {s : State} (w : s.BillLaw) (c : Caller) {e : PurchaseEntry} (distinct : s.purchases.handlesDistinct)
    (he : e ∈ s.purchases.entries) (held : e.state = .held) (charged : e.charge ≠ 0) : (s.commitCharged c e).BillLaw := by
  rcases s.commitCharged_cases c e with fails | fails | ⟨n, good, counter, begins⟩
  · rw [fails]
    refine w.ease ((BillsEase.failCommit s e fun x hx committing here => ?_).trans (.commitEnded _ c))
      ((Cascade.failCommit s e).trans (.commitEnded _ c)).counter
    rw [eq_of_handle distinct hx he here, held] at committing
    cases committing
  · rw [fails]
    refine w.ease (((BillsEase.storeFault s distinct).trans (.failCommit _ e fun x hx committing => ?_)).trans (.commitEnded _ c))
      (((Cascade.storeFault s).trans (.failCommit _ e)).trans (.commitEnded _ c)).counter
    exact absurd committing (s.storeFault_lost.ended x hx)
  · rw [begins]
    exact w.commitNumbered distinct he held charged good counter

/-- The commit of the HELD entry of a handle begins (R118 to R120). -/
theorem State.BillLaw.beginCommit {s : State} (w : s.BillLaw) (c : Caller) (h : Nat) (distinct : s.purchases.handlesDistinct) :
    (s.beginCommit c h).BillLaw := by
  unfold State.beginCommit
  split
  · exact w
  · next e found =>
    obtain ⟨he, -⟩ := PurchaseUnit.byHandle_some found
    split
    · next held =>
      split
      · exact w.ease (.commitFree s c e distinct he held) (Cascade.commitFree s c e).counter
      · next charged => exact w.commitCharged c distinct he held charged
    · exact w
    · exact w

/-! ### A commit completes -/

/-- The write of a new record has just left the queue, and the record is not in the log yet: it comes first of those to come. -/
abbrev State.Completing (r : CommitRecord) (s : State) : Prop := s.BooksHold (r :: s.recordsToCome)

/-- The record joins the log behind those in it, and its entry is COMMITTED and holds no charge any more (R121, R138). -/
theorem State.Completing.commitDone {s : State} {r : CommitRecord} (w : s.Completing r) {e : PurchaseEntry}
    (distinct : s.purchases.handlesDistinct) (found : s.purchases.committing r.seq = some e) : (s.commitDone r e).BillLaw := by
  obtain ⟨he, committing, number⟩ := PurchaseUnit.committing_some found
  let done (x : PurchaseEntry) : PurchaseEntry :=
    if x.handle = e.handle then e.committed else if s.purchases.clearedBy e x then x.waived else x
  have follows (x : PurchaseEntry) : (done x).Follows x := by
    dsimp only [done]
    split
    · exact .inl rfl
    · split
      · exact .inl rfl
      · exact .inr rfl
  have eq := State.commitDone_eq (r := r) distinct committing he
  have bills : (s.commitDone r e).bills = { s.bills with log := s.bills.log ++ [⟨r, .due, false⟩] } := by rw [eq]
  have listed : (s.commitDone r e).purchases.entries = s.purchases.entries.map done := by rw [eq]
  have coming : (s.commitDone r e).recordsToCome.Sublist s.recordsToCome := by
    rw [State.recordsToCome_eq, State.recordsToCome_eq, eq]
    refine List.Sublist.append ?_ (.refl _)
    dsimp only
    split
    · exact (Store.offer_newRecords _ _ _ rfl).trans (Store.offer_newRecords _ _ _ rfl)
    · exact Store.offer_newRecords _ _ _ rfl
  have books : ((s.commitDone r e).bills.log.map (·.record) ++ (s.commitDone r e).recordsToCome).Sublist
      (s.bills.log.map (·.record) ++ r :: s.recordsToCome) := by
    rw [bills, List.map_append, List.append_assoc]
    exact (List.Sublist.refl _).append (coming.cons_cons r)
  exact {
    rising := by
      have seqs (l : List LogRecord) (m : List CommitRecord) : l.map (·.record.seq) ++ m.map (·.seq) =
          (l.map (·.record) ++ m).map (·.seq) := by rw [List.map_append, List.map_map]; rfl
      have kept := w.rising
      rw [seqs] at kept
      rw [seqs]
      exact kept.sublist (books.map _)
    below := fun x hx => by
      rw [bills]
      exact w.below x (books.subset hx)
    behind := fun x hx => by
      have later := coming.subset hx
      obtain ⟨y, hy, committing', number'⟩ := w.behind x (List.mem_cons_of_mem _ later)
      have above : r.seq < x.seq :=
        (List.pairwise_cons.1 (List.pairwise_append.1 w.rising).2.1).1 _ (List.mem_map_of_mem later)
      have other : y.handle ≠ e.handle := fun here => by
        rw [eq_of_handle distinct hy he here, number, Option.some.injEq] at number'
        omega
      have uncleared : ¬s.purchases.clearedBy e y = true := by simp [PurchaseUnit.clearedBy, committing']
      refine ⟨y, ?_, committing', number'⟩
      rw [listed]
      exact List.mem_map.2 ⟨y, hy, (if_neg other).trans (if_neg uncleared)⟩
    committing := fun x hx => by
      rw [listed] at hx
      obtain ⟨y, hy, rfl⟩ := List.mem_map.1 hx
      exact (follows y).lawful (w.committing y hy)
    few32 := by
      have charged : 0 < e.heldCharge := by
        rw [e.heldCharge_committing committing]
        exact Nat.pos_of_ne_zero ((w.committing e he).1 committing)
      have committed : (done e).state = .committed := by simp [done, PurchaseEntry.committed]
      have fewer := chargedCount_map_lt (fun x _ => follows x) he charged committed
      have := w.few32
      rw [bills, listed, List.length_append, List.length_singleton]
      omega }

/-- A commit completes: its record is logged, and the entry may leave and the room enter VACANT (R121, R125, R159). -/
theorem State.Completing.completeCommit {s : State} {r : CommitRecord} (w : s.Completing r) (distinct : s.purchases.handlesDistinct) :
    (s.completeCommit r).BillLaw := by
  cases found : s.purchases.committing r.seq with
  | none =>
    obtain ⟨e, he, committing, number⟩ := w.behind r List.mem_cons_self
    exact absurd (List.find?_eq_none.1 found e he) (by simp [committing, number])
  | some e =>
    obtain ⟨he, committing, -⟩ := PurchaseUnit.committing_some found
    have done := w.commitDone distinct found
    have leaves : BillsEase (s.commitDone r e) ((s.commitDone r e).retireCommitted .part .eventEnded e.committed) := by
      refine .retireCommitted _ .part .eventEnded _ fun x hx committing' here => ?_
      rw [State.commitDone_eq distinct committing he] at hx
      obtain ⟨y, -, rfl⟩ := List.mem_map.1 hx
      by_cases same : y.handle = e.handle
      · rw [if_pos same] at committing'
        cases committing'
      · rw [if_neg same] at here
        split at here <;> exact same here
    rw [State.completeCommit_found found]
    refine done.ease (BillsEase.trans (.ite leaves (.refl _)) (.commitEnded _ .part))
      (Cascade.trans (.ite ?_ (.refl _)) (.commitEnded _ .part)).counter
    exact .retireCommitted ..

end Sys2Proof.Machine
end

section
/-! PROOFS. What every command but RESET and a scan's end keeps of the counter and of the law of R138: operations that leave the books
alone or ease them, commits, requests and messages. -/

namespace Sys2Proof.Machine

/-- The counter does not fall (R137), and the law of R138 is kept. -/
structure Books (s t : State) : Prop where
  counter : CounterRises s t
  sound   : s.BillsSound → t.BillsSound

/-! ### What leaves the books alone -/

/-- The bills, the purchases and the request unit as they were, and no new record added to the store. -/
structure Quiet (s t : State) : Prop where
  bills     : t.bills = s.bills
  purchases : t.purchases = s.purchases
  req       : t.req = s.req
  records   : t.store.newRecords.Sublist s.store.newRecords

namespace Quiet

/-- What changes, changes in other fields. -/
theorem elsewhere {s t : State} (h : (t.bills, t.purchases, t.req, t.store) = (s.bills, s.purchases, s.req, s.store) := by rfl) :
    Quiet s t := by
  obtain ⟨bills, purchases, req, store⟩ := by simpa only [Prod.mk.injEq] using h
  exact ⟨bills, purchases, req, store ▸ .refl _⟩

theorem refl (s : State) : Quiet s s := elsewhere

theorem trans {s t u : State} (h : Quiet s t) (k : Quiet t u) : Quiet s u :=
  ⟨k.bills.trans h.bills, k.purchases.trans h.purchases, k.req.trans h.req, k.records.trans h.records⟩

theorem fold {α : Type} {f : State → α → State} (hf : ∀ s a, Quiet s (f s a)) (l : List α) (s : State) :
    Quiet s (l.foldl f s) := by
  induction l generalizing s with
  | nil => exact refl s
  | cons a l ih => exact (hf s a).trans (ih _)

theorem ite {p : Prop} [Decidable p] {s t u : State} (h : Quiet s t) (k : Quiet s u) : Quiet s (if p then t else u) := by
  split
  · exact h
  · exact k

theorem offer (s : State) (c : Caller) {w : StoreWrite} (h : w.newRecord? = none) : Quiet s (s.offer c w) :=
  ⟨rfl, rfl, rfl, s.store.offer_newRecords c w h⟩

theorem offerRoom (s : State) (c : Caller) : Quiet s (s.offerRoom c) := offer s c rfl

theorem ease {s t : State} (h : Quiet s t) : BillsEase s t :=
  .of_store (by rw [h.bills]) (by rw [h.purchases]) (by rw [h.purchases]) h.records

end Quiet

/-- States alike in the purchase list, the part's start-up and the handles of the flags, no request more in service, are alike in the
soundness of the handles. -/
theorem State.HandlesSound.of_same {s t : State} (w : s.HandlesSound) (purchases : t.purchases = s.purchases)
    (startUp : t.req.startUp = s.req.startUp) (fetching : t.req.service = .fetching → s.req.service = .fetching)
    (idle : s.req.service = .idle → t.req.service = .idle)
    (notices : ∀ n ∈ t.req.notices, ∀ k, noticeHandle n = some k → n ∈ s.req.notices) : t.HandlesSound where
  distinct := purchases ▸ w.distinct
  next := purchases ▸ w.next
  few := purchases ▸ w.few
  starting := fun other => by
    rw [startUp] at other
    exact ⟨idle (w.starting other).1, purchases ▸ (w.starting other).2⟩
  serving := fun serves => by
    obtain ⟨l, short, inUse⟩ := w.serving (fetching serves)
    refine ⟨l, short, fun h used => inUse h ?_⟩
    rw [State.handleInUse_iff] at used ⊢
    rw [purchases] at used
    exact used.imp_right fun ⟨n, hn, handle⟩ => ⟨n, notices n hn h handle, handle⟩

namespace Books

theorem refl (s : State) : Books s s := ⟨.stands, id⟩

theorem trans {s t u : State} (h : Books s t) (k : Books t u) : Books s u where
  counter := fun n given => by
    obtain ⟨n', given', le⟩ := h.counter n given
    obtain ⟨n'', given'', le'⟩ := k.counter n' given'
    exact ⟨n'', given'', Nat.le_trans le le'⟩
  sound := k.sound ∘ h.sound

theorem fold {α : Type} {f : State → α → State} (hf : ∀ s a, Books s (f s a)) (l : List α) (s : State) :
    Books s (l.foldl f s) := by
  induction l generalizing s with
  | nil => exact refl s
  | cons a l ih => exact (hf s a).trans (ih _)

theorem ite {p : Prop} [Decidable p] {s t u : State} (h : Books s t) (k : Books s u) : Books s (if p then t else u) := by
  split
  · exact h
  · exact k

/-- The two halves of the law, each kept. -/
theorem of_halves {s t : State} (counter : CounterRises s t) (handles : s.HandlesSound → s.BillLaw → t.HandlesSound)
    (law : s.HandlesSound → s.BillLaw → t.BillLaw) : Books s t where
  counter := counter
  sound := fun w => by
    obtain ⟨h, b⟩ := s.billsSound_iff.1 w
    exact t.billsSound_iff.2 ⟨handles h b, law h b⟩

/-- A cascade that eases the handles and the books. -/
theorem of_cascade {s t : State} (c : Cascade s t) (handles : s.purchases.handlesDistinct → Eases s t)
    (books : s.purchases.handlesDistinct → s.BillLaw → BillsEase s t) : Books s t :=
  of_halves c.counter (fun h _ => (handles h.distinct).handlesSound h) fun h b => b.ease (books h.distinct b) c.counter

/-- The books left alone; the request unit changed, no request more in service and no flag of a handle more pending. -/
theorem of_req {s t : State} (bills : t.bills = s.bills) (purchases : t.purchases = s.purchases)
    (records : t.store.newRecords.Sublist s.store.newRecords) (startUp : t.req.startUp = s.req.startUp)
    (fetching : t.req.service = .fetching → s.req.service = .fetching) (idle : s.req.service = .idle → t.req.service = .idle)
    (notices : ∀ n ∈ t.req.notices, ∀ k, noticeHandle n = some k → n ∈ s.req.notices) : Books s t := by
  have counter : CounterRises s t := .stands (by rw [bills])
  refine of_halves counter (fun h _ => h.of_same purchases startUp fetching idle notices) fun _ b => b.ease ?_ counter
  exact .of_store (by rw [bills]) (by rw [purchases]) (by rw [purchases]) records

theorem of_quiet {s t : State} (h : Quiet s t) : Books s t :=
  of_req h.bills h.purchases h.records (by rw [h.req]) (by rw [h.req]; exact id) (by rw [h.req]; exact id)
    (by rw [h.req]; exact fun _ hn _ _ => hn)

/-- What changes, changes in other fields. -/
theorem elsewhere {s t : State} (h : (t.bills, t.purchases, t.req, t.store) = (s.bills, s.purchases, s.req, s.store) := by rfl) :
    Books s t := of_quiet (.elsewhere h)

variable (s : State)

theorem offer (c : Caller) {w : StoreWrite} (h : w.newRecord? = none) : Books s (s.offer c w) := of_quiet (.offer s c h)

theorem offerRoom (c : Caller) : Books s (s.offerRoom c) := offer s c rfl

/-- A flag raised that is of no handle. -/
theorem raise {n : Notice} (h : noticeHandle n = none) : Books s (s.raise n) :=
  of_req rfl rfl (.refl _) rfl id id fun m hm k handle => by
    rcases mem_raiseIn hm with rfl | hm
    · rw [h] at handle; cases handle
    · exact hm

/-- Indices of the request unit changed, or its service answered where it waited. -/
theorem setReq {q : RequestUnit} (startUp : q.startUp = s.req.startUp) (notices : q.notices = s.req.notices)
    (fetching : q.service = .fetching → s.req.service = .fetching) (idle : s.req.service = .idle → q.service = .idle) :
    Books s { s with req := q } :=
  of_req rfl rfl (.refl _) startUp fetching idle fun n hn _ _ => by rw [notices] at hn; exact hn

/-- Records off the log. -/
theorem filterLog (p : LogRecord → Bool) : Books s { s with bills := { s.bills with log := s.bills.log.filter p } } :=
  of_halves .stands (fun h _ => h.of_same rfl rfl id id fun _ hn _ _ => hn) fun _ w => w.ease
    { BillsEase.refl s with log := List.filter_sublist.map _, toCome := .refl _, behind := fun _ _ => id } .stands

/-- The offer states of the log's records changed, and what has been offered. -/
theorem mapLog {f : LogRecord → LogRecord} (record : ∀ l, (f l).record = l.record) (offered : Option Nat) :
    Books s { s with bills := { s.bills with log := s.bills.log.map f, highestOffered := offered } } := by
  have records : (s.bills.log.map f).map (·.record) = s.bills.log.map (·.record) := by
    rw [List.map_map]
    exact List.map_congr_left fun l _ => record l
  exact of_halves .stands (fun h _ => h.of_same rfl rfl id id fun _ hn _ _ => hn) fun _ w =>
    w.ease (.of_store records rfl rfl (.refl _)) .stands

/-! ### Commits, the ends of events and what is owed -/

theorem testDrain (c : Caller) : Books s (s.testDrain c) :=
  of_cascade (.testDrain s c) (fun _ => .testDrain s c) fun _ _ => .testDrain s c

theorem commitEnded (c : Caller) : Books s (s.commitEnded c) :=
  of_cascade (.commitEnded s c) (fun _ => .commitEnded s c) fun _ _ => .commitEnded s c

theorem storeFault : Books s s.storeFault :=
  of_cascade (.storeFault s) (fun _ => .storeFault s) fun distinct _ => .storeFault s distinct

theorem freeIfAcked (c : Caller) (seq : Option Nat) : Books s (s.freeIfAcked c seq) :=
  of_cascade (.freeIfAcked s c seq) (fun _ => .freeIfAcked s c seq) fun _ _ => .freeIfAcked s c seq

theorem beginCommit (c : Caller) (h : Nat) : Books s (s.beginCommit c h) :=
  of_halves (Cascade.beginCommit s c h).counter (fun w _ => (Eases.beginCommit s c h w.distinct).handlesSound w) fun w b =>
    b.beginCommit c h w.distinct

theorem endPurchase (c : Caller) (id : BitVec 32) : Books s (s.endPurchase c id) :=
  of_cascade (.endPurchase s c id) (fun _ => .endPurchase s c id) fun distinct _ => .endPurchase s c id distinct

theorem endEvent (c : Caller) (id : BitVec 32) : Books s (s.endEvent c id) := (endPurchase s c id).trans elsewhere

theorem watch (e : PurchaseEntry) : Books s (s.watch e) := by
  have watched : Books s (s.mapPurchase e.handle fun x => { x with watched := riseWatched e.watched }) :=
    of_cascade (.mapPurchase s _ _) (fun _ => .mapPurchase s _ _ fun _ _ _ => ⟨rfl, Nat.le_refl _⟩) fun _ _ =>
      .mapPurchase s _ (fun _ _ _ => .inr rfl) fun _ _ _ committing => ⟨committing, rfl⟩
  exact ite (watched.trans (beginCommit _ _ _)) watched

theorem foldMark (id : BitVec 32) : Books s (s.foldMark id) := by
  have cleared : Books s { s with events := s.events.mapId id fun v => { v with seen := false } } := elsewhere
  unfold State.foldMark
  split
  · exact refl s
  · dsimp only
    split
    · split
      · exact cleared.trans (ite elsewhere (refl _))
      · split
        · exact cleared.trans (watch _ _)
        · exact cleared
        · exact cleared.trans (watch _ _)
    · exact cleared

theorem foldMarks (ids : List (BitVec 32)) : Books s (s.foldMarks ids) := fold (fun s id => foldMark s id) ids s

theorem resendDue : Books s s.resendDue := by
  refine mapLog s (fun l => ?_) s.bills.highestOffered
  unfold LogRecord.resend
  split
  · rfl
  · split <;> rfl

theorem limitRebuilt : Books s s.limitRebuilt :=
  of_cascade (.limitRebuilt s) (fun _ => .limitRebuilt s) fun distinct law => .limitRebuilt s distinct law

theorem runOwed (o : Owed) : Books s (s.runOwed o) := by
  cases o with
  | eventEnd id next => exact (endEvent s .part id).trans (foldMarks _ next)
  | grantExpiry | lockoutExpiry => exact elsewhere
  | resendDue => exact resendDue s
  | rebuiltEntryLimit => exact limitRebuilt s
  | checkoutExpiry => exact of_cascade (.expireCheckout s) (fun _ => .expireCheckout s) fun _ _ => .expireCheckout s
  | commitPairOffer => exact of_cascade (.offerHeldPair s) (fun _ => .offerHeldPair s) fun _ _ => .offerHeldPair s

theorem doOwed (o : Owed) (os : List Owed) : Books s (s.doOwed o os) := (runOwed s o).trans elsewhere

theorem settle : Books s s.settle := by
  unfold State.settle
  generalize s.owed = l
  induction l generalizing s with
  | nil => exact elsewhere
  | cons o os ih => exact (doOwed s o os).trans (ih _)

theorem runThrough (p : Owed → Bool) (l : List Owed) : Books s (State.runThrough p l s) := by
  induction l generalizing s with
  | nil => exact elsewhere
  | cons o os ih => exact ite (doOwed s o os) ((doOwed s o os).trans (ih _))

theorem takeOwed (p : Owed → Bool) : Books s (s.takeOwed p) := ite (runThrough s p _) (refl s)

theorem takeTick : Books s s.takeTick :=
  ite ((trans (t := { s with events := s.events.advance }) elsewhere (foldMarks _ _)).trans elsewhere) (refl s)

/-! ### Arrivals and the memory side -/

theorem streamWrite (w : WriteTxn) (ring : Fin 4) (slot : Nat) (q : Portion) : Books s (s.streamWrite w ring slot q) := by
  have reported (u : State) (ks : Fin 64) (p : Phase) : Books u (u.phaseReport ring slot ks p) := by
    have installed : Books u (u.installStaged ks p) := by
      unfold State.installStaged
      split
      · exact refl u
      · exact elsewhere
    unfold State.phaseReport
    dsimp only
    split <;> exact installed.trans elsewhere
  have set (x : Word) : Books s (s.setSlotTag ring slot x) := by
    rcases State.setSlotTag_cases ring slot x s with ⟨-, set⟩ | ⟨-, set | ⟨ks, p, set⟩⟩ <;> rw [set]
    · exact elsewhere
    · exact elsewhere
    · exact trans elsewhere (reported _ ks p)
  unfold State.streamWrite
  split
  · exact refl s
  · refine ite (ite ?_ (refl s)) elsewhere
    split
    · exact ite (set _) elsewhere
    · exact refl s

/-- A write of the index block changes indices alone (R9). -/
theorem indexWords (n : Nat) (l : List WriteWord) : Books s { s with req := s.req.indexWords n l } := by
  have one (q : RequestUnit) (n : Nat) (x : WriteWord) :
      ((q.indexWord n x).startUp, (q.indexWord n x).notices, (q.indexWord n x).service) = (q.startUp, q.notices, q.service) := by
    unfold RequestUnit.indexWord RequestUnit.writeIndex
    repeat' split
    all_goals rfl
  have all (q : RequestUnit) : ((q.indexWords n l).startUp, (q.indexWords n l).notices, (q.indexWords n l).service) =
      (q.startUp, q.notices, q.service) := by
    induction l generalizing q n with
    | nil => rfl
    | cons x l ih => exact (ih (n + 1) _).trans (one q n x)
  obtain ⟨startUp, notices, service⟩ := by simpa only [Prod.mk.injEq] using all s.req
  exact setReq s startUp notices (by rw [service]; exact id) (by rw [service]; exact id)

theorem writePortion (w : WriteTxn) (q : Portion) : Books s (s.writePortion w q) := by
  unfold State.writePortion
  split
  · exact streamWrite s w _ _ q
  · unfold State.controlWrite
    split
    · exact refl s
    · exact ite elsewhere (refl s)
  · exact indexWords s _ _
  · exact refl s
  · exact refl s

theorem arriveWrite (w : WriteTxn) : Books s (s.arriveWrite w) :=
  ite ((fold (fun s q => writePortion s w q) _ s).trans elsewhere) (refl s)

theorem readPortions (r : ReadTxn) (l : List Portion) (a : State × List HeldPortion) : Books a.1 (l.foldl (readPortion r) a).1 := by
  induction l generalizing a with
  | nil => exact refl _
  | cons q l ih =>
    refine Books.trans ?_ (ih (readPortion r a q))
    rcases readPortion_cases r a q with h | ⟨id, h⟩ <;> rw [h]
    · exact refl _
    · exact elsewhere

theorem arriveRead (r : ReadTxn) : Books s (s.arriveRead r) := by
  unfold State.arriveRead
  exact ite ((readPortions r _ (s, [])).trans elsewhere) (refl s)

/-- A transaction that arrives. -/
theorem of_arrival {x : Txn} {s t : State} (h : arrival x s = .next t) : Books s t := by
  rw [arrival_eq] at h
  split at h
  · cases x with
    | write w => cases h; exact (settle s).trans (arriveWrite _ w)
    | read r => cases h; exact (settle s).trans (arriveRead _ r)
  · cases h

theorem arbitrate : Books s s.arbitrate := by
  have own (o : OwnTxn) (rest : List OwnTxn) : Books s (s.grantOwn o rest) := by
    refine trans (t := { s with req := s.req.written o }) ?_ elsewhere
    have written : ((s.req.written o).startUp, (s.req.written o).notices, (s.req.written o).service) =
        (s.req.startUp, s.req.notices, s.req.service) := by
      unfold RequestUnit.written
      split <;> rfl
    obtain ⟨startUp, notices, service⟩ := by simpa only [Prod.mk.injEq] using written
    exact setReq s startUp notices (by rw [service]; exact id) (by rw [service]; exact id)
  unfold State.arbitrate
  split
  · exact refl s
  · exact elsewhere
  · exact own _ _
  · exact ite elsewhere (own _ _)

theorem grant : Books s s.grant := by
  unfold State.grant
  split
  · exact arbitrate s
  · split
    · exact refl s
    · exact trans (t := s.performWrite _) elsewhere (arbitrate _)

theorem returnRead : Books s s.returnRead := by
  unfold State.returnRead
  split
  · exact elsewhere
  · exact refl s

end Books

end Sys2Proof.Machine
end

section
/-! PROOFS. Requests, records and messages keep the counter and the law of R138: an answer ends a request's service, PURCHASE takes a
handle that is not in use and a place in the log to come, and messages leave the books alone or ease them. -/

namespace Sys2Proof.Machine

/-- A record is fetched for a request in service (R170). -/
theorem State.fetched_service {s : State} {r : Request} (h : s.fetched = some r) : s.req.service = .fetching := by
  unfold State.fetched at h
  split at h
  · next fetching _ => exact fetching
  · cases h

/-! ### Answers -/

/-- A request in service is answered or waits for its write, and the books are left alone. -/
structure Served (s t : State) : Prop where
  bills     : t.bills = s.bills
  purchases : t.purchases = s.purchases
  records   : t.store.newRecords.Sublist s.store.newRecords
  startUp   : t.req.startUp = s.req.startUp
  notices   : t.req.notices = s.req.notices
  answered  : t.req.service ≠ .fetching

namespace Served

theorem ite {p : Prop} [Decidable p] {s t u : State} (h : Served s t) (k : Served s u) : Served s (if p then t else u) := by
  split
  · exact h
  · exact k

theorem books {s t : State} (h : Served s t) (fetching : s.req.service = .fetching) : Books s t :=
  .of_req h.bills h.purchases h.records h.startUp (fun serves => absurd serves h.answered)
    (fun idle => by rw [fetching] at idle; cases idle) fun n hn _ _ => by rw [h.notices] at hn; exact hn

section
variable {s t : State} (r : Request) (c : AnswerCode) (ws : List Word)

theorem answer (h : Quiet s t) : Served s (t.answer r c ws) :=
  ⟨h.bills, h.purchases, h.records, by rw [State.answer_req, h.req], by rw [State.answer_req, h.req], Service.noConfusion⟩

theorem answerAtWrite (h : Quiet s t) : Served s (t.answerAtWrite r c ws) := by
  unfold State.answerAtWrite
  dsimp only
  split <;> exact ⟨h.bills, h.purchases, h.records, by rw [← h.req], by rw [← h.req], Service.noConfusion⟩

theorem answerOnceQueued (h : Quiet s t) : Served s (t.answerOnceQueued r c ws) := by
  unfold State.answerOnceQueued
  dsimp only
  split <;> exact ⟨h.bills, h.purchases, h.records, by rw [← h.req], by rw [← h.req], Service.noConfusion⟩

end

variable (s : State) (r : Request)

/-- The request answered with no other effect. -/
theorem plain (c : AnswerCode) (ws : List Word) : Served s (s.answer r c ws) := answer r c ws (.refl s)

/-- A change of the lock unit with its ROOM write, answered at the write's end (R82). -/
theorem setting (l : LockUnit) (c : AnswerCode) (ws : List Word) :
    Served s (({ s with lock := l }.offerRoom .setting).answerAtWrite r c ws) :=
  answerAtWrite r c ws (.trans .elsewhere (.offerRoom _ _))

theorem serveAttachRing : Served s (serveAttachRing r s) :=
  ite (plain s r _ _) (ite (plain s r _ _) (ite (plain s r _ _) (ite (plain s r _ _) (answer r _ _ .elsewhere))))

theorem serveDetachRing : Served s (serveDetachRing r s) := ite (plain s r _ _) (ite (plain s r _ _) (answer r _ _ .elsewhere))

theorem serveServiceInfo : Served s (serveServiceInfo r s) := by
  refine ite (plain s r _ _) (ite (plain s r _ _) (ite (plain s r _ _) ?_))
  dsimp only
  split
  · exact plain s r _ _
  · exact answer r _ _ (.ite .elsewhere (.refl s))

theorem serveKeyInfo : Served s (serveKeyInfo r s) := by
  refine ite (plain s r _ _) (ite (plain s r _ _) ?_)
  split
  · exact plain s r _ _
  · exact answer r _ _ (.ite .elsewhere (.refl s))

theorem serveSetPin : Served s (serveSetPin r s) := by
  unfold Machine.serveSetPin
  dsimp only
  split
  · exact plain s r _ _
  · refine ite (plain s r _ _) (ite (plain s r _ _) ?_)
    split
    · exact setting s r _ _ _
    · exact ite (plain s r _ _) (ite (setting s r _ _ _) (setting s r _ _ _))

theorem serveSetGuestCeiling : Served s (serveSetGuestCeiling r s) := by
  unfold Machine.serveSetGuestCeiling
  split
  · exact plain s r _ _
  · refine ite (plain s r _ _) (ite (plain s r _ _) ?_)
    split
    · exact plain s r _ _
    · exact ite (setting s r _ _ _) (setting s r _ _ _)

theorem serveUnlock : Served s (serveUnlock r s) := by
  have written (l : LockUnit) (c : AnswerCode) (ws : List Word) :
      Served s (({ s with lock := l }.offerRoom .unlock).answerOnceQueued r c ws) :=
    answerOnceQueued r c ws (.trans .elsewhere (.offerRoom _ _))
  unfold Machine.serveUnlock
  split
  · refine ite (plain s r _ _) (ite (plain s r _ _) ?_)
    split
    · exact plain s r _ _
    · exact ite (ite (answer r _ _ .elsewhere) (written _ _ _)) (written _ _ _)
  · exact plain s r _ _

theorem serveReadEvent : Served s (serveReadEvent r s) := by
  refine ite (plain s r _ _) ?_
  split <;> exact plain s r _ _

theorem serveQuote : Served s (serveQuote r s) := by
  refine ite (plain s r _ _) (ite (plain s r _ _) ?_)
  split
  · exact plain s r _ _
  · split
    · exact plain s r _ _
    · split <;> exact plain s r _ _

theorem serveListPurchases : Served s (serveListPurchases r s) := by
  refine ite (plain s r _ _) (ite (plain s r _ _) ?_)
  split <;> exact plain s r _ _

end Served

/-! ### PURCHASE (R109, R116, R117) -/

/-- While a request is in service some handle from 1 to 255 is not in use, and the next-handle search finds one (R109). -/
theorem State.HandlesSound.firstHandle_unused {s : State} (w : s.HandlesSound) (fetching : s.req.service = .fetching) :
    s.handleInUse (s.firstHandle 255 s.purchases.nextHandle) = false := by
  obtain ⟨l, short, inUse⟩ := w.serving fetching
  have unused : ∃ k, 1 ≤ k ∧ k ≤ 255 ∧ s.handleInUse k = false := by
    by_contra none
    have all : ∀ k ∈ List.range' 1 255, k ∈ l := fun k hk => by
      obtain ⟨low, high⟩ := List.mem_range'_1.1 hk
      exact inUse k (Bool.eq_true_of_not_eq_false fun free => none ⟨k, low, by omega, free⟩)
    have few := (List.nodup_range' (s := 1) (n := 255)).length_le_of_subset all
    rw [List.length_range'] at few
    omega
  obtain ⟨k, low, high, unused⟩ := unused
  obtain ⟨n, -, found, unused, -⟩ := State.firstHandle_spec w.next.1 w.next.2 low high unused
  rw [found]
  exact unused

/-- The entry a PURCHASE takes joins the list under a handle of its own (R109, R117). -/
theorem State.HandlesSound.takePurchase {s : State} (w : s.HandlesSound) (fetching : s.req.service = .fetching)
    (room : s.purchases.entries.length < Config.maxPurchases) (r : Request) (v : EventEntry) (c h k n : Nat) :
    ((s.takePurchase v c h).answerPurchase r k n).HandlesSound where
  distinct := by
    have unused := w.firstHandle_unused fetching
    show ((s.purchases.entries ++ [takenEntry _ v c h]).map (·.handle)).Nodup
    rw [List.map_append, List.nodup_append]
    refine ⟨w.distinct, List.nodup_singleton _, fun a ha b hb same => ?_⟩
    obtain ⟨e, he, rfl⟩ := List.mem_map.1 ha
    rw [List.map_singleton, List.mem_singleton] at hb
    have used := State.inUse_of_mem he
    rw [same, hb] at used
    exact absurd used (Bool.eq_false_iff.1 unused)
  next := handleAfter_range _
  few := length_snoc_le _ room
  starting := fun other => by
    have idle := (w.starting other).1
    rw [fetching] at idle
    cases idle
  serving := fun serves => by cases serves

/-- Check 10 of PURCHASE leaves a place in the log for the charge of the entry taken (R116, R138). -/
theorem State.BooksHold.takePurchase {s : State} (w : s.BillLaw) (few : s.billsToCome < Config.maxBills) (r : Request) (v : EventEntry)
    (c h k n : Nat) : ((s.takePurchase v c h).answerPurchase r k n).BillLaw where
  rising := w.rising
  below := w.below
  behind := fun x hx => by
    obtain ⟨e, he, committing⟩ := w.behind x hx
    exact ⟨e, List.mem_append_left _ he, committing⟩
  committing := fun e he => by
    rcases List.mem_append.1 he with before | taken
    · exact w.committing e before
    · rw [List.mem_singleton.1 taken]
      exact ⟨PurchaseState.noConfusion, fun _ => rfl⟩
  few32 := by
    have one := List.countP_le_length (p := fun e : PurchaseEntry => decide (0 < e.heldCharge))
      (l := [takenEntry (s.firstHandle 255 s.purchases.nextHandle) v c h])
    have joined : chargedCount ((s.takePurchase v c h).answerPurchase r k n).purchases.entries =
        chargedCount s.purchases.entries + chargedCount [takenEntry (s.firstHandle 255 s.purchases.nextHandle) v c h] :=
      List.countP_append
    rw [joined]
    unfold State.billsToCome at few
    show s.bills.log.length + _ ≤ _
    unfold chargedCount
    rw [List.length_singleton] at one
    omega

namespace Books

variable (s : State)

theorem purchaseEvent (fetching : s.req.service = .fetching) (r : Request) (v : EventEntry) (h : Nat) :
    Books s (s.purchaseEvent r v h) := by
  have refused (c : AnswerCode) (ws : List Word) : Books s (s.answer r c ws) := (Served.plain s r c ws).books fetching
  unfold State.purchaseEvent
  split
  · exact refused _ _
  · split
    · exact refused _ _
    · next room =>
      split
      · exact refused _ _
      · next billable =>
        refine ite (refused _ _) (of_halves .stands (fun w _ => ?_) fun _ b => ?_)
        · exact w.takePurchase fetching (Nat.lt_of_not_le room) r v _ h _ _
        · exact State.BooksHold.takePurchase b (Nat.lt_of_not_le fun full => billable (.inr full)) r v _ h _ _

theorem servePurchase (fetching : s.req.service = .fetching) (r : Request) : Books s (servePurchase r s) := by
  have refused (c : AnswerCode) (ws : List Word) : Books s (s.answer r c ws) := (Served.plain s r c ws).books fetching
  refine ite (refused _ _) (ite (refused _ _) (ite (refused _ _) ?_))
  split
  · exact refused _ _
  · split
    · exact refused _ _
    · split
      · exact refused _ _
      · exact purchaseEvent s fetching r _ _

/-- An entry that CANCEL takes off the list is HELD (R124). -/
theorem serveCancel (fetching : s.req.service = .fetching) (r : Request) : Books s (serveCancel r s) := by
  have refused (c : AnswerCode) (ws : List Word) : Books s (s.answer r c ws) := (Served.plain s r c ws).books fetching
  refine ite (refused _ _) ?_
  split
  · exact refused _ _
  · next e found =>
    obtain ⟨he, -⟩ := PurchaseUnit.byHandle_some found
    split
    · next held =>
      have released : Books s (s.releaseHeld .cancelled e) :=
        of_cascade (.releaseHeld s _ e) (fun _ => .releaseHeld s _ e (State.inUse_of_mem he)) fun distinct _ =>
          .releaseHeld s _ e fun x hx committing here => by
            rw [eq_of_handle distinct hx he here, held] at committing
            cases committing
      exact released.trans ((Served.plain _ r _ _).books fetching)
    · exact refused _ _
    · exact refused _ _

/-- Every request, served once its record has been fetched. -/
theorem request {code : Nat} {f : Request → State → State} (h : requestService code = some f) (fetching : s.req.service = .fetching)
    (r : Request) : Books s (f r s) := by
  unfold requestService at h
  split at h <;> cases h
  case h_13 => exact servePurchase s fetching r
  case h_14 => exact serveCancel s fetching r
  all_goals refine Served.books ?_ fetching
  · exact .serveAttachRing s r
  · exact .serveDetachRing s r
  · exact .serveServiceInfo s r
  · exact .serveKeyInfo s r
  · exact .plain s r _ _
  · exact .serveSetPin s r
  · exact .serveSetGuestCeiling s r
  · exact .serveUnlock s r
  · exact .answer r _ _ .elsewhere
  · exact .plain s r _ _
  · exact .serveReadEvent s r
  · exact .serveQuote s r
  · exact .serveListPurchases s r
  · exact .plain s r _ _
  · exact .plain s r _ _

theorem serveAs {code : Nat} {f : Request → State → State} (h : requestService code = some f) : Books s (s.serveAs code f) := by
  rcases s.serveAs_cases code f with e | ⟨r, fetched, -, e⟩ <;> rw [e]
  · exact refl s
  · exact trans (t := s.fetchDone) elsewhere (request s.fetchDone h (State.fetched_service (s := s) fetched) r)

theorem serveUnknown : Books s s.serveUnknown := by
  unfold State.serveUnknown
  split
  · exact refl s
  · next r fetched => exact ite (refl s) (trans (t := s.fetchDone) elsewhere
      ((Served.plain _ r _ _).books (State.fetched_service (s := s) fetched)))

/-- A request is taken with no notice pending, so that the handles in use are those of the list (R109, R169). -/
theorem takeRequest : Books s s.takeRequest := by
  unfold State.takeRequest
  split
  · next takes =>
    simp only [State.canTake, Bool.and_eq_true, decide_eq_true_eq, List.isEmpty_iff] at takes
    obtain ⟨⟨⟨⟨⟨running, -⟩, -⟩, -⟩, unnoted⟩, -⟩ := takes
    refine of_halves .stands (fun w _ => ?_) fun _ b => b.ease .same .stands
    exact {
      distinct := w.distinct
      next := w.next
      few := w.few
      starting := fun other => absurd running other
      serving := fun _ => by
        refine ⟨s.purchases.entries.map (·.handle), by rw [List.length_map]; exact w.few, fun h used => ?_⟩
        rcases (State.handleInUse_iff _ h).1 used with ⟨e, he, rfl⟩ | ⟨n, hn, -⟩
        · exact List.mem_map_of_mem he
        · have hn : n ∈ s.req.notices := hn
          rw [unnoted] at hn
          cases hn }
  · exact refl s

/-! ### Records -/

theorem writeAnswer : Books s s.writeAnswer := by
  unfold State.writeAnswer
  split
  · next a h answering =>
    have issued : Books s (s.issueAnswer a) :=
      of_req rfl rfl (.refl _) rfl (fun serves => by cases serves) (fun _ => rfl) fun _ hn _ _ => hn
    refine ite (issued.trans ?_) (refl s)
    cases h with
    | none => exact refl _
    | some n => exact beginCommit _ _ _
  all_goals exact refl s

theorem writeNotice : Books s s.writeNotice := by
  unfold State.writeNotice
  split
  · exact refl s
  · next n rest pending =>
    exact ite (of_req rfl rfl (.refl _) rfl id id fun m hm _ _ => by rw [pending]; exact List.mem_cons_of_mem _ hm) (refl s)

/-- A bill notice changes the offer state of its record alone (R139). -/
theorem writeBill : Books s s.writeBill := by
  unfold State.writeBill
  split
  · next b l _ _ =>
    refine ite ?_ (refl s)
    refine trans (t := { s with bills := s.bills.markOffered l.record.seq s.events.uptime }) (mapLog s (fun x => ?_) _) ?_
    · split <;> rfl
    · exact of_req rfl rfl (.refl _) rfl id id fun _ hn _ _ => hn
  · exact refl s

end Books

end Sys2Proof.Machine
end

section
/-! PROOFS. Messages, start-up and store writes keep the counter and the law of R138, but for the scan that sets the counter; and the scan
keeps the law where the COMMIT places are sound (O8). -/

namespace Sys2Proof.Machine

namespace Books

variable (s : State)

/-! ### Messages -/

theorem announceKey (ks : Fin 64) (p : Phase) (w : Word) : Books s (s.announceKey ks p w) := by
  unfold State.announceKey
  split
  · exact elsewhere
  · exact ite (refl s) elsewhere

theorem applyBind (m : Message) : Books s (applyBind m s) := by
  unfold Machine.applyBind
  split
  · exact (of_quiet (.trans (.trans (.trans .elsewhere (.offer _ _ rfl)) (.offer _ _ rfl)) (.offerRoom _ _))).trans (raise _ rfl)
  · exact refl s

/-- UNBIND empties the titles list, of which the law says nothing (R156). -/
theorem applyUnbind : Books s (applyUnbind s) := by
  have emptied : Books s { s with purchases := { s.purchases with titles := [] } } :=
    of_halves .stands (fun w _ => ⟨w.distinct, w.next, w.few, w.starting, w.serving⟩) fun _ b => b.ease .same .stands
  refine ite ((emptied.trans (of_quiet (.trans (.trans (.trans (.trans ?_ (.offer _ _ rfl)) (.offer _ _ rfl)) (.offer _ _ rfl))
    (.offerRoom _ _)))).trans (raise _ rfl)) (refl s)
  exact .elsewhere

theorem applyHotelKey (m : Message) : Books s (applyHotelKey m s) := by
  unfold Machine.applyHotelKey
  split
  · exact refl s
  · exact refl s
  · exact of_quiet (.trans .elsewhere (.offer _ _ rfl))

theorem applyCheckIn (m : Message) : Books s (applyCheckIn m s) := by
  unfold Machine.applyCheckIn
  split
  · exact (of_quiet (.trans .elsewhere (.offerRoom _ _))).trans (raise _ rfl)
  all_goals exact refl s

/-- The entries that leave at a CHECK_OUT are HELD (R126). -/
theorem releaseAllHeld : Books s s.releaseAllHeld := by
  have released : Cascade s s.releaseAllHeld := .fold (fun s e => .releaseHeld s .checkout e) _ s
  refine of_cascade released (fun _ => ?_) fun distinct _ => ?_
  · exact .foldReleaseHeld s .checkout _ fun e he => State.inUse_of_mem (List.mem_filter.1 he).1
  · rw [State.releaseAllHeld_eq s distinct]
    exact .filterEntries s (·.state != .held) _ fun e _ committing => by rw [committing]; rfl

theorem applyCheckOut : Books s (applyCheckOut s) := by
  unfold Machine.applyCheckOut
  split
  · have opened : Books s ((s.setRoomState .checkout).offerRoom .head) := of_quiet (.trans .elsewhere (.offerRoom _ _))
    have started (u : State) : Books u u.startCheckoutTimer := elsewhere
    exact (((opened.trans (releaseAllHeld _)).trans (started _)).trans (raise _ rfl)).trans (testDrain _ _)
  all_goals exact refl s

theorem setSuspended (v : Bool) : Books s (s.setSuspended v) :=
  ite (refl s) ((of_quiet (.trans .elsewhere (.offerRoom _ _))).trans (raise _ rfl))

theorem applyPolicy (m : Message) : Books s (applyPolicy m s) :=
  ite (refl s) ((of_quiet (.trans .elsewhere (.offer _ _ rfl))).trans (fold (fun s h => beginCommit s .head h) _ _))

/-- An acknowledged record's write carries no new record (R143). -/
theorem ackWrite (l : LogRecord) : Books s (s.ackWrite l) := by
  unfold State.ackWrite
  split
  · exact refl s
  · exact ite (offer s _ rfl) (offer s _ rfl)

theorem ackUpTo (n : Nat) : Books s (s.ackUpTo n) := by
  have removed := filterLog s fun l => decide (n < l.record.seq)
  unfold State.ackUpTo
  dsimp only
  split
  · exact removed
  · exact (removed.trans (offerRoom _ _)).trans (fold (fun s l => ackWrite s l) _ _)

theorem applyBillAck (m : Message) : Books s (applyBillAck m s) := by
  refine ite (refl s) ?_
  split
  · exact testDrain s _
  · exact ite ((ackUpTo s _).trans (testDrain _ _)) (testDrain s _)

theorem applyKey (m : Message) : Books s (applyKey m s) := by
  unfold Machine.applyKey
  split
  · exact refl s
  · refine ite (fold (fun u j => ?_) _ s) (refl s)
    unfold applyKeyEntry
    dsimp only
    split
    · exact ite (announceKey u _ _ _) (ite (announceKey u _ _ _) (refl u))
    · exact refl u

/-- An announcement changes the event table, and ends purchases of events that are over (R100 to R104). -/
theorem announce (a : EventEntry) : Books s (s.announce a) := by
  unfold State.announce
  split
  · unfold State.announceKnown
    split
    · exact elsewhere
    · exact ite elsewhere (ite ((endEvent s _ _).trans elsewhere) (refl s))
  · refine ite (endPurchase s _ _) ?_
    split
    · exact ite elsewhere (ite ((endPurchase s _ _).trans elsewhere) (refl s))
    · unfold State.announceNew
      refine ite elsewhere ?_
      split
      · exact refl s
      · exact elsewhere

theorem applyEvent (m : Message) : Books s (applyEvent m s) := by
  refine ite (fold (fun u j => ?_) _ s) (refl s)
  split
  · exact refl u
  · exact announce u _

theorem applySlate (m : Message) : Books s (applySlate m s) := by
  unfold Machine.applySlate
  dsimp only
  split
  · exact elsewhere
  · exact refl s

theorem applyKind (k : MsgKind) (m : Message) : Books s (applyKind k m s) := by
  cases k with
  | bind => exact applyBind s m
  | unbind => exact applyUnbind s
  | checkIn => exact applyCheckIn s m
  | checkOut => exact applyCheckOut s
  | setCap => exact ite (of_quiet (.trans .elsewhere (.offerRoom _ _))) (refl s)
  | entitle => exact ite (refl s) elsewhere
  | policy => exact applyPolicy s m
  | billAck => exact applyBillAck s m
  | suspend => exact setSuspended s true
  | resume => exact setSuspended s false
  | hotelKey => exact applyHotelKey s m
  | clearPin => exact ite (refl s) (of_quiet (.trans .elsewhere (.offerRoom _ _)))
  | key => exact applyKey s m
  | serviceMap => exact ite elsewhere (refl s)
  | event => exact applyEvent s m
  | time => exact elsewhere
  | slate => exact applySlate s m

theorem applyHead (k : MsgKind) (m : Message) : Books s (s.applyHead k m) := by
  have consumed : Books s (s.consumeSerial k m.serial) := by
    unfold State.consumeSerial
    split
    · exact refl s
    · exact of_quiet (.trans .elsewhere (.offer _ _ rfl))
  exact (consumed.trans (applyKind _ k m)).trans (ite elsewhere elsewhere)

theorem dealHeadAs (k : MsgKind) : Books s (s.dealHeadAs k) := by
  rcases s.dealHeadAs_cases k with e | ⟨m, -, e⟩ <;> rw [e]
  · exact refl s
  · exact applyHead s k m

theorem dealHead : Books s s.dealHead := by
  rcases s.dealHead_cases with e | e | ⟨k, m, -, e⟩ <;> rw [e]
  · exact refl s
  · exact elsewhere
  · exact applyHead s k m

end Books

/-! ### The end of start-up (R129, R177) -/

/-- Rebuilt entries are COMMITTED, under handles in increasing order from `h` on (R129). -/
theorem rebuiltEntries_spec (h : Nat) (l : List CommitRecord) :
    (∀ e ∈ rebuiltEntries h l, h ≤ e.handle ∧ e.state = .committed) ∧ ((rebuiltEntries h l).map (·.handle)).Nodup := by
  induction l generalizing h with
  | nil => exact ⟨fun e he => absurd he List.not_mem_nil, List.nodup_nil⟩
  | cons r l ih =>
    obtain ⟨later, distinct⟩ := ih (h + 1)
    constructor
    · intro e he
      rcases List.mem_cons.1 he with rfl | he
      · exact ⟨Nat.le_refl h, rfl⟩
      · exact ⟨Nat.le_of_succ_le (later e he).1, (later e he).2⟩
    · refine List.nodup_cons.2 ⟨fun again => ?_, distinct⟩
      obtain ⟨e, he, same⟩ := List.mem_map.1 again
      have above := (later e he).1
      have same : e.handle = h := same
      omega

/-- The purchase list at the end of start-up is sound: at most 8 entries, all COMMITTED, under distinct handles below the next one
(R108, R109, R129). -/
theorem Scanned.purchasesTaken_spec (x : Scanned) : (∀ e ∈ x.purchasesTaken.entries, e.state = .committed) ∧
    x.purchasesTaken.handlesDistinct ∧ 1 ≤ x.purchasesTaken.nextHandle ∧ x.purchasesTaken.nextHandle ≤ 255 := by
  have few : x.rebuiltRecords.length ≤ 8 := by
    rw [Scanned.rebuiltRecords, List.length_drop]
    have : Config.maxPurchases = 8 := rfl
    omega
  refine ⟨fun e he => ((rebuiltEntries_spec 1 _).1 e he).2, (rebuiltEntries_spec 1 _).2, Nat.le_add_left 1 _, ?_⟩
  show x.rebuiltRecords.length + 1 ≤ 255
  omega

section
variable {s : State}

/-- While the part is STARTING there are no entries, so no record is to come. -/
theorem State.BooksHold.starting_nothing (b : s.BillLaw) (w : s.HandlesSound) (starting : s.req.startUp ≠ .running) :
    s.purchases.entries = [] ∧ s.recordsToCome = [] := by
  have none := (w.starting starting).2
  refine ⟨none, State.BillLaw.nothingToCome b fun e he => ?_⟩
  rw [none] at he
  cases he

/-- Entries that are all COMMITTED hold no charge. -/
theorem chargedCount_committed {l : List PurchaseEntry} (h : ∀ e ∈ l, e.state = .committed) : chargedCount l = 0 :=
  List.countP_eq_zero.2 fun e he => by simp [e.heldCharge_committed (h e he)]

/-- The log as it was, entries that are all COMMITTED, and no record to come. -/
theorem State.BooksHold.of_committed {t : State} (b : s.BillLaw) (bills : t.bills = s.bills) (coming : t.recordsToCome = [])
    (committed : ∀ e ∈ t.purchases.entries, e.state = .committed) : t.BillLaw where
  rising := by
    rw [bills, coming, List.map_nil, List.append_nil]
    exact (List.pairwise_append.1 b.rising).1
  below := by
    rw [bills, coming, List.append_nil]
    exact fun r hr => b.below r (List.mem_append_left _ hr)
  behind := fun r hr => by rw [coming] at hr; cases hr
  committing := fun e he => PurchaseEntry.Follows.lawful (y := { e with origin := .taken, charge := 1 }) (.inl (committed e he))
    ⟨fun _ => Nat.one_ne_zero, fun _ => rfl⟩
  few32 := by
    rw [bills, chargedCount_committed committed]
    exact Nat.le_trans (Nat.le_add_right _ _) b.few32

/-- The owners take what was recovered: entries that are COMMITTED, beside the log as the scan left it (R129, R177). -/
theorem State.takeRecovered_spec (s : State) (x : Scanned) : (s.takeRecovered x).bills = s.bills ∧
    (s.takeRecovered x).purchases = x.purchasesTaken ∧ (s.takeRecovered x).req = s.req ∧
    (s.takeRecovered x).store.newRecords.Sublist s.store.newRecords := by
  have freed (l : List CommitRecord) (u : State) : Quiet u (u.freeRecords l) := by
    refine Quiet.fold (fun u r => ?_) l u
    unfold State.freeIfAcked
    dsimp only
    refine .ite ?_ (.refl u)
    split
    · exact .offer u _ rfl
    · exact .refl u
  let room := if x.roomState.inStay then x.roomTaken.recharged x.charges else x.roomTaken
  let taken : State := { s with
    msgs := { s.msgs with identity := x.identity, room := room, policy := x.policyTaken, serials := x.serialsTaken }
    lock := x.lockTaken
    purchases := x.purchasesTaken }
  have quiet : Quiet taken (s.takeRecovered x) := (Quiet.ite (.refl taken) (.offerRoom taken .part)).trans (freed _ _)
  exact ⟨quiet.bills, quiet.purchases, quiet.req, quiet.records⟩

/-- The end of start-up, before the START notice is raised and the part is RUNNING. -/
def State.startedUp (s : State) : State :=
  ((s.startTimer.takeRecovered (s.req.scanned.getD Scanned.nothing)).startUpLockout).startUpCheckout

theorem State.startedUp_eases (s : State) :
    let u := s.startTimer.takeRecovered (s.req.scanned.getD Scanned.nothing)
    CounterRises u s.startedUp ∧ Eases u s.startedUp ∧ BillsEase u s.startedUp := by
  intro u
  have cascade (u : State) : Cascade u u.startUpLockout ∧ Cascade u u.startUpCheckout :=
    ⟨.ite { Cascade.refl u with } (.refl u),
      .ite (.trans (t := u.startCheckoutTimer) { Cascade.refl u with } (.testDrain _ _)) (.refl u)⟩
  have eases (u : State) : Eases u u.startUpLockout ∧ Eases u u.startUpCheckout :=
    ⟨.ite (.of_eq rfl rfl rfl rfl rfl rfl) (.refl u),
      .ite (.trans (t := u.startCheckoutTimer) { Eases.refl u with room := .inl ⟨rfl, rfl, Nat.le_refl _⟩ } (.testDrain _ _))
        (.refl u)⟩
  have books (u : State) : BillsEase u u.startUpLockout ∧ BillsEase u u.startUpCheckout :=
    ⟨.ite .same (.refl u), .ite (.trans (t := u.startCheckoutTimer) .same (.testDrain _ _)) (.refl u)⟩
  exact ⟨((cascade u).1.trans (cascade _).2).counter, (eases u).1.trans (eases _).2, (books u).1.trans (books _).2⟩

theorem State.endStartUp_eq (s : State) :
    let v := s.startedUp.raise (s.startedUp.startNotice (s.req.scanned.getD Scanned.nothing))
    s.endStartUp = { v with req := { v.req with startUp := .running, scanned := none } } := rfl

/-- The end of start-up makes the part RUNNING with a sound purchase list, the log and the counter being those of the scan (R129, R177). -/
theorem Books.endStartUp (starting : s.req.startUp ≠ .running) : Books s s.endStartUp := by
  obtain ⟨bills, purchases, req, records⟩ := State.takeRecovered_spec s.startTimer (s.req.scanned.getD Scanned.nothing)
  obtain ⟨committed, distinct, next⟩ := (s.req.scanned.getD Scanned.nothing).purchasesTaken_spec
  obtain ⟨rises, handles, books⟩ := s.startedUp_eases
  rw [State.endStartUp_eq]
  generalize s.startTimer.takeRecovered (s.req.scanned.getD Scanned.nothing) = u at *
  generalize s.startedUp = v at *
  refine of_halves (fun n given => rises n (by rw [bills]; exact given)) (fun w _ => ?_) fun w b => ?_
  · exact {
      distinct := handles.distinct (purchases ▸ distinct)
      next := by
        show 1 ≤ v.purchases.nextHandle ∧ v.purchases.nextHandle ≤ 255
        rw [handles.next, purchases]
        exact next
      few := by
        have fewer := handles.handles.length_le
        rw [List.length_map, List.length_map, purchases] at fewer
        exact Nat.le_trans fewer (Scanned.rebuilt_length _)
      starting := fun other => absurd rfl other
      serving := fun serves => by
        have fetching := handles.fetching serves
        rw [req, State.startTimer_req, (w.starting starting).1] at fetching
        cases fetching }
  · have nothing := (State.BooksHold.starting_nothing b w starting).2
    have coming : u.recordsToCome = [] := by
      rw [State.recordsToCome_eq] at nothing ⊢
      have empty : s.startTimer.store.newRecords = [] := (List.append_eq_nil_iff.1 nothing).1
      rw [empty, List.sublist_nil] at records
      rw [records, purchases]
      rfl
    have taken : u.BillLaw := State.BooksHold.of_committed b bills coming (by rw [purchases]; exact committed)
    exact State.BillLaw.ease taken (books.trans .same) rises

end

end Sys2Proof.Machine
end

section
/-! PROOFS. Store writes, the scan and every command keep the counter and the law of R138 (O8). -/

namespace Sys2Proof.Machine

/-- The state in which the started write has left the queue, and the places are `p`. -/
def State.left (rest : List QueuedWrite) (p : Places) (s : State) : State :=
  { s with store := { s.store with queue := rest, places := p } }

namespace Books

variable (s : State)

/-! ### Store writes (R133, R134) -/

theorem endStartUpIf : Books s s.endStartUpIf := by
  unfold State.endStartUpIf
  split
  · next awaiting => exact endStartUp (by rw [awaiting]; decide)
  · exact refl s
  · exact refl s

/-- A request that waits for its write to end is answered. -/
theorem writeEnded (kept : Bool) : Books s { s with req := s.req.writeEnded kept } := by
  obtain ⟨notices, fetching, idle⟩ : (s.req.writeEnded kept).notices = s.req.notices ∧
      ((s.req.writeEnded kept).service = .fetching → s.req.service = .fetching) ∧
      (s.req.service = .idle → (s.req.writeEnded kept).service = .idle) := by
    rw [RequestUnit.writeEnded_eq]
    split
    · next service => exact ⟨rfl, Service.noConfusion, fun idle => by rw [service] at idle; cases idle⟩
    · exact ⟨rfl, id, id⟩
  exact setReq s (s.req.writeEnded_startUp kept) notices fetching idle

/-- A request that waits for its write to join the queue is answered. -/
theorem writeJoined : Books s { s with req := s.req.writeJoined } := by
  rw [RequestUnit.writeJoined_eq]
  split
  · next service => exact setReq s rfl rfl Service.noConfusion fun idle => by rw [service] at idle; cases idle
  · exact refl s

/-- Places of the store changed. -/
theorem leaving (p : Places) : Books s (s.leaving p) := of_quiet ⟨rfl, rfl, rfl, .refl _⟩

/-- The verified write leaves the queue; a new COMMIT record completes its commit (R121, R134). -/
theorem verified {q : QueuedWrite} {rest : List QueuedWrite} (queue : s.store.queue = q :: rest) (p : Places) :
    Books s ((s.left rest p).writeDone q) := by
  have records : s.store.newRecords = (q.write.newRecord?).toList ++ (s.left rest p).store.newRecords := by
    unfold Store.newRecords
    rw [queue, List.cons_append, List.filterMap_cons]
    cases q.write.newRecord? <;> rfl
  have left : Books s (s.left rest p) := of_quiet ⟨rfl, rfl, rfl, by rw [records]; exact List.sublist_append_right _ _⟩
  unfold State.writeDone
  split
  · exact (left.trans (ite (writeEnded _ true) (refl _))).trans (endStartUpIf _)
  · next i r write =>
    split
    · exact left
    · next new =>
      have coming : s.recordsToCome = r :: (s.left rest p).recordsToCome := by
        have new : (StoreWrite.commit i (some r)).newRecord? = some r := if_neg new
        rw [State.recordsToCome_eq, State.recordsToCome_eq, records, write, new]
        rfl
      refine of_halves (Cascade.completeCommit (s.left rest p) r).counter (fun w b => ?_) fun w b => ?_
      · exact (Eases.completeCommit (s.left rest p) r w.distinct).handlesSound (w.of_same rfl rfl id id fun _ hn _ _ => hn)
      · unfold State.BillLaw at b
        rw [coming] at b
        exact State.Completing.completeCommit (s := s.left rest p) ⟨b.rising, b.below, b.behind, b.committing, b.few32⟩ w.distinct
  · exact ite left (left.trans elsewhere)
  all_goals exact left

theorem completeWrite (v : Verify) : Books s (s.completeWrite v) := by
  cases queue : s.store.queue with
  | nil => rw [State.completeWrite_idle v queue]; exact refl s
  | cons q rest =>
    by_cases passed : v = .verified
    · rw [passed, State.completeWrite_verified queue]
      exact verified s queue _
    · rw [State.completeWrite_failed queue passed]
      exact (((leaving s _).trans (storeFault _)).trans (ite (commitEnded _ .part) (refl _))).trans (endStartUpIf _)

theorem advanceLine : Books s s.advanceLine := by
  have advanced : Books s { s with store := s.store.advance } :=
    of_quiet ⟨rfl, rfl, rfl, by rw [s.store.advance_newRecords]⟩
  exact (advanced.trans (ite (refl _) (writeJoined _))).trans (ite elsewhere (refl _))

/-! ### Every command but RESET and a scan's end -/

/-- The counter and the law through every command but RESET and START_UP_SCAN_COMPLETE (R137, R138). -/
theorem of_exec {c : Instr} {s t : State} (ran : exec c s = .next t) (notReset : ∀ straps performed, c ≠ .reset straps performed)
    (notScan : ∀ scan, c ≠ .startUpScanComplete scan) : Books s t := by
  cases c with
  | reset straps performed => exact absurd rfl (notReset straps performed)
  | startUpScanComplete e => exact absurd rfl (notScan e)
  | eventEnd | grantExpiry | lockoutExpiry | resendDue | rebuiltEntryLimit | checkoutExpiry | commitPairOffer =>
    cases ran; exact takeOwed s _
  | streamSlotWrite w | streamSlotRead w | controlSlotWrite w | requestProduceWrite w | consumeIndexWrite w
  | indexWordWriteIgnored w | passedTransactionArrival w => exact of_arrival ran
  | attachRing | detachRing | serviceInfo | keyInfo | slateInfo | setPin | setGuestCeiling | unlock | lockNow | lockInfo | readEvent
  | quote | purchase | cancel | listPurchases | billInfo | status => cases ran; exact (settle s).trans (serveAs _ rfl)
  | bind | unbind | checkIn | checkOut | setCap | entitle | policy | billAck | suspend | resume | hotelKey | clearPin | key
  | serviceMap | event | time | slate => cases ran; exact (settle s).trans (dealHeadAs _ _)
  | storeWriteComplete v => cases ran; exact (settle s).trans (completeWrite _ v)
  | storeWaitingLineAdvance => cases ran; exact (settle s).trans (advanceLine _)
  | readWordsReturn => cases ran; exact (settle s).trans (returnRead _)
  | msideGrant => cases ran; exact (settle s).trans (grant _)
  | requestTake => cases ran; exact (settle s).trans (takeRequest _)
  | unknownRequest => cases ran; exact (settle s).trans (serveUnknown _)
  | answerRecordWrite => cases ran; exact (settle s).trans (writeAnswer _)
  | noticeWrite => cases ran; exact (settle s).trans (writeNotice _)
  | billNoticeWrite => cases ran; exact (settle s).trans (writeBill _)
  | messageAtHead => cases ran; exact (settle s).trans (dealHead _)
  | tick => cases ran; exact (settle s).trans (takeTick _)

end Books
end Sys2Proof.Machine
end

section
/-! PROOFS. The start-up scan and the law of R138 (O8): what is owed while the part is STARTING leaves the places of the store alone, and
the scan recovers a log and a counter that keep the law. -/

namespace Sys2Proof.Machine

/-! ### What is owed before the scan -/

/-- No entry, no held pair, and the places of the store are `p`. -/
structure State.Bare (p : Places) (s : State) : Prop where
  entries : s.purchases.entries = []
  held    : s.purchases.heldPairs = []
  places  : s.store.places = p

namespace State.Bare

variable {p : Places} {s : State}

theorem elsewhere {t : State} (h : s.Bare p) (same : (t.purchases, t.store) = (s.purchases, s.store) := by rfl) : t.Bare p := by
  obtain ⟨purchases, store⟩ := by simpa only [Prod.mk.injEq] using same
  exact ⟨purchases ▸ h.entries, purchases ▸ h.held, store ▸ h.places⟩

/-- No entry is of any event. -/
theorem byEvent (h : s.Bare p) (id : BitVec 32) : s.purchases.byEvent id = none := by
  unfold PurchaseUnit.byEvent
  rw [h.entries]
  rfl

theorem endEvent (h : s.Bare p) (c : Caller) (id : BitVec 32) : (s.endEvent c id).Bare p := by
  have ended : s.endPurchase c id = s := by
    unfold State.endPurchase
    rw [h.byEvent id]
  unfold State.endEvent
  rw [ended]
  exact h.elsewhere

theorem foldMark (h : s.Bare p) (id : BitVec 32) : (s.foldMark id).Bare p := by
  unfold State.foldMark
  split
  · exact h
  · rw [h.byEvent id]
    dsimp only
    split
    · unfold State.freeLookSecond
      split
      · exact h.elsewhere
      · exact h.elsewhere
    · exact h.elsewhere

theorem foldMarks (h : s.Bare p) (ids : List (BitVec 32)) : (s.foldMarks ids).Bare p := by
  unfold State.foldMarks
  induction ids generalizing s with
  | nil => exact h
  | cons id ids ih => exact ih (h.foldMark id)

/-- The room enters VACANT: writes are offered, and the places stay as they are until one has ended. -/
theorem enterVacant (h : s.Bare p) (c : Caller) : (s.enterVacant c).Bare p := by
  rw [State.enterVacant_eq, h.entries]
  exact ⟨rfl, h.held, by simp [h.places]⟩

theorem expireCheckout (h : s.Bare p) : s.expireCheckout.Bare p := by
  unfold State.expireCheckout
  split
  · split
    · dsimp only
      split
      · exact h.elsewhere
      · exact State.Bare.enterVacant h.elsewhere .part
    · exact h
  · exact h

theorem runOwed (h : s.Bare p) (o : Owed) : (s.runOwed o).Bare p := by
  cases o with
  | eventEnd id next => exact (h.endEvent .part id).foldMarks next
  | grantExpiry | lockoutExpiry | resendDue => exact h.elsewhere
  | rebuiltEntryLimit =>
    have limited : s.limitRebuilt = s := by
      unfold State.limitRebuilt
      rw [h.entries]
      rfl
    show s.limitRebuilt.Bare p
    rw [limited]
    exact h
  | checkoutExpiry => exact h.expireCheckout
  | commitPairOffer =>
    have offered : s.offerHeldPair = s := by
      unfold State.offerHeldPair
      rw [h.held]
    show s.offerHeldPair.Bare p
    rw [offered]
    exact h

theorem settle (h : s.Bare p) : s.settle.Bare p := by
  unfold State.settle
  generalize s.owed = l
  induction l generalizing s with
  | nil => exact h.elsewhere
  | cons o os ih => exact ih (s := s.doOwed o os) (h.runOwed o).elsewhere

end State.Bare

/-! ### What the scan finds -/

/-- A place found failing hands no record over, and another the record it held. -/
theorem Place.found_scan {α : Type} (fails : Bool) (x : Place α) : (x.scan fails).found = none ∨ (x.scan fails).found = x.found := by
  cases fails with
  | false => exact .inr rfl
  | true => exact .inl rfl

/-- The records that the scan finds are among those that the COMMIT places hold, in their order. -/
theorem Places.scan_commits (failed : BitVec 54) (p : Places) :
    (p.scan failed).recovered.commits.Sublist (p.commits.toList.filterMap Place.found) := by
  have fewer {α : Type} (f g : α → Option CommitRecord) (h : ∀ a, f a = none ∨ f a = g a) (l : List α) :
      (l.filterMap f).Sublist (l.filterMap g) := by
    induction l with
    | nil => exact .refl _
    | cons a l ih =>
      rw [List.filterMap_cons, List.filterMap_cons]
      rcases h a with none | same
      · rw [none]
        cases g a with
        | none => exact ih
        | some r => exact ih.cons r
      · rw [same]
        cases g a with
        | none => exact ih
        | some r => exact ih.cons_cons r
  have listed : p.commits.toList = (List.finRange 48).map fun i => p.commits[i] := by
    refine List.ext_getElem (by simp) fun i _ _ => ?_
    simp
  have scanned : (p.scan failed).commits.toList = (List.finRange 48).map fun i => p.commits[i].scan (failed.getLsbD (6 + i.val)) := by
    refine List.ext_getElem (by simp) fun i _ _ => ?_
    simp [Places.scan]
  unfold Places.recovered
  dsimp only
  rw [listed, scanned, List.filterMap_map, List.filterMap_map]
  exact fewer _ _ (fun i => Place.found_scan _ _) _

/-- The log recovered: the records found that are not acknowledged, in increasing order (R145). -/
theorem Scanned.log_records (x : Scanned) : x.log.map (·.record) = sortBySeq (x.commits.filter fun r => !r.acked) := by
  unfold Scanned.log
  rw [List.map_map]
  exact List.map_id _

/-- A record found in the range of R135 is below the counter recovered (R145). -/
theorem Scanned.below_counter {x : Scanned} {r : CommitRecord} (found : r ∈ x.commits) (inRange : r.seq < Config.lastCounter) :
    r.seq < x.counter := by
  have highest := (highestOf_spec (x.commits.map (·.seq))).1 r.seq (List.mem_map_of_mem found)
  exact lt_min inRange (Nat.lt_of_lt_of_le (Nat.lt_succ_of_le highest) (Nat.le_max_right _ _))

/-- The log and the counter recovered keep the law, where the records found are distinct, in their range and few enough. -/
theorem Scanned.log_sound {x : Scanned} {l : List CommitRecord} (found : x.commits.Sublist l) (distinct : (l.map (·.seq)).Nodup)
    (inRange : ∀ r ∈ l, r.seq < Config.lastCounter) (unacked : l.countP (fun r => !r.acked) ≤ Config.maxBills) :
    (x.log.map (·.record.seq)).Pairwise (· < ·) ∧ (∀ r ∈ x.log.map (·.record), r.seq < x.counter) ∧
      x.log.length ≤ Config.maxBills := by
  have perm := sortBySeq_perm (x.commits.filter fun r => !r.acked)
  have within : ∀ r ∈ x.log.map (·.record), r ∈ x.commits := fun r hr => by
    rw [x.log_records] at hr
    exact (List.mem_filter.1 (perm.mem_iff.1 hr)).1
  refine ⟨?_, fun r hr => Scanned.below_counter (within r hr) (inRange r (found.subset (within r hr))), ?_⟩
  · have seqs : x.log.map (·.record.seq) = (sortBySeq (x.commits.filter fun r => !r.acked)).map (·.seq) := by
      rw [← x.log_records, List.map_map]
      rfl
    have sorted := List.pairwise_map.2 (sortBySeq_sorted (x.commits.filter fun r => !r.acked))
    have apart := ((perm.map (·.seq)).nodup_iff).2 (distinct.sublist ((List.filter_sublist.trans found).map _))
    rw [seqs]
    exact (sorted.and apart).imp fun ⟨le, ne⟩ => Nat.lt_of_le_of_ne le ne
  · rw [← List.length_map, x.log_records, perm.length_eq, ← List.countP_eq_length_filter]
    exact Nat.le_trans found.countP_le unacked

/-! ### The scan keeps the law -/

section
variable {s : State}

/-- While the part is STARTING, with no entry and no record to come, a log that keeps the law by itself is all that is asked. -/
theorem State.HandlesSound.starting_billsSound {t : State} (w : t.HandlesSound) (entries : t.purchases.entries = [])
    (nothing : t.recordsToCome = []) (rising : (t.bills.log.map (·.record.seq)).Pairwise (· < ·))
    (below : ∀ r ∈ t.bills.log.map (·.record), ∃ n, t.bills.counter = some n ∧ r.seq < n)
    (few : t.bills.log.length ≤ Config.maxBills) : t.BillsSound where
  toHandlesSound := w
  rising := by rw [nothing]; simpa using rising
  below := by rw [nothing, List.append_nil]; exact below
  behind := fun r hr => by rw [nothing] at hr; cases hr
  committing := fun e he => by rw [entries] at he; cases he
  few32 := by rw [entries]; exact few

/-- A store that cannot be read leaves an empty log (R144). -/
theorem State.BillsSound.scanUnreadable (w : s.BillsSound) (scanning : s.req.startUp = .scanning) : s.scanUnreadable.BillsSound := by
  obtain ⟨h, b⟩ := s.billsSound_iff.1 w
  obtain ⟨entries, nothing⟩ := State.BooksHold.starting_nothing b h (by rw [scanning]; decide)
  unfold State.scanUnreadable
  refine (Books.endStartUp ?_).sound (State.HandlesSound.starting_billsSound ?_ entries nothing .nil
    (fun r hr => absurd hr List.not_mem_nil) (Nat.zero_le _))
  · show s.req.startUp ≠ .running
    rw [scanning]
    decide
  · exact h.of_same rfl rfl id id fun _ hn _ _ => hn

/-- The empty writes of start-up carry no record. -/
theorem Places.emptyWrites_newRecord {p : Places} {w : StoreWrite} (h : w ∈ p.emptyWrites) : w.newRecord? = none := by
  have one {c : Bool} {v : StoreWrite} (hw : w ∈ if c then [v] else []) (hv : v.newRecord? = none) : w.newRecord? = none := by
    split at hw
    · rw [List.mem_singleton.1 hw, hv]
    · cases hw
  simp only [Places.emptyWrites, List.mem_append] at h
  rcases h with ((((h | h) | h) | h) | h) | h
  · exact one h rfl
  · exact one h rfl
  · exact one h rfl
  · exact one h rfl
  · exact one h rfl
  · obtain ⟨i, -, found⟩ := List.mem_filterMap.1 h
    split at found <;> cases found
    rfl

/-- Writes that carry no new record, offered one after another. -/
theorem Quiet.offers (c : Caller) (l : List StoreWrite) (none : ∀ w ∈ l, w.newRecord? = none) (s : State) :
    Quiet s (l.foldl (fun s w => s.offer c w) s) := by
  induction l generalizing s with
  | nil => exact refl s
  | cons w l ih => exact (offer s c (none w List.mem_cons_self)).trans (ih (fun v hv => none v (List.mem_cons_of_mem _ hv)) _)

/-- A scan of sound COMMIT places recovers a counter and a log that keep the law (R145). -/
theorem State.BillsSound.scanRead (w : s.BillsSound) (scanning : s.req.startUp = .scanning) (sound : s.store.places.RecordsSound)
    (failed : BitVec 54) : (s.scanRead failed).BillsSound := by
  obtain ⟨h, b⟩ := s.billsSound_iff.1 w
  obtain ⟨entries, nothing⟩ := State.BooksHold.starting_nothing b h (by rw [scanning]; decide)
  obtain ⟨rising, below, few⟩ :=
    Scanned.log_sound (Places.scan_commits failed s.store.places) sound.distinct sound.inRange sound.unacked
  unfold State.scanRead
  generalize s.store.places.scan failed = p at *
  dsimp only
  refine (Books.of_quiet (.trans (.offer _ _ rfl) (.offers _ _ (fun _ => Places.emptyWrites_newRecord) _))).sound ?_
  refine State.HandlesSound.starting_billsSound ?_ entries nothing rising (fun r hr => ⟨_, rfl, below r hr⟩) few
  exact {
    distinct := h.distinct
    next := h.next
    few := h.few
    starting := fun _ => h.starting (by rw [scanning]; decide)
    serving := h.serving }

/-- The end of a scan keeps the law, where the places it reads are sound. -/
theorem State.BillsSound.scanComplete (w : s.BillsSound) (e : ScanEnd)
    (sound : s.req.startUp = .scanning → (∃ failed, e = .read failed) → s.store.places.RecordsSound) :
    (s.scanComplete e).BillsSound := by
  unfold State.scanComplete
  split
  · next scanning =>
    split
    · exact w.scanUnreadable scanning
    · next failed => exact w.scanRead scanning (sound scanning ⟨failed, rfl⟩) failed
  · exact w
  · exact w

/-- What is owed while the part is scanning leaves the places of the store alone. -/
theorem State.BillsSound.settle_places (w : s.BillsSound) (scanning : s.req.startUp = .scanning) :
    s.settle.store.places = s.store.places := by
  obtain ⟨h, b⟩ := s.billsSound_iff.1 w
  obtain ⟨entries, nothing⟩ := State.BooksHold.starting_nothing b h (by rw [scanning]; decide)
  have bare : s.Bare s.store.places := ⟨entries, (List.append_eq_nil_iff.1 nothing).2, rfl⟩
  exact bare.settle.places

end

end Sys2Proof.Machine

open Sys2Proof Sys2Proof.Machine

/-- Settles O8: a step other than RESET and a scan's end neither lowers the counter nor breaks the law; a reset empties the log; and a
scan of sound places finds a log below the counter it sets. -/
theorem counterNeverDecreases : Obligations.CounterNeverDecreases := by
  refine ⟨fun c s t n ran notReset notScan given => (Books.of_exec ran notReset notScan).counter n given,
    fun c s t ran places sound => ?_⟩
  by_cases reset : ∃ straps performed, c = .reset straps performed
  · obtain ⟨straps, performed, rfl⟩ := reset
    cases ran
    exact { State.reset_billsSound with }
  · by_cases scan : ∃ e, c = .startUpScanComplete e
    · obtain ⟨e, rfl⟩ := scan
      cases ran
      refine ((Books.settle s).sound sound).scanComplete e fun scanning ⟨failed, read⟩ => ?_
      rw [(Cascade.settle s).startUp] at scanning
      rw [sound.settle_places scanning]
      exact places ⟨failed, congrArg _ read⟩
    · exact (Books.of_exec ran (fun a b h => reset ⟨a, b, h⟩) fun e h => scan ⟨e, h⟩).sound sound
end

section
/-! PROOFS. POLICY and BILL_ACK (O50): the values of a POLICY message clamped, the rounding step nearest to one, and the writes of the
records that a BILL_ACK removes from the log. -/

namespace Sys2Proof.Machine

/-! ### POLICY (R165, R166) -/

theorem clamp_zero (hi n : Nat) : clamp 0 hi n = min hi n := (clamp_eq (Nat.zero_le hi) n).trans (Nat.zero_max _)

/-- The rounding step by the range of the value: 3, 7, 17, 37 and 75 are the last values nearest to 1, 5, 10, 25 and 50. -/
theorem clampStep_ranges (n : Nat) : (n ≤ 3 ∧ clampStep n = 1) ∨ (3 < n ∧ n ≤ 7 ∧ clampStep n = 5) ∨
    (7 < n ∧ n ≤ 17 ∧ clampStep n = 10) ∨ (17 < n ∧ n ≤ 37 ∧ clampStep n = 25) ∨ (37 < n ∧ n ≤ 75 ∧ clampStep n = 50) ∨
    (75 < n ∧ clampStep n = 100) := by
  unfold clampStep
  repeat' split
  all_goals omega

theorem clampStep_mem (n : Nat) : clampStep n ∈ [1, 5, 10, 25, 50, 100] := by
  rcases clampStep_ranges n with ⟨-, h⟩ | ⟨-, -, h⟩ | ⟨-, -, h⟩ | ⟨-, -, h⟩ | ⟨-, -, h⟩ | ⟨-, h⟩ <;> rw [h] <;> decide

/-- No rounding step is nearer to the value, and of two as near the smaller is taken. -/
theorem clampStep_nearest (n : Nat) {x : Nat} (h : x ∈ [1, 5, 10, 25, 50, 100]) :
    let away (x : Nat) : Nat := (n - x) + (x - n)
    away (clampStep n) < away x ∨ (away (clampStep n) = away x ∧ clampStep n ≤ x) := by
  simp only [List.mem_cons, List.not_mem_nil, or_false] at h
  have ranges := clampStep_ranges n
  generalize clampStep n = step at *
  intro away
  dsimp only [away]
  omega

/-- No HELD entry is watched to the threshold, so no commit begins. -/
theorem none_due {l : List PurchaseEntry} {n : Nat} (h : ∀ e ∈ l, e.state = .held → e.watched < n) :
    (l.filter fun e => e.state == .held && decide (n ≤ e.watched)) = [] := by
  refine List.filter_eq_nil_iff.2 fun e he due => ?_
  obtain ⟨held, watched⟩ := Bool.and_eq_true_iff.1 due
  have := h e he (eq_of_beq held)
  have := of_decide_eq_true watched
  omega

/-! ### BILL_ACK (R142, R143) -/

/-- The store after the write for a record acknowledged, beside the purchase list `l`: its place rewritten acknowledged while a COMMITTED
entry carries it, or freed. -/
def Store.acknowledge (l : List PurchaseEntry) (st : Store) (r : LogRecord) : Store :=
  match st.placeOf r.record.seq with
  | none => st
  | some i =>
    if ∃ e ∈ l, e.state = .committed ∧ e.seq = some r.record.seq then
      st.offer .head (.commit i (some { r.record with acked := true }))
    else st.offer .head (.commit i none)

/-- The write for an acknowledged record changes the store alone. -/
theorem State.ackWrite_eq (s : State) (r : LogRecord) :
    s.ackWrite r = { s with store := s.store.acknowledge s.purchases.entries r } := by
  have carried : s.purchases.entries.any (fun e => e.state == .committed && e.seq == some r.record.seq) = true ↔
      ∃ e ∈ s.purchases.entries, e.state = .committed ∧ e.seq = some r.record.seq := by
    simp [List.any_eq_true]
  unfold State.ackWrite Store.acknowledge
  cases s.store.placeOf r.record.seq with
  | none => rfl
  | some i =>
    by_cases h : ∃ e ∈ s.purchases.entries, e.state = .committed ∧ e.seq = some r.record.seq
    · simp only [if_pos (carried.2 h), if_pos h]; rfl
    · simp only [if_neg (mt carried.1 h), if_neg h]; rfl

theorem State.foldl_ackWrite (l : List LogRecord) (s : State) :
    l.foldl (fun s r => s.ackWrite r) s = { s with store := l.foldl (Store.acknowledge s.purchases.entries) s.store } := by
  induction l generalizing s with
  | nil => rfl
  | cons r l ih => rw [List.foldl_cons, ih, State.ackWrite_eq]; rfl

/-- The records at or below a number acknowledged. -/
theorem State.ackUpTo_eq (n : Nat) (s : State) :
    let removed := s.bills.log.filter fun l => decide (l.record.seq ≤ n)
    s.ackUpTo n = { s with
      bills := { s.bills with log := s.bills.log.filter fun l => decide (n < l.record.seq) }
      store := if removed = [] then s.store
        else removed.foldl (Store.acknowledge s.purchases.entries) (s.store.offer .head (.room (some s.roomRecord))) } := by
  intro removed
  unfold State.ackUpTo
  dsimp only
  split
  · next none => rw [if_pos none]
  · next r rest some =>
    have more : removed ≠ [] := by rw [show removed = r :: rest from some]; exact List.cons_ne_nil r rest
    rw [if_neg more, State.foldl_ackWrite]
    rfl

/-- BILL_ACK in a bound state: records are removed when it covers at most what has been offered, and then the drain is tested. -/
theorem applyBillAck_eq {m : Message} {s : State} (bound : s.msgs.room.state ≠ .unbound) : applyBillAck m s =
    (if s.bills.highestOffered.any fun h => decide (bytesAt (m.body 0) 0 4 ≤ h) then s.ackUpTo (bytesAt (m.body 0) 0 4)
      else s).testDrain .head := by
  unfold applyBillAck
  rw [if_neg bound]
  cases s.bills.highestOffered with
  | none => rfl
  | some h =>
    by_cases covers : bytesAt (m.body 0) 0 4 ≤ h <;> simp [covers]

end Sys2Proof.Machine

open Sys2Proof Sys2Proof.Machine

/-- Settles O50: both messages behind the serial they consume; the clamps field by field. -/
theorem policyAndBillAckApplied : Obligations.PolicyAndBillAckApplied := by
  refine ⟨fun s m heading bound => ?_, fun m => ?_, fun s m heading bound => ?_⟩
  · intro s1 t due
    have begins : exec .policy s = .next ((due.map (·.handle)).foldl (fun s h => s.beginCommit .head h) t).leaveOrWait :=
      exec_roomScope (k := .policy) heading rfl (by decide) (if_neg bound)
    refine ⟨begins, fun unwatched => ?_⟩
    rw [begins, show due = [] from none_due unwatched]
    rfl
  · exact ⟨clamp_zero _ _, clamp_zero _ _, clamp_zero _ _, clamp_zero _ _, clamp_zero _ _, clamp_zero _ _, clampStep_mem _,
      fun _ => clampStep_nearest _, clamp_zero _ _, clamp_eq (by decide) _, clamp_eq (by decide) _, clamp_eq (by decide) _,
      toNat_ofNat_bytesAt _ _ 2, toNat_ofNat_bytesAt _ _ 4⟩
  · intro n covered s1 removed acknowledge t
    have applied : applyBillAck m s1 = t.testDrain .head := by
      have reached : (if covered then s1.ackUpTo n else s1) = t := by
        dsimp only [t]
        split
        · exact State.ackUpTo_eq n s1
        · rfl
      rw [applyBillAck_eq (s := s1) bound, ← reached]
      rfl
    obtain ⟨leaves, stays⟩ := t.testDrain_spec .head
    exact ⟨fun drains => exec_roomScope (k := .billAck) heading rfl (by decide) (applied.trans (leaves drains)),
      fun stay => exec_roomScope (k := .billAck) heading rfl (by decide) (applied.trans (stays stay))⟩
end

section
/-! PROOFS. Writes offered to the retained store (O56): an offer, and the offer of a commit's pair, by the cases of R132 and R133; and the
COMMIT places that are looked up. -/

namespace Sys2Proof.Machine

/-! ### What names a place -/

theorem Store.queuedUnstarted_iff (st : Store) (w : StoreWrite) :
    st.queuedUnstarted w = true ↔ ∃ q ∈ st.queue.drop 1, q.write.samePlace w = true := List.any_eq_true

theorem Store.queuedUnstarted_false (st : Store) (w : StoreWrite) :
    st.queuedUnstarted w = false ↔ ∀ q ∈ st.queue.drop 1, q.write.samePlace w = false := by
  unfold Store.queuedUnstarted
  simp only [List.any_eq_false, Bool.not_eq_true]

theorem LineItem.any_iff (f : QueuedWrite → Bool) (x : LineItem) : x.any f = true ↔ ∃ q ∈ x.writes, f q = true := by
  cases x with
  | one q => simp [LineItem.any, LineItem.writes]
  | pair r c => simp [LineItem.any, LineItem.writes]

theorem Store.inLine_iff (st : Store) (w : StoreWrite) :
    st.inLine w = true ↔ ∃ x ∈ st.line, ∃ q ∈ x.writes, q.write.samePlace w = true := by
  simp only [Store.inLine, List.any_eq_true, LineItem.any_iff]

/-- A write is for a COMMIT place when it is a COMMIT write for it, whatever its content. -/
theorem StoreWrite.samePlace_commit (v : StoreWrite) (i : Fin 48) (c : Option CommitRecord) :
    v.samePlace (.commit i c) = true ↔ ∃ r, v = .commit i r := by
  cases v with
  | commit j r => simp [StoreWrite.samePlace]
  | binding | room | policy | serials | titles => simp [StoreWrite.samePlace]

theorem Store.names_iff (st : Store) (i : Fin 48) :
    st.names i = true ↔ ∃ q ∈ st.queue ++ st.line.flatMap LineItem.writes, ∃ r, q.write = .commit i r := by
  unfold Store.names
  simp only [Bool.or_eq_true, List.any_eq_true, Store.inLine_iff, StoreWrite.samePlace_commit, List.mem_append, List.mem_flatMap]
  constructor
  · rintro (⟨q, hq, named⟩ | ⟨x, hx, q, hq, named⟩)
    · exact ⟨q, .inl hq, named⟩
    · exact ⟨q, .inr ⟨x, hx, hq⟩, named⟩
  · rintro ⟨q, hq | ⟨x, hx, hq⟩, named⟩
    · exact .inl ⟨q, hq, named⟩
    · exact .inr ⟨x, hx, q, hq, named⟩

/-! ### An offer, case by case (R132, R133) -/

section
variable {st : Store} (c : Caller) {w : StoreWrite}

/-- The queue can take a write: nothing waits, and there is room. -/
theorem Store.takes_iff (st : Store) (n : Nat) :
    (st.line.isEmpty && decide (n ≤ Config.storeCapacity)) = true ↔ st.line = [] ∧ n ≤ 8 := by
  rw [Bool.and_eq_true, List.isEmpty_iff, decide_eq_true_iff]
  rfl

theorem Store.offer_queued (good : st.state = .good) (queued : st.queuedUnstarted w = true) :
    st.offer c w = { st with queue := st.queue.take 1 ++ (st.queue.drop 1).map (QueuedWrite.coalesce c w) } := by
  simp only [Store.offer, Store.coalesce, good, queued, Bool.true_or, if_true]

theorem Store.offer_waiting (good : st.state = .good) (queued : st.queuedUnstarted w = false) (waiting : st.inLine w = true) :
    st.offer c w = { st with line := st.line.map (·.map (QueuedWrite.coalesceWaiting c w)) } := by
  simp only [Store.offer, Store.coalesce, good, queued, waiting, Bool.or_true, if_true, Bool.false_eq_true, if_false]

theorem Store.offer_joins (good : st.state = .good) (queued : st.queuedUnstarted w = false) (waiting : st.inLine w = false)
    (line : st.line = []) (room : st.queue.length < 8) : st.offer c w = { st with queue := st.queue ++ [QueuedWrite.fresh c w] } := by
  have takes := (st.takes_iff (st.queue.length + 1)).2 ⟨line, room⟩
  simp only [Store.offer, good, queued, waiting, Bool.or_false, Bool.false_eq_true, if_false]
  exact if_pos takes

theorem Store.offer_waits (good : st.state = .good) (queued : st.queuedUnstarted w = false) (waiting : st.inLine w = false)
    (full : st.line ≠ [] ∨ 8 ≤ st.queue.length) :
    st.offer c w = { st with line := st.line ++ [.one (QueuedWrite.freshWaiting c w)] } := by
  have takes : ¬(st.line.isEmpty && decide (st.queue.length + 1 ≤ Config.storeCapacity)) = true := by
    rw [st.takes_iff]
    rintro ⟨line, room⟩
    rcases full with full | full
    · exact full line
    · omega
  simp only [Store.offer, good, queued, waiting, Bool.or_false, Bool.false_eq_true, if_false]
  exact if_neg takes

/-! ### A commit's pair (R119, R133) -/

variable (v : StoreWrite)

theorem Store.offerPair_faulted (faulted : st.state = .faulted) : st.offerPair c w v = st := by
  simp only [Store.offerPair, faulted]

/-- A place is named by a write that has not been started, in the queue or the line. -/
theorem Store.named_iff (st : Store) (w : StoreWrite) : (st.queuedUnstarted w || st.inLine w) = true ↔
    (∃ q ∈ st.queue.drop 1, q.write.samePlace w = true) ∨ st.inLine w = true := by
  rw [Bool.or_eq_true, st.queuedUnstarted_iff]

/-- The first write of a pair replaces the content of one that has not been started: the second is offered alone. -/
theorem Store.offerPair_named (good : st.state = .good) (named : (st.queuedUnstarted w || st.inLine w) = true) :
    st.offerPair c w v = (st.offer c w).offer c v := by
  have first : st.offer c w = st.coalesce c w := by simp only [Store.offer, good, named, if_true]
  rw [first]
  simp only [Store.offerPair, good, named, if_true]

theorem Store.offerPair_joins (good : st.state = .good) (named : ¬(st.queuedUnstarted w || st.inLine w) = true) (line : st.line = [])
    (room : st.queue.length < 7) :
    st.offerPair c w v = { st with queue := st.queue ++ [QueuedWrite.fresh c w, QueuedWrite.fresh c v] } := by
  have takes := (st.takes_iff (st.queue.length + 2)).2 ⟨line, Nat.succ_le_succ room⟩
  simp only [Store.offerPair, good]
  rw [if_neg named, if_pos takes]

theorem Store.offerPair_waits (good : st.state = .good) (named : ¬(st.queuedUnstarted w || st.inLine w) = true)
    (full : st.line ≠ [] ∨ 7 ≤ st.queue.length) : st.offerPair c w v =
      { st with line := st.line ++ [.pair (QueuedWrite.freshWaiting c w) (QueuedWrite.freshWaiting c v)] } := by
  have takes : ¬(st.line.isEmpty && decide (st.queue.length + 2 ≤ Config.storeCapacity)) = true := by
    rw [st.takes_iff]
    rintro ⟨line, room⟩
    rcases full with full | full
    · exact full line
    · omega
  simp only [Store.offerPair, good]
  rw [if_neg named, if_neg takes]

end

/-! ### The COMMIT places looked up (R135; log 31) -/

/-- The first index that satisfies a test. -/
theorem find?_finRange_iff {n : Nat} {p : Fin n → Bool} {P : Fin n → Prop} (h : ∀ j, p j = true ↔ P j) (i : Fin n) :
    (List.finRange n).find? p = some i ↔ P i ∧ ∀ j, j < i → ¬P j := by
  rw [← Fin.find?_eq_find?_finRange, Fin.find?_eq_some_iff, h]
  exact and_congr_right fun _ => forall₂_congr fun j _ => by rw [← h j, Bool.not_eq_true]

theorem Store.freePlace_iff (st : Store) (i : Fin 48) :
    let free (j : Fin 48) : Prop := st.places.commits[j] = .empty ∧ ¬st.names j = true
    st.freePlace = some i ↔ free i ∧ ∀ j, j < i → ¬free j := by
  intro free
  refine find?_finRange_iff (P := free) (fun j => ?_) i
  dsimp only [free]
  rw [Bool.and_eq_true, decide_eq_true_iff, Bool.not_eq_true', Bool.not_eq_true]

theorem Store.placeOf_iff (st : Store) (n : Nat) (i : Fin 48) :
    let holds (j : Fin 48) : Prop := ∃ r, st.places.commits[j] = .holds r ∧ r.seq = n
    st.placeOf n = some i ↔ holds i ∧ ∀ j, j < i → ¬holds j := by
  intro holds
  refine find?_finRange_iff (P := holds) (fun j => ?_) i
  dsimp only [holds]
  split
  · next r held => simp [held]
  · next held => simp [held]
  · next held => simp [held]

end Sys2Proof.Machine

open Sys2Proof Sys2Proof.Machine

/-- Settles O56: the store's state, then whether a write that has not been started names the place, then whether the queue can take it. -/
theorem storeOffersTaken : Obligations.StoreOffersTaken := by
  refine ⟨fun st c w => ?_, fun st c room i r => ?_, fun st i => ?_, fun st n i => st.placeOf_iff n i⟩
  · intro queued waiting
    refine ⟨st.offer_faulted c w, fun good => ⟨fun named => ?_, fun unnamed waits => ?_,
      fun unnamed unwaited => ⟨fun line room => ?_, fun full => ?_⟩⟩, st.offer_places c w, st.offer_state c w, st.inLine_iff w⟩
    · exact Store.offer_queued c good ((st.queuedUnstarted_iff w).2 named)
    · exact Store.offer_waiting c good ((st.queuedUnstarted_false w).2 unnamed) waits
    · exact Store.offer_joins c good ((st.queuedUnstarted_false w).2 unnamed) unwaited line room
    · exact Store.offer_waits c good ((st.queuedUnstarted_false w).2 unnamed) unwaited full
  · intro pair named
    have named_iff := st.named_iff (.room room)
    exact ⟨st.offerPair_faulted c _, fun good => ⟨fun yes => Store.offerPair_named c _ good (named_iff.2 yes),
      fun no line few => Store.offerPair_joins c _ good (mt named_iff.1 no) line few,
      fun no full => Store.offerPair_waits c _ good (mt named_iff.1 no) full⟩⟩
  · simp only [← st.names_iff]
    exact st.freePlace_iff i
end

section
/-! PROOFS. The end of the start-up scan (O59): a store that cannot be read, the writes that start-up offers to an idle store, and what the
scan recovers. -/

namespace Sys2Proof.Machine

/-! ### A store that cannot be read (R144, R178) -/

theorem State.scanUnreadable_eq (s : State) : s.scanUnreadable = { s with
    store := { s.store with state := .faulted }
    bills := { s.bills with counter := none, log := [] }
    msgs := { s.msgs with identity := none, room := Room.reset, policy := Policy.defaults, serials := ⟨0, 0⟩ }
    lock := ⟨7, none, 0, none, []⟩
    purchases := ⟨[], 1, [], []⟩
    events := { s.events with uptime := 0, timerRunning := true }
    req := { s.req with
      startUp := .running, scanned := none, bringUp := some .storeFault
      notices := raiseIn (.start .storeFault 0#48 .unbound .faulted) s.req.notices } } := rfl

/-! ### Writes offered one after another to an idle store (R132, R133) -/

/-- A store with writes of the part offered to it: the first 8 in the queue, the others waiting. -/
def Store.offered (p : Places) (l : List StoreWrite) : Store where
  places := p
  state := .good
  queue := (l.take 8).map fun w => ⟨w, false, false, false⟩
  line := (l.drop 8).map fun w => .one ⟨w, false, false, false⟩

/-- A write for a place that none but the started one names comes last. -/
theorem Store.offered_offer (p : Places) (x : StoreWrite) {l : List StoreWrite} {w : StoreWrite}
    (apart : ∀ v ∈ l, v.samePlace w = false) :
    (Store.offered p (x :: l)).offer .part w = Store.offered p (x :: (l ++ [w])) := by
  have queued : (Store.offered p (x :: l)).queuedUnstarted w = false := by
    refine (Store.queuedUnstarted_false _ w).2 fun q hq => ?_
    have hq : q ∈ (l.take 7).map fun w => (⟨w, false, false, false⟩ : QueuedWrite) := hq
    obtain ⟨v, hv, rfl⟩ := List.mem_map.1 hq
    exact apart v (List.mem_of_mem_take hv)
  have waiting : (Store.offered p (x :: l)).inLine w = false := by
    refine Bool.eq_false_iff.2 fun named => ?_
    obtain ⟨y, hy, q, hq, same⟩ := (Store.inLine_iff _ w).1 named
    obtain ⟨v, hv, rfl⟩ := List.mem_map.1 hy
    rw [List.mem_singleton.1 hq, apart v (List.mem_of_mem_drop (i := 7) hv)] at same
    cases same
  by_cases room : (x :: l).length < 8
  · have line : (Store.offered p (x :: l)).line = [] := by rw [Store.offered, List.drop_of_length_le (Nat.le_of_lt room)]; rfl
    have queue : (Store.offered p (x :: l)).queue.length < 8 := by
      rwa [Store.offered, List.length_map, List.take_of_length_le (Nat.le_of_lt room)]
    have longer : (x :: l ++ [w]).length ≤ 8 := by rw [List.length_append]; exact room
    rw [Store.offer_joins .part rfl queued waiting line queue, ← List.cons_append]
    unfold Store.offered
    rw [List.take_of_length_le longer, List.drop_of_length_le longer, List.take_of_length_le (Nat.le_of_lt room),
      List.drop_of_length_le (Nat.le_of_lt room), List.map_append]
    rfl
  · have full : (Store.offered p (x :: l)).line ≠ [] ∨ 8 ≤ (Store.offered p (x :: l)).queue.length := by
      refine .inr ?_
      rw [Store.offered, List.length_map, List.length_take]
      omega
    rw [Store.offer_waits .part rfl queued waiting full, ← List.cons_append]
    unfold Store.offered
    rw [List.take_append_of_le_length (Nat.le_of_not_lt room), List.drop_append_of_le_length (Nat.le_of_not_lt room), List.map_append]
    rfl

/-- Writes of places all different, behind a first that is started. -/
theorem Store.offered_offers (p : Places) (x : StoreWrite) (l ws : List StoreWrite)
    (apart : (l ++ ws).Pairwise fun v w => v.samePlace w = false) :
    ws.foldl (fun st w => st.offer .part w) (Store.offered p (x :: l)) = Store.offered p (x :: (l ++ ws)) := by
  induction ws generalizing l with
  | nil => rw [List.append_nil]; rfl
  | cons w ws ih =>
    obtain ⟨-, -, across⟩ := List.pairwise_append.1 apart
    have before : ∀ v ∈ l, v.samePlace w = false := fun v hv => across v hv w List.mem_cons_self
    rw [List.append_cons] at apart ⊢
    rw [List.foldl_cons, Store.offered_offer p x before, ih _ apart]

/-- Offers of the part change the store alone. -/
theorem State.foldl_offer (c : Caller) (l : List StoreWrite) (s : State) :
    l.foldl (fun s w => s.offer c w) s = { s with store := l.foldl (fun st w => st.offer c w) s.store } := by
  induction l generalizing s with
  | nil => rfl
  | cons w l ih => rw [List.foldl_cons, ih]; rfl

/-! ### The empty writes of start-up (R145; log 15) -/

/-- An empty write for a place, when it has failed its check. -/
def Place.emptied {α : Type} (x : Place α) (w : StoreWrite) : List StoreWrite := if x.failed then [w] else []

theorem Place.emptied_sublist {α : Type} (x : Place α) (w : StoreWrite) : (x.emptied w).Sublist [w] := by
  unfold Place.emptied
  split
  · exact .refl _
  · exact List.nil_sublist _

/-- The empty writes place by place. -/
theorem Places.emptyWrites_eq (p : Places) : p.emptyWrites = p.binding.emptied (.binding none) ++ p.room.emptied (.room none) ++
    p.policy.emptied (.policy none) ++ p.serials.emptied (.serials none) ++ p.titles.emptied (.titles none) ++
    (List.finRange 48).flatMap fun i => p.commits[i].emptied (.commit i none) := by
  unfold Places.emptyWrites
  rw [List.filterMap_eq_flatMap_toList]
  refine congrArg _ (congrArg (List.flatMap · _) (funext fun i => ?_))
  unfold Place.emptied
  split <;> rfl

/-- An empty write of every place but IDENTITY. -/
def allEmptyWrites : List StoreWrite :=
  [.binding none, .room none, .policy none, .serials none, .titles none] ++ (List.finRange 48).map fun i => .commit i none

theorem allEmptyWrites_apart : allEmptyWrites.Pairwise fun v w => v.samePlace w = false := by
  have commits : ((List.finRange 48).map fun i => StoreWrite.commit i none).Pairwise fun v w => v.samePlace w = false :=
    List.pairwise_map.2 ((List.nodup_finRange 48).imp fun ne => beq_false_of_ne ne)
  refine List.pairwise_append.2 ⟨by decide, commits, fun v hv w hw => ?_⟩
  obtain ⟨i, -, rfl⟩ := List.mem_map.1 hw
  revert v
  simp [StoreWrite.samePlace]

/-- They are of different places. -/
theorem Places.emptyWrites_apart (p : Places) : p.emptyWrites.Pairwise fun v w => v.samePlace w = false := by
  refine allEmptyWrites_apart.sublist ?_
  rw [p.emptyWrites_eq]
  have one {α : Type} (x : Place α) (w : StoreWrite) := x.emptied_sublist w
  refine .append ((((((one _ _).append (one _ _)).append (one _ _)).append (one _ _)).append (one _ _))) ?_
  induction List.finRange 48 with
  | nil => exact .refl _
  | cons i l ih => exact (one p.commits[i] (.commit i none)).append ih

/-! ### A store that is read (R144, R145) -/

/-- The state at the end of a scan that has found the places as `p`. -/
def State.scannedAs (p : Places) (s : State) : State :=
  { s with
    store := Store.offered p (.room (some p.recovered.roomWrite) :: p.emptyWrites)
    bills := { s.bills with counter := some p.recovered.counter, log := p.recovered.log }
    req := { s.req with bringUp := some p.bringUp, scanned := some p.recovered, startUp := .awaitingRoom } }

theorem State.scanRead_eq {s : State} (queue : s.store.queue = []) (line : s.store.line = []) (failed : BitVec 54) :
    s.scanRead failed = s.scannedAs (s.store.places.scan failed) := by
  unfold State.scanRead
  generalize s.store.places.scan failed = p
  have writes : p.emptyWrites.foldl (fun st w => st.offer .part w)
      (Store.offer ⟨p, .good, s.store.queue, s.store.line⟩ .part (.room (some p.recovered.roomWrite))) =
      Store.offered p (.room (some p.recovered.roomWrite) :: p.emptyWrites) := by
    rw [queue, line]
    exact Store.offered_offers p _ [] _ p.emptyWrites_apart
  unfold State.scannedAs
  rw [← writes]
  exact State.foldl_offer ..

/-- The highest number of the records found, or 0, and the counter above it (R145). -/
theorem Places.recovered_counter (p : Places) : p.recovered.counter = min 4294967280
    (max (match p.room with | .holds r => r.reserve | _ => 1) (highestOf (p.recovered.commits.map (·.seq)) + 1)) := by
  unfold Scanned.counter
  congr 2
  show (match p.room.found with | some r => r.reserve | none => 1) = _
  cases p.room <;> rfl

/-- The record of start-up's ROOM write: the one found, with its reserve replaced, or the record of an empty place (R145). -/
theorem Places.recovered_roomWrite (p : Places) : p.recovered.roomWrite = match p.room with
    | .holds r => { r with reserve := p.recovered.counter + 8 }
    | _ => ⟨.unbound, false, highestOf (p.recovered.commits.map (·.stay)), 0, 0, 7, none, 0, p.recovered.counter + 8⟩ := by
  have found : p.recovered.room = p.room.found := rfl
  unfold Scanned.roomWrite
  rw [found]
  cases p.room <;> rfl

/-- A number taken from the records found, none of which has a higher. -/
theorem highestOf_found (f : CommitRecord → Nat) (l : List CommitRecord) :
    (∀ r ∈ l, f r ≤ highestOf (l.map f)) ∧ (highestOf (l.map f) = 0 ∨ ∃ r ∈ l, f r = highestOf (l.map f)) := by
  obtain ⟨above, reached⟩ := highestOf_spec (l.map f)
  exact ⟨fun r hr => above _ (List.mem_map_of_mem hr), reached.imp_right List.mem_map.1⟩

/-- The bring-up code of a scan that read every place (R178; log 14). -/
theorem Places.bringUp_spec (p : Places) : (p.identity.found = none → p.bringUp = .identityFault) ∧
    (p.identity.found.isSome = true →
      (p.anyFailed = true → p.bringUp = .storeRecovered) ∧ (p.anyFailed = false → p.bringUp = .good)) := by
  unfold Places.bringUp
  cases p.identity.found with
  | none => exact ⟨fun _ => rfl, fun found => absurd found Bool.false_ne_true⟩
  | some d => exact ⟨fun empty => absurd empty (Option.some_ne_none d), fun _ =>
      ⟨fun failed => by rw [failed]; rfl, fun sound => by rw [sound]; rfl⟩⟩

/-- The log recovered: in order, each record due, and offered before as far as the part knows (R145). -/
theorem Scanned.log_spec (x : Scanned) : x.log.Pairwise (fun l l' => l.record.seq ≤ l'.record.seq) ∧
    (x.log.map (·.record)).Perm (x.commits.filter fun r => r.acked = false) ∧
      ∀ l ∈ x.log, l.offer = .due ∧ l.offeredBefore = true := by
  refine ⟨List.pairwise_map.2 (sortBySeq_sorted _), ?_, fun l hl => ?_⟩
  · rw [x.log_records]
    refine (sortBySeq_perm _).trans (.of_eq (List.filter_congr fun r _ => ?_))
    cases r.acked <;> rfl
  · obtain ⟨r, -, rfl⟩ := List.mem_map.1 hl
    exact ⟨rfl, rfl⟩

end Sys2Proof.Machine

open Sys2Proof Sys2Proof.Machine

/-- Settles O59: by the part's start-up, and whether the store can be read. -/
theorem scanEnds : Obligations.ScanEnds := by
  refine ⟨fun s scan settled other => ?_, fun s settled scanning => ?_, fun s failed settled scanning queue line => ?_⟩
  · rw [show exec (.startUpScanComplete scan) s = .next (s.scanComplete scan) from act_settled _ settled]
    unfold State.scanComplete
    split
    · next scanning => exact absurd scanning other
    · rfl
    · rfl
  · rw [show exec (.startUpScanComplete .unreadable) s = .next (s.scanComplete .unreadable) from act_settled _ settled]
    unfold State.scanComplete
    rw [scanning]
    exact congrArg _ s.scanUnreadable_eq
  · have ran : exec (.startUpScanComplete (.read failed)) s = .next (s.scannedAs (s.store.places.scan failed)) := by
      rw [show exec (.startUpScanComplete (.read failed)) s = .next (s.scanComplete (.read failed)) from act_settled _ settled]
      unfold State.scanComplete
      rw [scanning]
      exact congrArg _ (State.scanRead_eq queue line failed)
    rw [ran]
    generalize s.store.places.scan failed = p
    obtain ⟨top, topReached⟩ := highestOf_found (·.seq) p.recovered.commits
    obtain ⟨topStay, topStayReached⟩ := highestOf_found (·.stay) p.recovered.commits
    obtain ⟨faulted, codes⟩ := p.bringUp_spec
    obtain ⟨sorted, records, states⟩ := p.recovered.log_spec
    refine ⟨s.scannedAs p, p.recovered.counter, highestOf (p.recovered.commits.map (·.seq)),
      highestOf (p.recovered.commits.map (·.stay)), p.recovered.roomWrite, rfl, rfl, rfl, rfl, rfl, ?_⟩
    intro p' records' place empties writes
    have empties_eq : empties = p.emptyWrites := by
      have emptied {α : Type} (x : Place α) (w : StoreWrite) : place x w = x.emptied w := by cases x <;> rfl
      rw [p.emptyWrites_eq]
      dsimp only [empties]
      simp only [emptied]
      rfl
    refine ⟨?_, ?_, top, topReached, topStay, topStayReached, p.recovered_counter, p.recovered_roomWrite, rfl,
      fun none => congrArg _ (faulted none),
      fun found => ⟨fun failed => congrArg _ ((codes found).1 failed), fun sound => congrArg _ ((codes found).2 sound)⟩,
      sorted, records, states⟩
    · dsimp only [writes]
      rw [empties_eq, ← List.map_take]
      rfl
    · dsimp only [writes]
      rw [empties_eq, ← List.map_drop, List.map_map]
      rfl
end

section
/-! PROOFS. What start-up ends in (R129, R167, R177), written out: what the owners take, the lockout, and the checkout. -/

namespace Sys2Proof.Machine

/-- The room record recovered, spent and the cap raised to the charges of the stay's records (R129, R167). -/
def Scanned.roomRecovered (x : Scanned) : Room := if x.roomState.inStay then x.roomTaken.recharged x.charges else x.roomTaken

/-- The ROOM record behind the end of start-up, its reserve being `n` (R129, R131). -/
def Scanned.roomRecord (x : Scanned) (n : Nat) : RoomRecord :=
  { state := x.roomRecovered.state, suspended := x.roomRecovered.suspended, stay := x.roomRecovered.stay, cap := x.roomRecovered.cap
    spent := x.roomRecovered.spent, guestCeiling := x.lockTaken.guestCeiling, pin := x.lockTaken.pin
    failures := x.lockTaken.failures, reserve := n }

/-- The store behind the ROOM write offered when spent or the cap has been raised (R129, step 4). -/
def Scanned.roomOffered (x : Scanned) (n : Nat) (st : Store) : Store :=
  if x.roomRecovered = x.roomTaken then st else st.offer .part (.room (some (x.roomRecord n)))

/-- The owners take what was recovered; a ROOM write is offered, and then the places of acknowledged records are freed (R177, step 1). -/
theorem State.takeRecovered_eq (x : Scanned) (s : State) : s.takeRecovered x = { s with
    msgs := { s.msgs with identity := x.identity, room := x.roomRecovered, policy := x.policyTaken, serials := x.serialsTaken }
    lock := x.lockTaken
    purchases := x.purchasesTaken
    store := x.freed.foldl (Store.freeing s.bills.log) (x.roomOffered (s.bills.counter.getD 0 + 8) s.store) } := by
  show State.freeRecords x.freed (if x.roomRecovered = x.roomTaken then _ else _) = _
  unfold Scanned.roomOffered
  by_cases same : x.roomRecovered = x.roomTaken
  · rw [if_pos same, if_pos same, State.freeRecords_eq]; rfl
  · rw [if_neg same, if_neg same, State.freeRecords_eq]; rfl

/-! ### What the owners take -/

@[simp] theorem Scanned.roomRecovered_state (x : Scanned) : x.roomRecovered.state = x.roomState := by
  unfold Scanned.roomRecovered; split <;> rfl

@[simp] theorem Scanned.roomRecovered_binding (x : Scanned) :
    x.roomRecovered.binding = if x.roomState = .unbound then none else x.binding := by
  unfold Scanned.roomRecovered; split <;> rfl

/-- The room comes up UNBOUND where no identity or no binding was recovered (R167). -/
theorem Scanned.roomState_unbound_iff (x : Scanned) : x.roomState = .unbound ↔ x.identity = none ∨ x.binding = none := by
  unfold Scanned.roomState
  split
  · next d b identity binding =>
    have bound : ¬(x.identity = none ∨ x.binding = none) := by rw [identity, binding]; simp
    refine iff_of_false (fun unbound => ?_) bound
    split at unbound
    · cases unbound
    · split at unbound <;> cases unbound
  · next absent =>
    refine iff_of_true rfl ?_
    cases identity : x.identity with
    | none => exact .inl rfl
    | some d => cases binding : x.binding with
      | none => exact .inr rfl
      | some b => exact (absent d b identity binding).elim

theorem RoomState.inStay_iff (r : RoomState) : r.inStay = true ↔ r = .occupied ∨ r = .checkout := by cases r <;> decide

theorem RoomState.inStay_false_iff (r : RoomState) : r.inStay = false ↔ r = .unbound ∨ r = .vacant := by cases r <;> decide

/-- With no stay under way nothing of one is taken (R75, R129, R167). -/
theorem Scanned.taken_outside {x : Scanned} (outside : x.roomState.inStay = false) : x.roomRecovered = x.roomTaken ∧
    x.roomTaken.cap = 0 ∧ x.roomTaken.spent = 0 ∧ x.lockTaken = LockUnit.cleared ∧ x.rebuiltRecords = [] ∧
    x.purchasesTaken = ⟨[], 1, [], []⟩ := by
  have none : x.rebuiltRecords = [] := by simp [Scanned.rebuiltRecords, Scanned.stayRecords, outside]
  refine ⟨?_, ?_, ?_, ?_, none, ?_⟩
  · simp [Scanned.roomRecovered, outside]
  · unfold Scanned.roomTaken; dsimp only; split <;> simp [outside]
  · unfold Scanned.roomTaken; dsimp only; split <;> simp [outside]
  · unfold Scanned.lockTaken; split <;> simp [outside]
  · unfold Scanned.purchasesTaken; simp [none, outside, rebuiltEntries]

/-- What is spent is below the cap (R111, R129). -/
theorem Scanned.roomRecovered_spent_le (x : Scanned) : x.roomRecovered.spent ≤ x.roomRecovered.cap := by
  cases stay : x.roomState.inStay with
  | true =>
    simp only [Scanned.roomRecovered, stay, if_true, Room.recharged]
    exact Nat.le_max_right _ _
  | false =>
    obtain ⟨taken, -, spent, -⟩ := Scanned.taken_outside stay
    rw [taken, spent]
    exact Nat.zero_le _

/-- The rebuilt entries hold no charge (R111, R129). -/
theorem Scanned.purchasesTaken_held (x : Scanned) : x.purchasesTaken.held = 0 := by
  refine List.sum_eq_zero fun n charged => ?_
  obtain ⟨e, listed, rfl⟩ := List.mem_map.1 charged
  exact PurchaseEntry.heldCharge_committed (x.purchasesTaken_spec.1 e listed)

end Sys2Proof.Machine
end

section
/-! PROOFS. The laws of a stay, and the moves of the room while the part is RUNNING (O9): what leaves the room in its state or drains it,
and the four messages that move it. -/

namespace Sys2Proof.Machine

/-! ### The relations -/

/-- The laws of a stay are kept; and while the part is RUNNING it stays so, and the room stays in its state or leaves CHECKOUT for VACANT
(R154, R159). -/
structure Stays (s t : State) : Prop where
  sound   : s.StaySound → t.StaySound
  running : s.req.startUp = .running → t.req.startUp = .running
  room    : s.req.startUp = .running → t.msgs.room.state = s.msgs.room.state ∨
    (s.msgs.room.state = .checkout ∧ t.msgs.room.state = .vacant)

/-- The laws of a stay are kept; and while the part is RUNNING the room moves as R154 tables it. -/
structure Moves (s t : State) : Prop where
  sound : s.StaySound → t.StaySound
  moves : s.req.startUp = .running → s.msgs.room.state.moves t.msgs.room.state = true

theorem RoomState.moves_self (r : RoomState) : r.moves r = true := by cases r <;> rfl

theorem Stays.moves {s t : State} (h : Stays s t) : Moves s t where
  sound := h.sound
  moves := fun running => by
    rcases h.room running with same | ⟨checkout, vacant⟩
    · rw [same]; exact s.msgs.room.state.moves_self
    · rw [checkout, vacant]; rfl

namespace Stays

/-- What a cascade does that eases the laws. -/
theorem of_cascade {s t : State} (c : Cascade s t) (e : s.purchases.handlesDistinct → Eases s t) : Stays s t where
  sound := fun w => (e w.distinct).staySound w
  running := c.startUp.trans
  room := fun _ => c.room

/-- What eases the laws and leaves the room in its state. -/
theorem of_eases {s t : State} (e : Eases s t) (same : t.msgs.room.state = s.msgs.room.state := by rfl) : Stays s t where
  sound := e.staySound
  running := e.startUp.trans
  room := fun _ => .inl same

/-- What changes, changes in other fields. -/
theorem elsewhere {s t : State} (h : (t.purchases, t.req, t.lock, t.msgs.room) = (s.purchases, s.req, s.lock, s.msgs.room) := by rfl) :
    Stays s t := by
  obtain ⟨purchases, req, lock, room⟩ := by simpa only [Prod.mk.injEq] using h
  exact of_eases (.of_eq (by rw [purchases]) (by rw [purchases]) req (by rw [lock]) (by rw [lock]) room) (by rw [room])

/-- The request unit changed, no request more in service and no flag more pending. -/
theorem setReq {s t : State} (h : (t.purchases, t.lock, t.msgs.room, t.req.startUp) = (s.purchases, s.lock, s.msgs.room, s.req.startUp))
    (fetching : t.req.service = .fetching → s.req.service = .fetching) (idle : s.req.service = .idle → t.req.service = .idle)
    (notices : ∀ n ∈ t.req.notices, n ∈ s.req.notices) : Stays s t := by
  obtain ⟨purchases, lock, room, startUp⟩ := by simpa only [Prod.mk.injEq] using h
  exact of_eases (.of_same (by rw [purchases]) (by rw [purchases]) startUp fetching idle notices (by rw [lock]) (by rw [lock]) room)
    (by rw [room])

theorem refl (s : State) : Stays s s := elsewhere

theorem trans {s t u : State} (h : Stays s t) (k : Stays t u) : Stays s u where
  sound := k.sound ∘ h.sound
  running := k.running ∘ h.running
  room := fun running => by
    rcases k.room (h.running running) with same | ⟨checkout, vacant⟩
    · rw [same]; exact h.room running
    · rcases h.room running with before | ⟨_, left⟩
      · exact .inr ⟨before.symm.trans checkout, vacant⟩
      · rw [left] at checkout; cases checkout

theorem fold {α : Type} {f : State → α → State} (hf : ∀ s a, Stays s (f s a)) (l : List α) (s : State) : Stays s (l.foldl f s) := by
  induction l generalizing s with
  | nil => exact refl s
  | cons a l ih => exact (hf s a).trans (ih _)

theorem ite {p : Prop} [Decidable p] {s t u : State} (h : Stays s t) (k : Stays s u) : Stays s (if p then t else u) := by
  split
  · exact h
  · exact k

variable (s : State)

theorem testDrain (c : Caller) : Stays s (s.testDrain c) := of_cascade (.testDrain s c) fun _ => .testDrain s c

theorem beginCommit (c : Caller) (h : Nat) : Stays s (s.beginCommit c h) := of_cascade (.beginCommit s c h) (.beginCommit s c h)

theorem endPurchase (c : Caller) (id : BitVec 32) : Stays s (s.endPurchase c id) :=
  of_cascade (.endPurchase s c id) fun _ => .endPurchase s c id

theorem settle : Stays s s.settle := of_cascade (.settle s) (.settle s)

theorem takeOwed (p : Owed → Bool) : Stays s (s.takeOwed p) := of_cascade (.takeOwed s p) (.takeOwed s p)

theorem takeTick : Stays s s.takeTick := by
  have folded (u : State) (ids : List (BitVec 32)) : Stays u (u.foldMarks ids) := of_cascade (.foldMarks u ids) (.foldMarks u ids)
  exact ite ((trans (t := { s with events := s.events.advance }) elsewhere (folded _ _)).trans elsewhere) (refl s)

/-! ### Arrivals and the memory side -/

/-- A cell's header changes tags and keys (R25). -/
theorem setSlotTag (ring : Fin 4) (slot : Nat) (x : Word) : Stays s (s.setSlotTag ring slot x) := by
  have installed (u : State) (ks : Fin 64) (p : Phase) : Stays u (u.installStaged ks p) := by
    unfold State.installStaged
    split
    · exact refl u
    · exact elsewhere
  have reported (u : State) (ks : Fin 64) (p : Phase) : Stays u (u.phaseReport ring slot ks p) := by
    unfold State.phaseReport
    dsimp only
    split <;> exact (installed u ks p).trans elsewhere
  rcases State.setSlotTag_cases ring slot x s with ⟨-, set⟩ | ⟨-, set | ⟨ks, p, set⟩⟩ <;> rw [set]
  · exact elsewhere
  · exact elsewhere
  · exact trans elsewhere (reported _ ks p)

theorem streamWrite (w : WriteTxn) (ring : Fin 4) (slot : Nat) (q : Portion) : Stays s (s.streamWrite w ring slot q) := by
  unfold State.streamWrite
  split
  · exact refl s
  · refine ite (ite ?_ (refl s)) elsewhere
    split
    · exact ite (setSlotTag s ring slot _) elsewhere
    · exact refl s

/-- A write of the index block changes indices alone (R9). -/
theorem indexWords (n : Nat) (l : List WriteWord) : Stays s { s with req := s.req.indexWords n l } := by
  induction l generalizing s n with
  | nil => exact elsewhere
  | cons x l ih =>
    refine trans (t := { s with req := s.req.indexWord n x }) ?_ (ih _ (n + 1))
    unfold RequestUnit.indexWord RequestUnit.writeIndex
    repeat' split
    all_goals exact setReq rfl id id fun _ => id

theorem writePortion (w : WriteTxn) (q : Portion) : Stays s (s.writePortion w q) := by
  unfold State.writePortion
  split
  · exact streamWrite s w _ _ q
  · unfold State.controlWrite
    split
    · exact refl s
    · refine ite ?_ (refl s)
      unfold MessageUnit.take
      split <;> exact elsewhere
  · exact indexWords s _ _
  · exact refl s
  · exact refl s

theorem arriveWrite (w : WriteTxn) : Stays s (s.arriveWrite w) :=
  ite ((fold (fun s q => writePortion s w q) _ s).trans elsewhere) (refl s)

theorem readPortions (r : ReadTxn) (l : List Portion) (a : State × List HeldPortion) : Stays a.1 (l.foldl (readPortion r) a).1 := by
  induction l generalizing a with
  | nil => exact refl _
  | cons q l ih =>
    refine Stays.trans ?_ (ih (readPortion r a q))
    rcases readPortion_cases r a q with h | ⟨id, h⟩ <;> rw [h]
    · exact refl _
    · exact elsewhere

theorem arriveRead (r : ReadTxn) : Stays s (s.arriveRead r) := by
  unfold State.arriveRead
  exact ite ((readPortions r _ (s, [])).trans elsewhere) (refl s)

theorem arbitrate : Stays s s.arbitrate := by
  have own (o : OwnTxn) (rest : List OwnTxn) : Stays s (s.grantOwn o rest) := by
    refine trans (t := { s with req := s.req.written o }) ?_ elsewhere
    unfold RequestUnit.written
    split <;> exact setReq rfl id id fun _ => id
  unfold State.arbitrate
  split
  · exact refl s
  · exact elsewhere
  · exact own _ _
  · exact ite elsewhere (own _ _)

theorem grant : Stays s s.grant := by
  unfold State.grant
  split
  · exact arbitrate s
  · split
    · exact refl s
    · exact trans (t := s.performWrite _) elsewhere (arbitrate _)

theorem returnRead : Stays s s.returnRead := by
  unfold State.returnRead
  split
  · exact elsewhere
  · exact refl s

end Stays

end Sys2Proof.Machine
end

section
/-! PROOFS. The laws of a stay through requests and records (O9): what a request leaves of the room, and that grants and PINs are given in
a stay alone. -/

namespace Sys2Proof.Machine

/-! ### What a request leaves (R75, R84, R86) -/

@[simp] theorem State.attach_room (n : Nat) (w : Window) (s : State) : (s.attach n w).msgs.room = s.msgs.room := by
  unfold State.attach; dsimp only; split <;> rfl

@[simp] theorem State.detach_room (n : Nat) (s : State) : (s.detach n).msgs.room = s.msgs.room := by
  unfold State.detach; dsimp only; split <;> rfl

/-- Whatever a request finds, serving it leaves the room record: each branch ends in an answer. -/
theorem requestService_room {code : Nat} {f : Request → State → State} (h : requestService code = some f) (r : Request)
    (s : State) : (f r s).msgs.room = s.msgs.room := by
  unfold requestService at h
  split at h <;> cases h
  all_goals simp only [serveAttachRing, serveDetachRing, serveServiceInfo, serveKeyInfo, serveSlateInfo, serveSetPin,
    serveSetGuestCeiling, serveUnlock, serveLockNow, serveLockInfo, serveReadEvent, serveQuote, servePurchase, State.purchaseEvent,
    serveCancel, serveListPurchases, serveBillInfo, serveStatus]
  all_goals repeat' split
  all_goals simp
  all_goals rfl

/-- A grant is added and a PIN set only while a stay is under way: without one, no grants stay no grants, and no PIN stays no PIN. -/
structure LockFollows (s t : State) : Prop where
  grants : (s.msgs.room.state = .unbound ∨ s.msgs.room.state = .vacant) → s.lock.grants = [] → t.lock.grants = []
  pin    : (s.msgs.room.state = .unbound ∨ s.msgs.room.state = .vacant) → s.lock.pin = none → t.lock.pin = none

namespace LockFollows

theorem of_lock {s t : State} (h : t.lock = s.lock) : LockFollows s t := ⟨fun _ => h ▸ id, fun _ => h ▸ id⟩

theorem of_stay {s t : State} (h : ¬(s.msgs.room.state = .unbound ∨ s.msgs.room.state = .vacant)) : LockFollows s t :=
  ⟨fun without => absurd without h, fun without => absurd without h⟩

theorem ite {p : Prop} [Decidable p] {s t u : State} (h : LockFollows s t) (k : LockFollows s u) : LockFollows s (if p then t else u) := by
  split
  · exact h
  · exact k

variable (s : State) (r : Request)

theorem setPin : LockFollows s (serveSetPin r s) := by
  unfold serveSetPin
  dsimp only
  split
  · exact of_lock rfl
  · refine ite (of_lock rfl) ?_
    by_cases without : s.msgs.room.state = .unbound ∨ s.msgs.room.state = .vacant
    · rw [if_pos without]; exact of_lock rfl
    · exact of_stay without

theorem setGuestCeiling : LockFollows s (serveSetGuestCeiling r s) := by
  unfold serveSetGuestCeiling
  split
  · exact of_lock rfl
  · refine ite (of_lock rfl) (ite (of_lock rfl) ?_)
    split
    · exact of_lock rfl
    · next held pin => exact ⟨fun _ none => by split <;> simp [State.setCeiling, State.wrongPin, State.pinFailure, none],
        fun _ none => by rw [none] at pin; cases pin⟩

theorem unlock : LockFollows s (serveUnlock r s) := by
  unfold serveUnlock
  split
  · by_cases without : s.msgs.room.state = .unbound ∨ s.msgs.room.state = .vacant
    · rw [if_pos without]; exact of_lock rfl
    · exact of_stay without
  · exact of_lock rfl

theorem request {code : Nat} {f : Request → State → State} (h : requestService code = some f) : LockFollows s (f r s) := by
  have other (lock : (f r s).lock = s.lock) : LockFollows s (f r s) := of_lock lock
  unfold requestService at h
  split at h <;> cases h
  case h_6 => exact setPin s r
  case h_7 => exact setGuestCeiling s r
  case h_8 => exact unlock s r
  case h_9 => exact ⟨fun _ _ => rfl, fun _ => id⟩
  all_goals refine other ?_
  all_goals simp only [serveAttachRing, serveDetachRing, serveServiceInfo, serveKeyInfo, serveSlateInfo,
    serveLockInfo, serveReadEvent, serveQuote, servePurchase, State.purchaseEvent,
    serveCancel, serveListPurchases, serveBillInfo, serveStatus]
  all_goals repeat' split
  all_goals simp
  all_goals rfl

end LockFollows

/-! ### Requests (R170) -/

/-- A request in service answered with the books left alone leaves the handles sound. -/
theorem Served.handlesSound {s t : State} (h : Served s t) (fetching : s.req.service = .fetching) (w : s.HandlesSound) :
    t.HandlesSound :=
  w.of_same h.purchases h.startUp (fun serves => absurd serves h.answered) (fun idle => by rw [fetching] at idle; cases idle)
    fun n hn _ _ => by rw [h.notices] at hn; exact hn

/-- Every request but PURCHASE and CANCEL leaves the books alone. -/
theorem Served.request {code : Nat} {f : Request → State → State} (h : requestService code = some f) (purchase : code ≠ 13)
    (cancel : code ≠ 14) (r : Request) (s : State) : Served s (f r s) := by
  unfold requestService at h
  split at h <;> cases h
  · exact .serveAttachRing s r
  · exact .serveDetachRing s r
  · exact .serveServiceInfo s r
  · exact .serveKeyInfo s r
  · exact .plain s r _ _
  · exact .serveSetPin s r
  · exact .serveSetGuestCeiling s r
  · exact .serveUnlock s r
  · exact .answer r _ _ .elsewhere
  · exact .plain s r _ _
  · exact .serveReadEvent s r
  · exact .serveQuote s r
  · exact absurd rfl purchase
  · exact absurd rfl cancel
  · exact .serveListPurchases s r
  · exact .plain s r _ _
  · exact .plain s r _ _

namespace Stays

variable {s : State}

/-- A request that leaves the books and the room alone, and gives grants and PINs in a stay alone. -/
theorem of_served {t : State} (h : Served s t) (fetching : s.req.service = .fetching) (room : t.msgs.room = s.msgs.room)
    (lock : LockFollows s t) : Stays s t where
  sound := fun w => {
    toHandlesSound := h.handlesSound fetching w.toHandlesSound
    binding := by rw [room]; exact w.binding
    noStay := fun without => by
      rw [room] at without
      obtain ⟨entries, grants, pin, held, spent, cap⟩ := w.noStay without
      rw [room, h.purchases]
      exact ⟨entries, lock.grants without grants, lock.pin without pin, held, spent, cap⟩
    charged := by rw [room, h.purchases]; exact w.charged }
  running := h.startUp.trans
  room := fun _ => .inl (by rw [room])

/-- A request answered with no other effect. -/
theorem replied (fetching : s.req.service = .fetching) (r : Request) (c : AnswerCode) (ws : List Word) : Stays s (s.answer r c ws) :=
  of_served (.plain s r c ws) fetching rfl (.of_lock rfl)

/-- An entry taken in a stay holds a charge that fits below the cap (R111, R116, R117). -/
theorem purchaseEvent (fetching : s.req.service = .fetching) (stay : s.msgs.room.state = .occupied) (r : Request) (v : EventEntry)
    (h : Nat) : Stays s (s.purchaseEvent r v h) := by
  have refused (c : AnswerCode) (ws : List Word) : Stays s (s.answer r c ws) := replied fetching r c ws
  unfold State.purchaseEvent
  split
  · exact refused _ _
  · split
    · exact refused _ _
    · next room =>
      split
      · exact refused _ _
      · dsimp only
        split
        · exact refused _ _
        · next fits =>
          refine ⟨fun w => ?_, id, fun _ => .inl rfl⟩
          exact {
            toHandlesSound := w.toHandlesSound.takePurchase fetching (Nat.lt_of_not_le room) r v _ h _ _
            binding := w.binding
            noStay := fun without => by
              have without : s.msgs.room.state = .unbound ∨ s.msgs.room.state = .vacant := without
              rw [stay] at without
              rcases without with k | k <;> cases k
            charged := by
              refine Nat.le_trans (Nat.le_of_eq ?_) (Nat.le_of_not_lt fits)
              show s.msgs.room.spent + ((s.purchases.entries ++ [_]).map PurchaseEntry.heldCharge).sum = _
              rw [List.map_append, List.sum_append, ← Nat.add_assoc]
              rfl }

theorem servePurchase (fetching : s.req.service = .fetching) (r : Request) : Stays s (servePurchase r s) := by
  have refused (c : AnswerCode) (ws : List Word) : Stays s (s.answer r c ws) := replied fetching r c ws
  unfold Machine.servePurchase
  refine ite (refused _ _) (ite (refused _ _) ?_)
  split
  · exact refused _ _
  · next stay =>
    split
    · exact refused _ _
    · split
      · exact refused _ _
      · split
        · exact refused _ _
        · exact purchaseEvent fetching (Decidable.not_not.1 stay) r _ _

theorem serveCancel (fetching : s.req.service = .fetching) (r : Request) : Stays s (serveCancel r s) := by
  have refused (c : AnswerCode) (ws : List Word) : Stays s (s.answer r c ws) := replied fetching r c ws
  unfold Machine.serveCancel
  refine ite (refused _ _) ?_
  split
  · exact refused _ _
  · next e found =>
    obtain ⟨listed, -⟩ := PurchaseUnit.byHandle_some found
    split
    · exact (of_eases (.releaseHeld s .cancelled e (State.inUse_of_mem listed))).trans
        (replied (s := s.releaseHeld .cancelled e) fetching r _ _)
    · exact refused _ _
    · exact refused _ _

/-- Every request, served once its record has been fetched. -/
theorem request {code : Nat} {f : Request → State → State} (h : requestService code = some f) (fetching : s.req.service = .fetching)
    (r : Request) : Stays s (f r s) := by
  by_cases purchase : code = 13
  · subst purchase; cases h; exact servePurchase fetching r
  · by_cases cancel : code = 14
    · subst cancel; cases h; exact serveCancel fetching r
    · exact of_served (.request h purchase cancel r s) fetching (requestService_room h r s) (.request s r h)

variable (s)

theorem serveAs {code : Nat} {f : Request → State → State} (h : requestService code = some f) : Stays s (s.serveAs code f) := by
  rcases s.serveAs_cases code f with e | ⟨r, fetched, -, e⟩ <;> rw [e]
  · exact refl s
  · exact trans (t := s.fetchDone) elsewhere (request (s := s.fetchDone) h (State.fetched_service (s := s) fetched) r)

theorem serveUnknown : Stays s s.serveUnknown := by
  unfold State.serveUnknown
  split
  · exact refl s
  · next r fetched => exact ite (refl s) (trans (t := s.fetchDone) elsewhere
      (replied (s := s.fetchDone) (State.fetched_service (s := s) fetched) r _ _))

/-- A request is taken with no notice pending, so that the handles in use are those of the list (R109, R169). -/
theorem takeRequest : Stays s s.takeRequest := by
  unfold State.takeRequest
  split
  · next takes =>
    obtain ⟨running, -, -, -, unnoted, -⟩ := s.canTake_iff.1 takes
    refine ⟨fun w => ?_, id, fun _ => .inl rfl⟩
    exact { w with
      starting := fun other => absurd running other
      serving := fun _ => by
        refine ⟨s.purchases.entries.map (·.handle), by rw [List.length_map]; exact w.few, fun h used => ?_⟩
        rcases (State.handleInUse_iff _ h).1 used with ⟨e, listed, rfl⟩ | ⟨n, pending, -⟩
        · exact List.mem_map_of_mem listed
        · have pending : n ∈ s.req.notices := pending
          rw [unnoted] at pending
          cases pending }
  · exact refl s

/-! ### Records (R139, R171, R174) -/

theorem writeAnswer : Stays s s.writeAnswer := by
  unfold State.writeAnswer
  split
  · next a h answering =>
    have issued : Stays s (s.issueAnswer a) := setReq rfl (fun serves => by cases serves) (fun _ => rfl) fun _ => id
    refine ite (issued.trans ?_) (refl s)
    cases h with
    | none => exact refl _
    | some n => exact beginCommit _ _ _
  all_goals exact refl s

theorem writeNotice : Stays s s.writeNotice := by
  unfold State.writeNotice
  split
  · exact refl s
  · next n rest pending =>
    exact ite (setReq rfl id id fun m listed => by rw [pending]; exact List.mem_cons_of_mem _ listed) (refl s)

theorem writeBill : Stays s s.writeBill := by
  unfold State.writeBill
  split
  · exact ite (setReq rfl id id fun _ => id) (refl s)
  · exact refl s

end Stays

end Sys2Proof.Machine
end

section
/-! PROOFS. The laws of a stay through messages, start-up and store writes, and so through every command (O9). -/

namespace Sys2Proof.Machine

/-! ### Messages that leave the room in its state (R148) -/

namespace Stays

variable (s : State)

theorem offer (c : Caller) (w : StoreWrite) : Stays s (s.offer c w) := elsewhere

theorem offerRoom (c : Caller) : Stays s (s.offerRoom c) := elsewhere

theorem raiseRoom : Stays s (s.raise .room) := of_eases (.raise s .room fun _ handle => by cases handle)

/-- Spent and held stay below a cap raised to them (R162). -/
theorem applySetCap (m : Message) : Stays s (applySetCap m s) := by
  unfold Machine.applySetCap
  split
  · next stay =>
    refine trans (t := { s with msgs := { s.msgs with room := { s.msgs.room with
      cap := max (min (bytesAt (m.body 0) 0 4) Config.maxCap) (s.msgs.room.spent + s.purchases.held) } } })
      ⟨fun w => ?_, id, fun _ => .inl rfl⟩ (offerRoom _ _)
    exact { w with
      noStay := fun without => by
        have without : s.msgs.room.state = .unbound ∨ s.msgs.room.state = .vacant := without
        rcases stay with k | k <;> rw [k] at without <;> rcases without with j | j <;> cases j
      charged := Nat.le_max_right _ _ }
  · exact refl s

theorem applyEntitle (m : Message) : Stays s (applyEntitle m s) :=
  ite (refl s) (of_eases { Eases.refl s with room := .inl ⟨rfl, rfl, Nat.le_refl _⟩ })

theorem setSuspended (v : Bool) : Stays s (s.setSuspended v) := by
  have set : Stays s { s with msgs := { s.msgs with room := { s.msgs.room with suspended := v } } } :=
    of_eases { Eases.refl s with room := .inl ⟨rfl, rfl, Nat.le_refl _⟩ }
  exact ite (refl s) ((set.trans (offerRoom _ .head)).trans (raiseRoom _))

/-- A bound room stays bound under another hotel key (R164). -/
theorem applyHotelKey (m : Message) : Stays s (applyHotelKey m s) := by
  unfold Machine.applyHotelKey
  split
  · exact refl s
  · exact refl s
  · next b _ bound =>
    refine trans (t := { s with msgs := { s.msgs with room := { s.msgs.room with
      binding := some { b with hotelKey := m.keyParts b.roomKey.k1 0 0 } } } }) ⟨fun w => ?_, id, fun _ => .inl rfl⟩ (offer _ _ _)
    exact { w with binding := ⟨fun absent => (by cases absent), fun unbound => absurd unbound bound⟩ }

theorem applyClearPin : Stays s (applyClearPin s) :=
  ite (refl s) (trans (t := { s with lock := { s.lock with pin := none, failures := 0, lockout := none, grants := [] } })
    (of_eases { Eases.refl s with grants := List.nil_sublist _, pin := .inr rfl, room := .inl ⟨rfl, rfl, Nat.le_refl _⟩ })
    (offerRoom _ _))

theorem applyPolicy (m : Message) : Stays s (applyPolicy m s) :=
  ite (refl s) (trans elsewhere (fold (fun s h => beginCommit s .head h) _ _))

theorem ackUpTo (n : Nat) : Stays s (s.ackUpTo n) := by
  have written (u : State) (l : LogRecord) : Stays u (u.ackWrite l) := by
    unfold State.ackWrite
    split
    · exact refl u
    · exact ite (offer u _ _) (offer u _ _)
  unfold State.ackUpTo
  dsimp only
  split
  · exact elsewhere
  · exact trans elsewhere (fold written _ _)

theorem applyBillAck (m : Message) : Stays s (applyBillAck m s) := by
  refine ite (refl s) ?_
  split
  · exact testDrain s _
  · exact ite ((ackUpTo s _).trans (testDrain _ _)) (testDrain s _)

theorem applyKey (m : Message) : Stays s (applyKey m s) := by
  have announced (u : State) (ks : Fin 64) (p : Phase) (w : Word) : Stays u (u.announceKey ks p w) := by
    unfold State.announceKey
    split
    · exact elsewhere
    · exact ite (refl u) elsewhere
  unfold Machine.applyKey
  split
  · exact refl s
  · refine ite (fold (fun u j => ?_) _ s) (refl s)
    unfold applyKeyEntry
    dsimp only
    split
    · exact ite (announced u _ _ _) (ite (announced u _ _ _) (refl u))
    · exact refl u

/-- An announcement changes the event table, and ends purchases of events that are over (R100 to R104). -/
theorem announce (a : EventEntry) : Stays s (s.announce a) := by
  unfold State.announce
  split
  · unfold State.announceKnown
    split
    · exact elsewhere
    · exact ite elsewhere (ite ((endPurchase s .head _).trans elsewhere) (refl s))
  · refine ite (endPurchase s _ _) ?_
    split
    · exact ite elsewhere (ite ((endPurchase s _ _).trans elsewhere) (refl s))
    · unfold State.announceNew
      refine ite elsewhere ?_
      split
      · exact refl s
      · exact elsewhere

theorem applyEvent (m : Message) : Stays s (applyEvent m s) := by
  refine ite (fold (fun u j => ?_) _ s) (refl s)
  split
  · exact refl u
  · exact announce u _

theorem applySlate (m : Message) : Stays s (applySlate m s) := by
  unfold Machine.applySlate
  dsimp only
  split
  · exact elsewhere
  · exact refl s

end Stays

/-! ### The four messages that move the room (R155 to R158) -/

/-- Without entries, grants or a PIN the laws of a stay are those of the binding and the cap. -/
theorem State.HandlesSound.empty_staySound {t : State} (w : t.HandlesSound)
    (binding : t.msgs.room.binding = none ↔ t.msgs.room.state = .unbound) (entries : t.purchases.entries = [])
    (grants : t.lock.grants = []) (pin : t.lock.pin = none) (spent : t.msgs.room.spent = 0)
    (cap : (t.msgs.room.state = .unbound ∨ t.msgs.room.state = .vacant) → t.msgs.room.cap = 0) : t.StaySound := by
  have held : t.purchases.held = 0 := by unfold PurchaseUnit.held; rw [entries]; rfl
  exact { w with
    binding := binding
    noStay := fun without => ⟨entries, grants, pin, held, spent, cap without⟩
    charged := by omega }

namespace Moves

open Stays (of_eases offer offerRoom raiseRoom testDrain)

/-- A command that leaves the room in its state, before one that moves it. -/
theorem before {s t u : State} (h : Stays s t) (same : t.msgs.room.state = s.msgs.room.state) (k : Moves t u) : Moves s u :=
  ⟨k.sound ∘ h.sound, fun running => same ▸ k.moves (h.running running)⟩

/-- A command that leaves the room in its state, behind one that moves it. -/
theorem behind {s t u : State} (h : Moves s t) (k : Stays t u) (same : u.msgs.room.state = t.msgs.room.state := by rfl) : Moves s u :=
  ⟨k.sound ∘ h.sound, fun running => same ▸ h.moves running⟩

variable (s : State)

theorem applyBind (m : Message) : Moves s (applyBind m s) := by
  unfold Machine.applyBind
  split
  · next d unbound _ =>
    refine behind (t := { s.clearLock with
      msgs := { s.msgs with room := s.msgs.room.bound (m.binding d.key), policy := Policy.defaults } })
      ⟨fun w => ?_, fun _ => by rw [unbound]; rfl⟩
      ((((Stays.offer _ _ _).trans (.offer _ _ _)).trans (.offerRoom _ _)).trans (.raiseRoom _))
    obtain ⟨entries, -⟩ := w.noStay (.inl unbound)
    refine State.HandlesSound.empty_staySound ⟨w.distinct, w.next, w.few, w.starting, w.serving⟩ ?_ entries rfl rfl rfl fun _ => rfl
    exact ⟨fun absent => (by cases absent), fun unbound => (by cases unbound)⟩
  · exact (Stays.refl s).moves

theorem applyUnbind : Moves s (applyUnbind s) := by
  unfold Machine.applyUnbind
  split
  · next unbinds =>
    obtain ⟨vacant, -⟩ := s.unbinds_iff.1 unbinds
    refine behind (t := { s.clearLock with
      msgs := { s.msgs with room := s.msgs.room.unbound, policy := Policy.defaults }
      purchases := { s.purchases with titles := [] } })
      ⟨fun w => ?_, fun _ => by rw [vacant]; rfl⟩
      (((((Stays.offer _ _ _).trans (.offer _ _ _)).trans (.offer _ _ _)).trans (.offerRoom _ _)).trans (.raiseRoom _))
    obtain ⟨entries, -, -, -, spent, cap⟩ := w.noStay (.inr vacant)
    exact State.HandlesSound.empty_staySound ⟨w.distinct, w.next, w.few, w.starting, w.serving⟩ ⟨fun _ => rfl, fun _ => rfl⟩ entries
      rfl rfl spent fun _ => cap
  · exact (Stays.refl s).moves

theorem applyCheckIn (m : Message) : Moves s (applyCheckIn m s) := by
  by_cases vacant : s.msgs.room.state = .vacant
  · unfold Machine.applyCheckIn
    rw [vacant]
    dsimp only
    refine behind ⟨fun w => ?_, fun _ => by rw [vacant]; rfl⟩ ((Stays.offerRoom _ _).trans (.raiseRoom _))
    obtain ⟨entries, -⟩ := w.noStay (.inr vacant)
    refine State.HandlesSound.empty_staySound ⟨w.distinct, w.next, w.few, w.starting, w.serving⟩ ?_ entries rfl rfl rfl ?_
    · refine ⟨fun absent => ?_, fun unbound => by cases unbound⟩
      have unbound := w.binding.1 absent
      rw [vacant] at unbound
      cases unbound
    · exact fun without => by rcases without with k | k <;> cases k
  · have left : Machine.applyCheckIn m s = s := by
      unfold Machine.applyCheckIn
      split
      · next k => exact absurd k vacant
      all_goals rfl
    rw [left]
    exact (Stays.refl s).moves

/-- CHECKOUT, and VACANT behind it where the drain holds at once (R158, R159). -/
theorem applyCheckOut : Moves s (applyCheckOut s) := by
  by_cases occupied : s.msgs.room.state = .occupied
  · have opened : s.StaySound → (s.setRoomState .checkout).StaySound := fun w => by
      refine { w with binding := ?_, noStay := fun without => ?_ }
      · refine ⟨fun absent => ?_, fun unbound => by cases unbound⟩
        have unbound := w.binding.1 absent
        rw [occupied] at unbound
        cases unbound
      · rcases without with k | k <;> cases k
    have released (u : State) : Eases u u.releaseAllHeld :=
      .foldReleaseHeld u .checkout _ fun e listed => State.inUse_of_mem (List.mem_filter.1 listed).1
    have stays (u : State) : u.releaseAllHeld.msgs = u.msgs := by rw [State.releaseAllHeld, State.foldl_releaseHeld]
    have started (u : State) : Stays u u.startCheckoutTimer := of_eases { Eases.refl u with room := .inl ⟨rfl, rfl, Nat.le_refl _⟩ }
    have left : Stays (s.setRoomState .checkout) s.checkedOut :=
      (((offerRoom _ .head).trans (of_eases (released _) (by rw [stays]))).trans (started _)).trans (raiseRoom _)
    have checkout : s.checkedOut.msgs.room.state = .checkout := by
      show ((s.setRoomState .checkout).offerRoom .head).releaseAllHeld.msgs.room.state = _
      rw [stays]
      rfl
    rw [applyCheckOut_occupied occupied]
    refine ⟨fun w => (testDrain _ .head).sound (left.sound (opened w)), fun running => ?_⟩
    rw [occupied]
    rcases (testDrain s.checkedOut .head).room (left.running running) with same | ⟨-, vacant⟩
    · rw [same, checkout]; rfl
    · rw [vacant]; rfl
  · have left : Machine.applyCheckOut s = s := by
      unfold Machine.applyCheckOut
      split
      · next k => exact absurd k occupied
      all_goals rfl
    rw [left]
    exact (Stays.refl s).moves

/-! ### A message dealt with (R148) -/

/-- A message of each kind applied: four kinds move the room, and the others leave it or drain it. -/
theorem applyKind (k : MsgKind) (m : Message) : Moves s (applyKind k m s) := by
  cases k with
  | bind => exact applyBind s m
  | unbind => exact applyUnbind s
  | checkIn => exact applyCheckIn s m
  | checkOut => exact applyCheckOut s
  | setCap => exact (Stays.applySetCap s m).moves
  | entitle => exact (Stays.applyEntitle s m).moves
  | policy => exact (Stays.applyPolicy s m).moves
  | billAck => exact (Stays.applyBillAck s m).moves
  | suspend => exact (Stays.setSuspended s true).moves
  | resume => exact (Stays.setSuspended s false).moves
  | hotelKey => exact (Stays.applyHotelKey s m).moves
  | clearPin => exact (Stays.applyClearPin s).moves
  | key => exact (Stays.applyKey s m).moves
  | serviceMap => exact (Stays.ite .elsewhere (.refl s)).moves
  | event => exact (Stays.applyEvent s m).moves
  | time => exact (Stays.elsewhere (t := applyTime m s)).moves
  | slate => exact (Stays.applySlate s m).moves

theorem applyHead (k : MsgKind) (m : Message) : Moves s (s.applyHead k m) := by
  have consumed : Stays s (s.consumeSerial k m.serial) ∧ (s.consumeSerial k m.serial).msgs.room = s.msgs.room := by
    unfold State.consumeSerial
    split
    · exact ⟨.refl s, rfl⟩
    · exact ⟨.elsewhere, rfl⟩
  have left (u : State) : Stays u u.leaveOrWait ∧ u.leaveOrWait.msgs.room = u.msgs.room := by
    unfold State.leaveOrWait
    split <;> exact ⟨.elsewhere, rfl⟩
  exact (before consumed.1 (by rw [consumed.2]) (applyKind _ k m)).behind (left _).1 (congrArg Room.state (left _).2)

theorem dealHeadAs (k : MsgKind) : Moves s (s.dealHeadAs k) := by
  rcases s.dealHeadAs_cases k with e | ⟨m, -, e⟩ <;> rw [e]
  · exact (Stays.refl s).moves
  · exact applyHead s k m

theorem dealHead : Moves s s.dealHead := by
  rcases s.dealHead_cases with e | e | ⟨k, m, -, e⟩ <;> rw [e]
  · exact (Stays.refl s).moves
  · exact (Stays.elsewhere (t := { s with msgs := s.msgs.dropHead })).moves
  · exact applyHead s k m

end Moves

/-! ### The end of start-up (R129, R177) -/

/-- The part is RUNNING. -/
def State.launched (s : State) : State := { s with req := { s.req with startUp := .running, scanned := none } }

/-- Whether the part is RUNNING is nothing to what eases the laws. -/
theorem Eases.launched {s t : State} (h : Eases s t) : Eases s.launched t.launched := { h with startUp := rfl }

theorem State.endStartUp_launched (s : State) :
    s.endStartUp = (s.startedUp.raise (s.startedUp.startNotice (s.req.scanned.getD Scanned.nothing))).launched := rfl

/-- What the owners take is lawful, and the drain behind it eases the laws (R129, R159, R167). -/
theorem State.StaySound.endStartUp {s : State} (w : s.StaySound) (starting : s.req.startUp ≠ .running) : s.endStartUp.StaySound := by
  have noted : Eases s.startedUp (s.startedUp.raise (s.startedUp.startNotice (s.req.scanned.getD Scanned.nothing))) :=
    .raise _ _ fun k handle => by cases handle
  have eased := (s.startedUp_eases.2.1.trans noted).launched
  rw [State.endStartUp_launched]
  refine eased.staySound ?_
  generalize s.req.scanned.getD Scanned.nothing = x
  obtain ⟨-, distinct, next⟩ := x.purchasesTaken_spec
  rw [State.takeRecovered_eq]
  exact {
    distinct := distinct
    next := next
    few := x.rebuilt_length
    starting := fun other => absurd rfl other
    serving := fun serves => by
      have serves : s.req.service = .fetching := serves
      rw [(w.starting starting).1] at serves
      cases serves
    binding := by
      show x.roomRecovered.binding = none ↔ x.roomRecovered.state = .unbound
      rw [x.roomRecovered_binding, x.roomRecovered_state]
      split
      · next unbound => exact ⟨fun _ => unbound, fun _ => rfl⟩
      · next bound => exact ⟨fun absent => x.roomState_unbound_iff.2 (.inr absent), fun unbound => absurd unbound bound⟩
    noStay := fun without => by
      have without : x.roomRecovered.state = .unbound ∨ x.roomRecovered.state = .vacant := without
      rw [x.roomRecovered_state] at without
      obtain ⟨room, cap, spent, lock, -, purchases⟩ := Scanned.taken_outside ((RoomState.inStay_false_iff _).2 without)
      dsimp only [State.launched]
      rw [room, lock, purchases]
      exact ⟨rfl, rfl, rfl, rfl, spent, cap⟩
    charged := by
      show x.roomRecovered.spent + x.purchasesTaken.held ≤ x.roomRecovered.cap
      rw [x.purchasesTaken_held]
      exact x.roomRecovered_spent_le }

/-! ### Store writes and the scan (R133, R134, R144) -/

namespace Stays

variable (s : State)

theorem endStartUpIf : Stays s s.endStartUpIf := by
  by_cases awaiting : s.req.startUp = .awaitingRoom
  · have starting : s.req.startUp ≠ .running := by rw [awaiting]; decide
    have ended : s.endStartUpIf = s.endStartUp := by unfold State.endStartUpIf; rw [awaiting]
    rw [ended]
    exact ⟨fun w => w.endStartUp starting, fun running => absurd running starting, fun running => absurd running starting⟩
  · rw [State.endStartUpIf_other awaiting]
    exact refl s

theorem writeEnded (kept : Bool) : Stays s { s with req := s.req.writeEnded kept } := by
  rw [RequestUnit.writeEnded_eq]
  split
  · next service => exact setReq rfl Service.noConfusion (fun idle => by rw [service] at idle; cases idle) fun _ => id
  · exact refl s

theorem writeJoined : Stays s { s with req := s.req.writeJoined } := by
  rw [RequestUnit.writeJoined_eq]
  split
  · next service => exact setReq rfl Service.noConfusion (fun idle => by rw [service] at idle; cases idle) fun _ => id
  · exact refl s

theorem writeDone (q : QueuedWrite) : Stays s (s.writeDone q) := by
  unfold State.writeDone
  split
  · exact (ite (writeEnded s true) (refl s)).trans (endStartUpIf _)
  · exact ite (refl s) (of_cascade (.completeCommit s _) (.completeCommit s _))
  · exact ite (refl s) elsewhere
  all_goals exact refl s

theorem completeWrite (v : Verify) : Stays s (s.completeWrite v) := by
  have ended (u : State) : Stays u (State.failedCommits s u) :=
    ite (of_cascade (.commitEnded u .part) fun _ => .commitEnded u .part) (refl u)
  cases queue : s.store.queue with
  | nil => rw [State.completeWrite_idle v queue]; exact refl s
  | cons q rest =>
    by_cases passed : v = .verified
    · rw [passed, State.completeWrite_verified queue]
      exact trans elsewhere (writeDone _ q)
    · rw [State.completeWrite_failed queue passed]
      have lost (u : State) : Stays u u.storeFault := of_cascade (.storeFault u) fun _ => .storeFault u
      exact ((trans (t := s.leaving _) elsewhere (lost _)).trans (ended _)).trans (endStartUpIf _)

theorem advanceLine : Stays s s.advanceLine := by
  have joined (u : State) : Stays u (if u.store.line.any (·.any (·.admits)) then u else { u with req := u.req.writeJoined }) :=
    ite (refl u) (writeJoined u)
  exact trans (t := { s with store := s.store.advance }) elsewhere ((joined _).trans (ite elsewhere (refl _)))

/-- The scan's end takes nothing of the room, and an unreadable store ends start-up (R144, R178). -/
theorem scanComplete (e : ScanEnd) : Stays s (s.scanComplete e) := by
  have starting (scanning : s.req.startUp = .scanning) : s.req.startUp ≠ .running := by rw [scanning]; decide
  unfold State.scanComplete
  split
  · next scanning =>
    refine ⟨fun w => ?_, fun running => absurd running (starting scanning), fun running => absurd running (starting scanning)⟩
    cases e with
    | unreadable =>
      refine State.StaySound.endStartUp ?_ (starting scanning)
      exact { w with }
    | read failed =>
      refine (fold (fun u x => offer u .part x) _ _).sound ((offer _ .part _).sound ?_)
      exact { w with starting := fun _ => w.starting (starting scanning) }
  · exact refl s
  · exact refl s

end Stays

/-! ### Every command -/

theorem Moves.of_effect {s t : State} (h : Effect s t) : Moves s t := by
  cases h with
  | scan e => exact (Stays.scanComplete s e).moves
  | write w => exact (Stays.arriveWrite s w).moves
  | read r => exact (Stays.arriveRead s r).moves
  | returnRead => exact (Stays.returnRead s).moves
  | grant => exact (Stays.grant s).moves
  | takeRequest => exact (Stays.takeRequest s).moves
  | serveUnknown => exact (Stays.serveUnknown s).moves
  | serve h => exact (Stays.serveAs s h).moves
  | writeAnswer => exact (Stays.writeAnswer s).moves
  | writeNotice => exact (Stays.writeNotice s).moves
  | writeBill => exact (Stays.writeBill s).moves
  | dealHead => exact dealHead s
  | dealHeadAs k => exact dealHeadAs s k
  | tick => exact (Stays.takeTick s).moves
  | completeWrite v => exact (Stays.completeWrite s v).moves
  | advanceLine => exact (Stays.advanceLine s).moves

end Sys2Proof.Machine

open Sys2Proof Sys2Proof.Machine

/-- Settles O9: with nothing owed a command has its effect alone, which moves the room as tabled; and a reset, the parts of what is owed,
and each effect behind them keep the laws of a stay. -/
theorem roomStateMovesAsTabled : Obligations.RoomStateMovesAsTabled := by
  refine ⟨fun c s t settled running other ran => ?_, fun c s t ran w => ?_⟩
  · rcases exec_inv_of_not_reset ran other with ⟨p, rfl⟩ | effect
    · exact (Stays.takeOwed s p).moves.moves running
    · rw [State.settle_settled settled] at effect
      exact (Moves.of_effect effect).moves running
  · rcases exec_inv ran with ⟨straps, performed, rfl⟩ | ⟨p, rfl⟩ | effect
    · exact { State.reset_staySound with }
    · exact (Stays.takeOwed s p).sound w
    · exact (Moves.of_effect effect).sound ((Stays.settle s).sound w)
end

section
/-! PROOFS. The checks of a head-end message (O41), and its coming to the intake queue (O19) and leaving it (O42). -/

namespace Sys2Proof.Machine

/-! ### The checks one by one (R149 to R153) -/

/-- A message passes as one of kind `k` when each of its checks does, under the key of its address kind. -/
theorem MessageUnit.check_iff (u : MessageUnit) (m : Message) (k : MsgKind) : u.check m = some k ↔ ∃ a key,
    m.addressKind = some a ∧ m.kind = some k ∧ u.keyFor a = some key ∧ m.bodyLength ≤ 12 ∧ u.addressMatches m a = true ∧
      m.verifies key = true ∧ a.carries k.scope = true ∧ u.serials.accepts k m.serial = true := by
  unfold MessageUnit.check
  split
  · next a k' address kind =>
    rw [address, kind]
    split
    · next absent =>
      refine iff_of_false (by rintro ⟨⟩) ?_
      rintro ⟨b, key, same, -, found, -⟩
      cases same
      rw [absent] at found
      cases found
    · next key found =>
      split
      · next passes =>
        constructor
        · rintro ⟨⟩; exact ⟨a, key, rfl, rfl, found, passes⟩
        · rintro ⟨b, key', same, kinds, -⟩; exact kinds
      · next fails =>
        refine iff_of_false (by rintro ⟨⟩) fun ⟨b, key', same, kinds, found', passes⟩ => fails ?_
        cases same
        cases kinds
        cases found.symm.trans found'
        exact passes
  · next unknown =>
    exact iff_of_false (by rintro ⟨⟩) fun ⟨a, _, address, kind, _⟩ => unknown a k address kind

/-- The address matches, and the key of its kind is `key` (R150, R151). -/
theorem MessageUnit.addressed_iff (u : MessageUnit) (m : Message) (a : AddressKind) (key : Key128) :
    (u.keyFor a = some key ∧ u.addressMatches m a = true) ↔ match a with
      | .device => ∃ d, u.identity = some d ∧ d.serial = m.deviceSerial ∧ key = d.key
      | .room => ∃ b, u.room.binding = some b ∧ b.room = m.address16 ∧ key = b.roomKey
      | .group => ∃ b, u.room.binding = some b ∧ b.groups &&& m.address16 ≠ 0#16 ∧ key = b.hotelKey
      | .all => ∃ b, u.room.binding = some b ∧ key = b.hotelKey := by
  cases a with
  | device =>
    cases identity : u.identity with
    | none => simp [MessageUnit.keyFor, identity]
    | some d => simpa [MessageUnit.keyFor, MessageUnit.addressMatches, identity] using and_comm.trans (and_congr_right fun _ => eq_comm)
  | room | group =>
    cases binding : u.room.binding with
    | none => simp [MessageUnit.keyFor, binding]
    | some b => simpa [MessageUnit.keyFor, MessageUnit.addressMatches, binding] using and_comm.trans (and_congr_right fun _ => eq_comm)
  | all =>
    cases binding : u.room.binding with
    | none => simp [MessageUnit.keyFor, binding]
    | some b => simpa [MessageUnit.keyFor, MessageUnit.addressMatches, binding] using eq_comm

/-- The kind may be carried by the address kind, and its serial is accepted (R152, R153). -/
theorem carried_iff (l : Serials) (a : AddressKind) (k : MsgKind) (serial : Nat) :
    (a.carries k.scope = true ∧ l.accepts k serial = true) ↔ match k.scope with
      | .device => a = .device ∧ l.device < serial
      | .room => a = .room ∧ (l.room < serial ∨ (k = .unbind ∧ l.room = 4294967295 ∧ serial = 4294967295))
      | .broadcast => a = .group ∨ a = .all := by
  unfold Serials.accepts
  cases k.scope <;> cases a <;> simp [AddressKind.carries, and_assoc]

/-- A message verifies when its tag is that of its first 14 words (R151). -/
theorem Message.verifies_iff (m : Message) (key : Key128) : m.verifies key = true ↔
    ((List.range 14).map m.word).foldl (fun t w => mix (t ^^^ w ^^^ key.k2)) key.k1 = m.word 14 := beq_iff_eq

end Sys2Proof.Machine

open Sys2Proof Sys2Proof.Machine

/-- Settles O41: the checks of the envelope, address and key together, carriage and serial together. -/
theorem headChecksDecide : Obligations.HeadChecksDecide := by
  intro u m k
  rw [u.check_iff m k]
  refine exists_congr fun a => exists_congr fun key => ?_
  have envelope := u.addressed_iff m a key
  constructor
  · rintro ⟨address, kind, found, short, matched, verifies, carried, accepted⟩
    exact ⟨address, kind, short, by cases a <;> exact envelope.1 ⟨found, matched⟩, (m.verifies_iff key).1 verifies,
      (carried_iff u.serials a k m.serial).1 ⟨carried, accepted⟩⟩
  · rintro ⟨address, kind, short, addressed, verifies, taken⟩
    obtain ⟨found, matched⟩ := envelope.2 (by cases a <;> exact addressed)
    obtain ⟨carried, accepted⟩ := (carried_iff u.serials a k m.serial).2 taken
    exact ⟨address, kind, found, short, matched, (m.verifies_iff key).2 verifies, carried, accepted⟩

namespace Sys2Proof.Machine

/-! ### Control cells (R147, R148) -/

/-- A message joins the intake queue while it holds fewer than 8 (R148). -/
theorem MessageUnit.take_room {u : MessageUnit} (m : Message) (room : u.intake.length < 8) :
    u.take m = { u with intake := u.intake ++ [m] } := if_pos room

/-- With 8 in the queue it is counted as dropped (R148). -/
theorem MessageUnit.take_full {u : MessageUnit} (m : Message) (full : 8 ≤ u.intake.length) :
    u.take m = { u with dropped := if u.dropped < 65535 then u.dropped + 1 else u.dropped } := if_neg (Nat.not_lt.2 full)

/-- A write that lies in one slot of the control ring from its word `k` on is a control cell, by R147: `x` is its first word. -/
theorem isControlCell_iff (writer : BitVec 4) {w : WriteTxn} {x : WriteWord} {xs : List WriteWord} (words : w.words = x :: xs)
    (slot k : Nat) : isControlCell writer w ⟨.controlSlot slot, k, 0, w.words.length⟩ = true ↔
      w.initiator = writer ∧ k = 0 ∧ w.words.length = 16 ∧ (∀ y ∈ w.words, y.enables = 0xFF#8) ∧ headerDamaged x.data = false ∧
        headerKind x.data = .control := by
  have whole : portionWords w ⟨.controlSlot slot, k, 0, w.words.length⟩ = w.words := by simp [portionWords]
  unfold isControlCell
  rw [whole]
  simp [words, and_assoc]

/-- An accepted write within one slot of the control ring (R147). -/
theorem exec_controlWrite {s : State} {w : WriteTxn} {slot k : Nat} {win : Window} {x : WriteWord} {xs : List WriteWord}
    (h : s.accepts (.write w)) (attached : s.path.control = some win) (words : w.words = x :: xs)
    (inSlot : s.inControlSlot slot k w.addr w.words.length) : exec (.controlSlotWrite w) s = .next
      (State.joined (if s.msgs.watching && isControlCell win.writer w ⟨.controlSlot slot, k, 0, w.words.length⟩ then
        { s with msgs := s.msgs.take ⟨xs.map WriteWord.data⟩ } else s) (.write w)) := by
  have ⟨_, ok, _⟩ := h
  have whole : portionWords w ⟨.controlSlot slot, k, 0, w.words.length⟩ = x :: xs := by simp [portionWords, words]
  refine (arrival_write h).trans ?_
  rw [s.path.portions_single w.addr w.words.length _ k (burstOk_pos ok) inSlot]
  show Host.Outcome.next (State.joined (s.controlWrite w ⟨.controlSlot slot, k, 0, w.words.length⟩) (.write w)) = _
  unfold State.controlWrite
  rw [attached]
  dsimp only
  rw [whole, List.drop_one, List.tail_cons]

end Sys2Proof.Machine

open Sys2Proof Sys2Proof.Machine

/-- Settles O19: the write is one portion, in one slot, and a control cell or not. -/
theorem controlCellTaken : Obligations.ControlCellTaken := by
  intro s w slot k win x xs h attached words inSlot isCell
  have cell : (s.msgs.watching && isControlCell win.writer w ⟨.controlSlot slot, k, 0, w.words.length⟩) = true ↔ isCell := by
    rw [Bool.and_eq_true, isControlCell_iff win.writer words]
  rw [exec_controlWrite h attached words inSlot]
  refine ⟨fun whole room => ?_, fun whole full => ?_, fun other => ?_⟩
  · rw [if_pos (cell.2 whole), MessageUnit.take_room _ room]
  · rw [if_pos (cell.2 whole), MessageUnit.take_full _ full]
  · rw [if_neg fun whole => other (cell.1 whole)]
end

section
/-! PROOFS. The head message dealt with by the row of its kind alone (O42). -/

namespace Sys2Proof.Machine

/-! ### The row of a kind (R148; log 11) -/

/-- With no message to deal with, MESSAGE_AT_HEAD and every kind's row leave the state as it is. -/
theorem exec_rows_empty {s : State} (h : s.settled) (empty : s.msgs.headMessage = none) :
    exec .messageAtHead s = .next s ∧ ∀ k : MsgKind, exec k.row s = .next s := by
  refine ⟨(act_settled _ h).trans ?_, fun k => (exec_row k h).trans ?_⟩
  · rw [State.dealHead, empty]
  · rw [State.dealHeadAs, empty]

/-- A message that fails a check leaves by MESSAGE_AT_HEAD, and no kind's row applies it. -/
theorem exec_rows_refused {s : State} {m : Message} (h : s.settled) (head : s.msgs.headMessage = some m)
    (refused : s.msgs.check m = none) : exec .messageAtHead s = .next s.headGone ∧ ∀ k : MsgKind, exec k.row s = .next s := by
  refine ⟨(act_settled _ h).trans ?_, fun k => (exec_row k h).trans ?_⟩
  · rw [State.dealHead, head]
    dsimp only
    rw [refused]
    rfl
  · rw [State.dealHeadAs, head]
    dsimp only
    rw [refused, if_neg nofun]

/-- A message that passes as one of kind `k` is applied by MESSAGE_AT_HEAD as by the row of `k`, and by no other row. -/
theorem exec_rows_passed {s : State} {m : Message} {k : MsgKind} (h : s.settled) (head : s.msgs.headMessage = some m)
    (passed : s.msgs.check m = some k) : exec .messageAtHead s = exec k.row s ∧ ∀ k' : MsgKind, k' ≠ k → exec k'.row s = .next s := by
  refine ⟨(act_settled _ h).trans ((exec_row k h).trans ?_).symm, fun k' other => (exec_row k' h).trans ?_⟩
  · rw [State.dealHead, State.dealHeadAs, head]
    dsimp only
    rw [passed, if_pos rfl]
  · rw [State.dealHeadAs, head]
    dsimp only
    rw [passed, if_neg fun same => other (Option.some.inj same).symm]

/-! ### Room states in which a kind is not applied (R154) -/

/-- The room states, and for UNBIND the bill log, in which a kind is not applied. -/
def State.unapplied (s : State) : MsgKind → Prop
  | .bind => s.msgs.room.state ≠ .unbound
  | .checkIn => s.msgs.room.state ≠ .vacant
  | .unbind => s.unbinds = false
  | .checkOut => s.msgs.room.state ≠ .occupied
  | .setCap => ¬(s.msgs.room.state = .occupied ∨ s.msgs.room.state = .checkout)
  | _ => s.msgs.room.state = .unbound

/-- A kind that is not applied changes nothing; the broadcasts apart, which no room state stops. -/
theorem applyKind_unapplied (m : Message) {k : MsgKind} {s : State} (scope : k.scope ≠ .broadcast) (idle : s.unapplied k) :
    applyKind k m s = s := by
  cases k with
  | bind =>
    show applyBind m s = s
    unfold applyBind
    split
    · next unbound _ => exact absurd unbound idle
    · rfl
  | checkIn =>
    show applyCheckIn m s = s
    unfold applyCheckIn
    split
    · next vacant => exact absurd vacant idle
    all_goals rfl
  | checkOut =>
    show applyCheckOut s = s
    unfold applyCheckOut
    split
    · next occupied => exact absurd occupied idle
    all_goals rfl
  | setCap => exact if_neg idle
  | unbind => exact if_neg (Bool.eq_false_iff.1 idle)
  | suspend | resume => exact if_pos (.inl idle)
  | hotelKey =>
    show applyHotelKey m s = s
    unfold applyHotelKey
    rw [show s.msgs.room.state = .unbound from idle]
  | entitle | policy | billAck | clearPin => exact if_pos idle
  | key | serviceMap | event | time | slate => exact absurd rfl scope

/-- An UNBIND that is not applied consumes its serial like any other (R153). -/
theorem State.consumeSerial_unbind_kept {s : State} (h : s.unbinds = false) (n : Nat) :
    s.consumeSerial .unbind n = s.roomSerial n := by
  unfold State.consumeSerial State.serialsAfter
  dsimp only [MsgKind.scope]
  rw [if_neg fun applied => Bool.eq_false_iff.1 h applied.2]
  rfl

/-- A room-scope message that is not applied consumes its serial and does nothing else (R153). -/
theorem exec_unapplied_room {s : State} {m : Message} {k : MsgKind} (h : s.heading k m) (scope : k.scope = .room)
    (idle : s.unapplied k) : exec k.row s = .next (s.roomSerial m.serial).leaveOrWait := by
  have serial : s.consumeSerial k m.serial = s.roomSerial m.serial := by
    by_cases unbind : k = .unbind
    · subst unbind; exact State.consumeSerial_unbind_kept idle _
    · exact State.consumeSerial_room scope unbind _ s
  refine exec_applied h ?_
  rw [serial]
  refine applyKind_unapplied m (by rw [scope]; nofun) ?_
  cases k <;> exact idle

/-- A BIND in a bound room consumes its serial and does nothing else (R153, R155). -/
theorem exec_bind_unapplied {s : State} {m : Message} (h : s.heading .bind m) (bound : s.msgs.room.state ≠ .unbound) :
    exec .bind s = .next ({ s with
      msgs := { s.msgs with serials := { s.msgs.serials with device := m.serial } }
      store := s.store.offer .head (.serials (some { s.msgs.serials with device := m.serial })) }.leaveOrWait) := by
  refine exec_applied (k := .bind) h ?_
  rw [State.consumeSerial_device rfl]
  exact applyKind_unapplied m nofun bound

/-! ### Leaving (R148) -/

/-- Some write of the waiting line is one that the head message waits for. -/
theorem Store.headWaits_iff (st : Store) :
    st.line.any (·.any (·.heads)) = true ↔ ∃ x ∈ st.line, ∃ q ∈ x.writes, q.heads = true := by
  simp only [List.any_eq_true, LineItem.any_iff]

end Sys2Proof.Machine

open Sys2Proof Sys2Proof.Machine

/-- Settles O42: the row of the kind, the kinds that are not applied, and leaving or waiting. -/
theorem headMessageDealtWith : Obligations.HeadMessageDealtWith := by
  refine ⟨⟨fun s => exec_rows_empty, fun s m => exec_rows_refused, fun s m k => exec_rows_passed⟩,
    ⟨fun s m k heading scope idle => exec_unapplied_room heading scope ?_, fun s m => exec_bind_unapplied⟩,
    fun s => ⟨fun clear => if_neg fun waits => clear (s.store.headWaits_iff.1 waits),
      fun offered => if_pos (s.store.headWaits_iff.2 offered)⟩⟩
  cases k with
  | checkIn | checkOut => exact idle
  | setCap => exact not_or.2 idle
  | unbind => exact Bool.eq_false_iff.2 fun applied => idle.elim (· (s.unbinds_iff.1 applied).1) (· (s.unbinds_iff.1 applied).2)
  | entitle | policy | billAck | suspend | resume | hotelKey | clearPin => exact idle
  | bind | key | serviceMap | event | time | slate => cases scope
end

section
/-! PROOFS. The end of start-up (O60): what the scan gives, the state it ends in with and without the drain, and the ROOM write that
ends it. -/

namespace Sys2Proof.Machine

/-! ### What the scan gives (R129, R153, R167) -/

/-- The room state of an identified, bound part (R167). -/
theorem Scanned.roomState_bound {x : Scanned} {d : Identity} {b : Binding} (identity : x.identity = some d)
    (binding : x.binding = some b) : x.roomState = match x.room with
      | some r => if r.state.inStay then r.state else .vacant
      | none => .vacant := by
  unfold Scanned.roomState
  rw [identity, binding]
  cases x.room with
  | none => rfl
  | some r => cases state : r.state <;> simp [state, RoomState.inStay]

/-- A room that does not come up UNBOUND comes up with its binding (R167). -/
theorem Scanned.roomRecovered_bound {x : Scanned} (bound : x.roomState ≠ .unbound) : x.roomRecovered.binding = x.binding := by
  rw [Scanned.roomRecovered_binding, if_neg bound]

/-- The stay number is that of the ROOM record, or of the commit record with the highest (R167; log 16, log 17). -/
theorem Scanned.stay_spec (x : Scanned) : (x.identity = none → x.stay = 0) ∧ (∀ r, x.identity ≠ none → x.room = some r → x.stay = r.stay) ∧
    (x.identity ≠ none → x.room = none → (∀ c ∈ x.commits, c.stay ≤ x.stay) ∧ (x.stay = 0 ∨ ∃ c ∈ x.commits, c.stay = x.stay)) := by
  unfold Scanned.stay Scanned.identified
  refine ⟨fun missing => by rw [missing]; rfl, fun r known room => ?_, fun known room => ?_⟩
  · rw [if_pos (Option.isSome_iff_ne_none.2 known), room]
  · rw [if_pos (Option.isSome_iff_ne_none.2 known), room]
    exact highestOf_found (·.stay) x.commits

/-- The serials: none without an identity, no room scope in an unbound room (R153). -/
theorem Scanned.serialsTaken_spec (x : Scanned) : (x.identity = none → x.serialsTaken = ⟨0, 0⟩) ∧
    (x.identity ≠ none → x.roomState = .unbound → x.serialsTaken = ⟨(x.serials.getD ⟨0, 0⟩).device, 0⟩) ∧
    (x.identity ≠ none → x.roomState ≠ .unbound → x.serialsTaken = x.serials.getD ⟨0, 0⟩) := by
  unfold Scanned.serialsTaken Scanned.identified
  refine ⟨fun missing => by rw [missing]; rfl, fun known unbound => ?_, fun known bound => ?_⟩
  · rw [if_pos (Option.isSome_iff_ne_none.2 known)]; exact if_pos unbound
  · rw [if_pos (Option.isSome_iff_ne_none.2 known)]; exact if_neg bound

/-- The rebuilt entries carry handles from `h` on (R129). -/
theorem rebuiltEntries_eq (h : Nat) (l : List CommitRecord) : rebuiltEntries h l = l.mapIdx fun i c =>
    ⟨h + i, c.event, c.title, .committed, c.charge, 0, some c.seq, c.hotel, .rebuilt, false⟩ := by
  induction l generalizing h with
  | nil => rfl
  | cons c l ih =>
    rw [rebuiltEntries, ih, List.mapIdx_cons]
    simp only [Nat.add_zero, Nat.add_assoc, Nat.add_comm 1]

/-- Whether a rebuilt entry carries a number, record by record. -/
theorem rebuiltEntries_all_seq (h n : Nat) (l : List CommitRecord) :
    ((rebuiltEntries h l).all fun e => e.seq != some n) = l.all fun c => c.seq != n := by
  induction l generalizing h with
  | nil => rfl
  | cons c l ih =>
    rw [rebuiltEntries, List.all_cons, List.all_cons, ih]
    congr 1

/-- The freed records: the acknowledged ones whose number no rebuilt record carries (R145). -/
theorem Scanned.freed_eq (x : Scanned) : x.freed = ((sortBySeq x.commits).filter (·.acked)).filter fun c =>
    x.rebuiltRecords.all fun q => q.seq != c.seq := by
  rw [Scanned.freed, List.filter_filter]
  refine List.filter_congr fun c _ => ?_
  rw [Bool.and_comm, List.not_any_eq_all_not]
  rfl

/-- The lock unit at the end of start-up, with the lockout that begins when the failure count calls for one (R75, R83). -/
def Scanned.lockBegun (x : Scanned) : LockUnit :=
  { x.lockTaken with
    lockout := if x.lockTaken.failures < 3 then none
      else some (min 3840 (x.policyTaken.lockoutBase * 2 ^ (x.lockTaken.failures - 3))) }

/-- The checkout expiry at the end of start-up (R167). -/
def Scanned.checkoutBegun (x : Scanned) : Option CheckoutTimer :=
  if x.roomState = .checkout then some ⟨x.policyTaken.checkoutTimeout, false⟩ else none

/-- Outside a stay there is no lockout and no checkout expiry. -/
theorem Scanned.begun_outside {x : Scanned} (outside : x.roomState.inStay = false) :
    x.lockBegun = ⟨7, none, 0, none, []⟩ ∧ x.checkoutBegun = none := by
  obtain ⟨-, -, -, lock, -⟩ := Scanned.taken_outside outside
  refine ⟨?_, if_neg fun checkout => ?_⟩
  · unfold Scanned.lockBegun; rw [lock]; rfl
  · rw [checkout] at outside; cases outside

/-! ### A stay under way (R129) -/

section
variable {x : Scanned} {d : Identity} {b : Binding} {r : RoomRecord}

/-- The sum of the charges of the records of the ROOM record's stay. -/
def Scanned.stayCharges (x : Scanned) (r : RoomRecord) : Nat := ((x.commits.filter fun c => c.stay = r.stay).map (·.charge)).sum

/-- What is spent once the charges of the stay's records are counted (R129, step 4). -/
def Scanned.spentRaised (x : Scanned) (r : RoomRecord) : Nat := max r.spent (x.stayCharges r)

/-- The cap raised to what is spent (R129, step 4). -/
def Scanned.capRaised (x : Scanned) (r : RoomRecord) : Nat := max r.cap (x.spentRaised r)

/-- An identified, bound part with a stay under way in its ROOM record `r` (R167). -/
structure Scanned.InStay (x : Scanned) (d : Identity) (b : Binding) (r : RoomRecord) : Prop where
  identity : x.identity = some d
  binding  : x.binding = some b
  room     : x.room = some r
  stay     : r.state.inStay = true

theorem Scanned.InStay.state (h : x.InStay d b r) : x.roomState = r.state := by
  rw [Scanned.roomState_bound h.identity h.binding, h.room]
  exact if_pos h.stay

theorem Scanned.InStay.under_way (h : x.InStay d b r) : x.roomState.inStay = true := by rw [h.state]; exact h.stay

theorem Scanned.InStay.stay_eq (h : x.InStay d b r) : x.stay = r.stay :=
  x.stay_spec.2.1 r (by rw [h.identity]; nofun) h.room

/-- The records of the stay, in sequence order. -/
theorem Scanned.InStay.records (h : x.InStay d b r) : x.stayRecords = sortBySeq (x.commits.filter fun c => c.stay = r.stay) := by
  rw [Scanned.stayRecords, if_pos h.under_way, h.stay_eq]
  rfl

theorem Scanned.InStay.charges (h : x.InStay d b r) : x.charges = x.stayCharges r := by
  rw [Scanned.charges, h.records]
  exact ((sortBySeq_perm _).map _).sum_eq

theorem Scanned.InStay.roomTaken (h : x.InStay d b r) :
    x.roomTaken = ⟨some b, r.state, r.suspended, r.stay, r.cap, r.spent, 0#32, none⟩ := by
  have bound : x.roomState ≠ .unbound := fun unbound => by have stay := h.under_way; rw [unbound] at stay; cases stay
  unfold Scanned.roomTaken
  rw [if_neg bound, h.stay_eq, h.room, h.binding]
  dsimp only
  rw [if_pos h.under_way, if_pos h.under_way, h.state]

theorem Scanned.InStay.roomRecovered (h : x.InStay d b r) :
    x.roomRecovered = ⟨some b, r.state, r.suspended, r.stay, x.capRaised r, x.spentRaised r, 0#32, none⟩ := by
  rw [Scanned.roomRecovered, if_pos h.under_way, h.roomTaken, h.charges]
  rfl

theorem Scanned.InStay.lockTaken (h : x.InStay d b r) : x.lockTaken = ⟨r.guestCeiling, r.pin, r.failures, none, []⟩ := by
  unfold Scanned.lockTaken
  rw [h.room]
  exact if_pos h.under_way

/-- The ROOM write behind R129, when spent or the cap has been raised. -/
theorem Scanned.InStay.roomOffered (h : x.InStay d b r) (n : Nat) (st : Store) : x.roomOffered n st =
    if x.spentRaised r = r.spent ∧ x.capRaised r = r.cap then st
    else st.offer .part (.room (some
      ⟨r.state, r.suspended, r.stay, x.capRaised r, x.spentRaised r, r.guestCeiling, r.pin, r.failures, n⟩)) := by
  unfold Scanned.roomOffered Scanned.roomRecord
  rw [h.roomRecovered, h.roomTaken, h.lockTaken]
  refine if_congr ?_ rfl rfl
  simp [and_comm]

/-- The purchase unit rebuilt from the records of the stay, the 8 last of them. -/
theorem Scanned.InStay.purchasesTaken (h : x.InStay d b r) (l : List CommitRecord) (listed : x.stayRecords = l) :
    x.purchasesTaken = ⟨(l.drop (l.length - 8)).mapIdx fun i c =>
      ⟨i + 1, c.event, c.title, .committed, c.charge, 0, some c.seq, c.hotel, .rebuilt, false⟩,
    min 8 l.length + 1, x.titles.getD [], []⟩ := by
  have rebuilt : x.rebuiltRecords = l.drop (l.length - 8) := by rw [Scanned.rebuiltRecords, listed]; rfl
  have count : (l.drop (l.length - 8)).length = min 8 l.length := by rw [List.length_drop]; omega
  unfold Scanned.purchasesTaken
  rw [rebuilt, rebuiltEntries_eq, if_pos h.under_way, count]
  simp only [Nat.add_comm 1]

end

/-! ### The state that start-up ends in (R129, R160, R167, R177) -/

/-- The store behind what the owners take: a ROOM write when spent or the cap has been raised, and the freeing writes. -/
def Scanned.storeRecovered (x : Scanned) (s : State) : Store :=
  x.freed.foldl (Store.freeing s.bills.log) (x.roomOffered (s.bills.counter.getD 0 + 8) s.store)

/-- The state behind what the owners take, the lockout and the checkout expiry begun, before the drain is tested (R177, steps 1 to 3). -/
def State.recovered (x : Scanned) (s : State) : State :=
  { s with
    msgs := { s.msgs with
      identity := x.identity, room := { x.roomRecovered with checkout := x.checkoutBegun }, policy := x.policyTaken
      serials := x.serialsTaken }
    lock := x.lockBegun
    purchases := x.purchasesTaken
    events := { s.events with uptime := 0, timerRunning := true }
    store := x.storeRecovered s }

/-- The room recovered in CHECKOUT drains: the log holds no record of its stay (R159); no rebuilt entry is COMMITTING. -/
def Scanned.drained (x : Scanned) (log : List LogRecord) : Prop := x.roomState = .checkout ∧ ∀ l ∈ log, l.record.stay ≠ x.stay

theorem Scanned.roomRecovered_stay (x : Scanned) : x.roomRecovered.stay = x.stay := by
  unfold Scanned.roomRecovered; split <;> rfl

theorem Scanned.roomRecovered_suspended (x : Scanned) :
    x.roomRecovered.suspended = match x.room with | some r => r.suspended | none => false := by
  unfold Scanned.roomRecovered; split <;> rfl

theorem Scanned.roomRecovered_tiers (x : Scanned) : x.roomRecovered.tiers = 0#32 := by
  unfold Scanned.roomRecovered; split <;> rfl

theorem Scanned.roomRecovered_checkout (x : Scanned) : x.roomRecovered.checkout = none := by
  unfold Scanned.roomRecovered; split <;> rfl

/-- The lockout begins when the failure count calls for one (R83). -/
theorem State.startUpLockout_eq (x : Scanned) (s : State) : (s.startTimer.takeRecovered x).startUpLockout =
    { s.startTimer.takeRecovered x with lock := x.lockBegun } := by
  rw [State.takeRecovered_eq]
  unfold State.startUpLockout Scanned.lockBegun
  dsimp only [State.startTimer]
  by_cases few : x.lockTaken.failures < 3
  · rw [if_neg (Nat.not_le.2 few), if_pos few, ← x.lockTaken_lockout]
  · rw [if_pos (Nat.not_lt.1 few), if_neg few, Nat.zero_add]
    rfl

/-- The drain of the state recovered. -/
theorem State.recovered_drains (x : Scanned) (s : State) : (s.recovered x).drains ↔ x.drained s.bills.log := by
  have committed : ∀ e ∈ x.purchasesTaken.entries, e.state ≠ .committing := fun e listed => by
    rw [x.purchasesTaken_spec.1 e listed]; nofun
  unfold State.drains Scanned.drained
  dsimp only [State.recovered]
  rw [x.roomRecovered_state, x.roomRecovered_stay]
  exact and_congr_right fun _ => and_iff_right committed

/-- The checkout expiry begins and the drain is tested in CHECKOUT (R159, R167). -/
theorem State.startedUp_eq {x : Scanned} {s : State} (scanned : s.req.scanned = some x) :
    s.startedUp = (s.recovered x).testDrain .part := by
  have taken : s.startedUp = ((s.startTimer.takeRecovered x).startUpLockout).startUpCheckout := by
    rw [State.startedUp, scanned]; rfl
  rw [taken, State.startUpLockout_eq, State.takeRecovered_eq]
  unfold State.startUpCheckout
  dsimp only
  rw [x.roomRecovered_state]
  by_cases checkout : x.roomState = .checkout
  · rw [if_pos checkout]
    refine congrArg (State.testDrain .part) ?_
    unfold State.recovered State.startCheckoutTimer
    rw [Scanned.checkoutBegun, if_pos checkout]
    dsimp only [State.startTimer]
    rw [Nat.zero_add]
    rfl
  · rw [if_neg checkout, ((s.recovered x).testDrain_spec .part).2 fun drains => checkout ((s.recovered_drains x).1 drains).1]
    unfold State.recovered
    rw [Scanned.checkoutBegun, if_neg checkout, ← x.roomRecovered_checkout]
    rfl

/-! ### What start-up leaves as it was -/

/-- What the end of start-up leaves as it was, and what a failed write does with it: a request that waits goes on. -/
structure State.StartUpKeeps (s t : State) : Prop where
  pending        : t.pending = s.pending
  owed           : t.owed = s.owed
  mem            : t.mem = s.mem
  path           : t.path = s.path
  slots          : t.slots = s.slots
  keys           : t.keys = s.keys
  slates         : t.slates = s.slates
  bills          : t.bills = s.bills
  hotelTime      : t.events.hotelTime = s.events.hotelTime
  requestProduce : t.req.requestProduce = s.req.requestProduce
  requestConsume : t.req.requestConsume = s.req.requestConsume
  answerProduce  : t.req.answerProduce = s.req.answerProduce
  answerConsume  : t.req.answerConsume = s.req.answerConsume
  billProduce    : t.req.billProduce = s.req.billProduce
  billConsume    : t.req.billConsume = s.req.billConsume
  writtenAnswer  : t.req.writtenAnswer = s.req.writtenAnswer
  writtenBill    : t.req.writtenBill = s.req.writtenBill
  startGranted   : t.req.startGranted = s.req.startGranted
  idle           : s.req.service = .idle → t.req.service = .idle
  watching       : t.msgs.watching = s.msgs.watching
  dropped        : t.msgs.dropped = s.msgs.dropped

theorem State.StartUpKeeps.refl (s : State) : s.StartUpKeeps s := ⟨rfl, rfl, rfl, rfl, rfl, rfl, rfl, rfl, rfl, rfl, rfl, rfl, rfl,
  rfl, rfl, rfl, rfl, rfl, id, rfl, rfl⟩

theorem State.StartUpKeeps.trans {s t u : State} (h : s.StartUpKeeps t) (k : t.StartUpKeeps u) : s.StartUpKeeps u where
  pending := k.pending.trans h.pending
  owed := k.owed.trans h.owed
  mem := k.mem.trans h.mem
  path := k.path.trans h.path
  slots := k.slots.trans h.slots
  keys := k.keys.trans h.keys
  slates := k.slates.trans h.slates
  bills := k.bills.trans h.bills
  hotelTime := k.hotelTime.trans h.hotelTime
  requestProduce := k.requestProduce.trans h.requestProduce
  requestConsume := k.requestConsume.trans h.requestConsume
  answerProduce := k.answerProduce.trans h.answerProduce
  answerConsume := k.answerConsume.trans h.answerConsume
  billProduce := k.billProduce.trans h.billProduce
  billConsume := k.billConsume.trans h.billConsume
  writtenAnswer := k.writtenAnswer.trans h.writtenAnswer
  writtenBill := k.writtenBill.trans h.writtenBill
  startGranted := k.startGranted.trans h.startGranted
  idle := fun idle => k.idle (h.idle idle)
  watching := k.watching.trans h.watching
  dropped := k.dropped.trans h.dropped

/-- START joins the front of a set without it (R173). -/
theorem raiseIn_start {n : Notice} {set : List Notice} (start : n.isStart = true) (fresh : ∀ m ∈ set, m.isStart = false) :
    raiseIn n set = n :: set := by
  have absent : set.any n.sameFlag = false := by
    refine List.any_eq_false.2 fun m listed same => ?_
    have other := fresh m listed
    cases n with
    | room | purchase => cases start
    | start => cases m with
      | start => cases other
      | room | purchase => cases same
  unfold raiseIn
  rw [absent, if_neg Bool.false_ne_true, if_pos start]

/-- The state `w` holds what was recovered from `x` at the end of start-up from `s`, whatever the drain has done. -/
structure State.Recovers (x : Scanned) (s w : State) : Prop where
  keeps       : s.StartUpKeeps w
  intake      : w.msgs.intake = s.msgs.intake ∧ w.msgs.headApplied = s.msgs.headApplied
  identity    : w.msgs.identity = x.identity
  policy      : w.msgs.policy = x.policyTaken
  serials     : w.msgs.serials = x.serialsTaken
  binding     : w.msgs.room.binding = x.roomRecovered.binding
  stay        : w.msgs.room.stay = x.stay
  suspended   : w.msgs.room.suspended = match x.room with | some r => r.suspended | none => false
  tiers       : w.msgs.room.tiers = 0#32
  uptime      : w.events.uptime = 0
  timer       : w.events.timerRunning = true
  storeState  : w.store.state = s.store.state
  bringUp     : w.req.bringUp = s.req.bringUp

/-- The same before the START notice is raised. -/
structure State.RecoversUnannounced (x : Scanned) (s w : State) : Prop extends State.Recovers x s w where
  unannounced : ∀ m ∈ w.req.notices, m.isStart = false

theorem Store.freeing_state (log : List LogRecord) (st : Store) (r : CommitRecord) : (st.freeing log r).state = st.state := by
  unfold Store.freeing
  split
  · split
    · exact st.offer_state ..
    · rfl
  · rfl

theorem Store.freeing_places (log : List LogRecord) (st : Store) (r : CommitRecord) : (st.freeing log r).places = st.places := by
  unfold Store.freeing
  split
  · split
    · exact st.offer_places ..
    · rfl
  · rfl

theorem Store.foldl_freeing_state (log : List LogRecord) (l : List CommitRecord) (st : Store) :
    (l.foldl (Store.freeing log) st).state = st.state := by
  induction l generalizing st with
  | nil => rfl
  | cons r l ih => exact (ih _).trans (st.freeing_state log r)

/-- Offers keep the state of the store. -/
theorem Store.foldl_offer_state {α : Type} (c : Caller) (w : α → StoreWrite) (l : List α) (st : Store) :
    (l.foldl (fun st i => st.offer c (w i)) st).state = st.state := by
  induction l generalizing st with
  | nil => rfl
  | cons a l ih => exact (ih _).trans (st.offer_state c (w a))

theorem Scanned.storeRecovered_state (x : Scanned) (s : State) : (x.storeRecovered s).state = s.store.state := by
  refine (Store.foldl_freeing_state _ _ _).trans ?_
  unfold Scanned.roomOffered
  split
  · rfl
  · exact s.store.offer_state ..

theorem State.recovered_recovers (x : Scanned) {s : State} (unannounced : s.req.notices = []) :
    State.RecoversUnannounced x s (s.recovered x) where
  keeps := { State.StartUpKeeps.refl s with }
  intake := ⟨rfl, rfl⟩
  identity := rfl
  policy := rfl
  serials := rfl
  binding := rfl
  stay := x.roomRecovered_stay
  suspended := x.roomRecovered_suspended
  tiers := x.roomRecovered_tiers
  uptime := rfl
  timer := rfl
  storeState := x.storeRecovered_state s
  bringUp := rfl
  unannounced := fun m listed => by
    have listed : m ∈ s.req.notices := listed
    rw [unannounced] at listed
    cases listed

/-- Entering VACANT keeps what was recovered, but for what was recovered of the stay (R160). -/
theorem State.RecoversUnannounced.enterVacant {x : Scanned} {s w : State} (h : State.RecoversUnannounced x s w) :
    State.RecoversUnannounced x s (w.enterVacant .part) := by
  rw [State.enterVacant_eq]
  exact { h with
    keeps := h.keeps.trans { State.StartUpKeeps.refl w with }
    tiers := rfl
    storeState := by
      dsimp only
      rw [Store.offer_state, Store.offer_state, Store.foldl_offer_state .part (StoreWrite.commit · none)]
      exact h.storeState
    unannounced := fun m listed => by
      rcases mem_raiseIn listed with rfl | listed
      · rfl
      · rcases mem_goneNotices listed with ⟨e, _, handle⟩ | listed
        · cases m with
          | start => cases handle
          | room | purchase => rfl
        · exact h.unannounced m listed }

/-- The START notice is raised and the part is RUNNING (R173, R177). -/
def State.begun (x : Scanned) (w : State) : State := (w.raise (w.startNotice x)).launched

theorem State.endStartUp_begun {x : Scanned} {s : State} (scanned : s.req.scanned = some x) :
    s.endStartUp = ((s.recovered x).testDrain .part).begun x := by
  rw [State.endStartUp_launched, State.startedUp_eq scanned, scanned]
  rfl

/-- START is the first flag of the set. -/
theorem State.RecoversUnannounced.notices {x : Scanned} {s w : State} (h : State.RecoversUnannounced x s w) :
    (w.begun x).req.notices = w.startNotice x :: w.req.notices := raiseIn_start rfl h.unannounced

/-- With no drain, start-up ends with what was recovered. -/
theorem State.endStartUp_kept {x : Scanned} {s : State} (scanned : s.req.scanned = some x) (stays : ¬x.drained s.bills.log) :
    s.endStartUp = (s.recovered x).begun x := by
  rw [State.endStartUp_begun scanned, ((s.recovered x).testDrain_spec .part).2 fun drains => stays ((s.recovered_drains x).1 drains)]

/-- With the drain, the room enters VACANT before start-up ends. -/
theorem State.endStartUp_drained {x : Scanned} {s : State} (scanned : s.req.scanned = some x) (drains : x.drained s.bills.log) :
    s.endStartUp = ((s.recovered x).enterVacant .part).begun x := by
  rw [State.endStartUp_begun scanned, ((s.recovered x).testDrain_spec .part).1 ((s.recovered_drains x).2 drains)]

/-- Raising the START notice leaves what was recovered. -/
theorem State.Recovers.begun {x : Scanned} {s w : State} (h : State.Recovers x s w) : State.Recovers x s (w.begun x) :=
  { h with keeps := { h.keeps with } }

/-- Start-up ends with what was recovered, and the START notice says so. -/
theorem State.endStartUp_recovers {x : Scanned} {s : State} {code : BringUp} (scanned : s.req.scanned = some x)
    (bringUp : s.req.bringUp = some code) (unannounced : s.req.notices = []) :
    State.Recovers x s s.endStartUp ∧ s.endStartUp.req.startUp = .running ∧ s.endStartUp.req.scanned = none ∧
      s.endStartUp.req.notices.head? = some (.start code (match x.identity with | some d => d.serial | none => 0#48)
        s.endStartUp.msgs.room.state s.endStartUp.store.state) := by
  have begun {w : State} (h : State.RecoversUnannounced x s w) : State.Recovers x s (w.begun x) ∧
      (w.begun x).req.startUp = .running ∧ (w.begun x).req.scanned = none ∧
        (w.begun x).req.notices.head? = some (.start code (match x.identity with | some d => d.serial | none => 0#48)
          (w.begun x).msgs.room.state (w.begun x).store.state) := by
    refine ⟨h.begun, rfl, rfl, ?_⟩
    rw [h.notices, State.startNotice, h.bringUp, bringUp]
    rfl
  have recovered := State.recovered_recovers x unannounced
  by_cases drains : x.drained s.bills.log
  · rw [State.endStartUp_drained scanned drains]
    exact begun recovered.enterVacant
  · rw [State.endStartUp_kept scanned drains]
    exact begun recovered

/-! ### The ROOM write that ends start-up (R134, R145, R176) -/

/-- A request that waits goes on at the end of its write, or of its write's wait: nothing but the service changes, and not from idle. -/
def RequestUnit.GoesOn (q q' : RequestUnit) : Prop := (q.service = .idle → q'.service = .idle) ∧ ∃ v, q' = { q with service := v }

theorem RequestUnit.writeEnded_goesOn (q : RequestUnit) (kept : Bool) : q.GoesOn (q.writeEnded kept) := by
  rw [RequestUnit.writeEnded_eq]
  split
  · next waits => exact ⟨fun idle => (nomatch waits.symm.trans idle), _, rfl⟩
  · exact ⟨id, q.service, rfl⟩

theorem RequestUnit.writesLost_goesOn (q : RequestUnit) : q.GoesOn (q.writeEnded false).writeJoined := by
  rw [RequestUnit.writesLost_eq]
  split
  · next waits => exact ⟨fun idle => (nomatch waits.symm.trans idle), _, rfl⟩
  · next waits => exact ⟨fun idle => (nomatch waits.symm.trans idle), _, rfl⟩
  · exact ⟨id, q.service, rfl⟩

/-- The state `u` in which the ROOM write of start-up has ended in `s`, as start-up ends: the queue goes on without it when it has
verified, and the store is lost when it has not. -/
structure State.RoomWriteEnded (v : Verify) (rest : List QueuedWrite) (record : RoomRecord) (s u : State) : Prop where
  keeps    : s.StartUpKeeps u
  scanned  : u.req.scanned = s.req.scanned
  bringUp  : u.req.bringUp = s.req.bringUp
  notices  : u.req.notices = s.req.notices
  events   : u.events.entries = s.events.entries
  intake   : (v = .verified ∨ s.msgs.headApplied = false) → u.msgs.intake = s.msgs.intake ∧ u.msgs.headApplied = s.msgs.headApplied
  verified : v = .verified → u.store = { s.store with queue := rest, places := { s.store.places with room := .holds record } }
  failed   : v ≠ .verified → ∃ p, u.StoreLost p

/-- The request unit and the store changed as the end of a write changes them. -/
theorem State.StartUpKeeps.setReq (s : State) {q : RequestUnit} (goes : s.req.GoesOn q) (st : Store) :
    s.StartUpKeeps { s with req := q, store := st } := by
  obtain ⟨idle, v, rfl⟩ := goes
  exact { State.StartUpKeeps.refl s with idle := idle }

/-- A verified ROOM write, its request answered or none waiting. -/
theorem State.RoomWriteEnded.of_verified (s : State) (rest : List QueuedWrite) (record : RoomRecord) {q : RequestUnit}
    (goes : s.req.GoesOn q) : State.RoomWriteEnded .verified rest record s { s with
      req := q, store := { s.store with queue := rest, places := { s.store.places with room := .holds record } } } where
  keeps := .setReq s goes _
  scanned := by obtain ⟨-, v, rfl⟩ := goes; rfl
  bringUp := by obtain ⟨-, v, rfl⟩ := goes; rfl
  notices := by obtain ⟨-, v, rfl⟩ := goes; rfl
  events := rfl
  intake _ := ⟨rfl, rfl⟩
  verified _ := rfl
  failed not := absurd rfl not

/-- A store fault drops a head message that waits, and nothing else of the message unit (R134). -/
theorem State.faultStore_head (s : State) :
    s.faultStore.msgs.watching = s.msgs.watching ∧ s.faultStore.msgs.dropped = s.msgs.dropped := by
  rw [State.faultStore_eq]
  dsimp only
  split <;> exact ⟨rfl, rfl⟩

/-- A failed write that leaves the places as `p`. -/
theorem State.RoomWriteEnded.of_failed {v : Verify} (s : State) (rest : List QueuedWrite) (record : RoomRecord) (p : Places)
    (empty : s.purchases.entries = []) (failed : v ≠ .verified) :
    State.RoomWriteEnded v rest record s (s.leaving p).faultStore := by
  have goes := s.req.writesLost_goesOn
  have none : ∀ e ∈ (s.leaving p).faultStore.purchases.entries, e.state ≠ .committing := fun e listed => by
    have listed : e ∈ s.purchases.entries := listed
    rw [empty] at listed
    cases listed
  have lost := (s.leaving p).storeFault_lost
  rw [State.storeFault, State.failCommitting_none none] at lost
  have keeps := State.StartUpKeeps.setReq s goes s.store
  obtain ⟨-, w, req⟩ := goes
  obtain ⟨watching, dropped⟩ := (s.leaving p).faultStore_head
  exact {
    keeps := { keeps with watching := watching, dropped := dropped }
    scanned := by show (s.req.writeEnded false).writeJoined.scanned = _; rw [req]
    bringUp := by show (s.req.writeEnded false).writeJoined.bringUp = _; rw [req]
    notices := by show (s.req.writeEnded false).writeJoined.notices = _; rw [req]
    events := rfl
    intake := fun unapplied => by
      have kept : (s.leaving p).faultStore.msgs = s.msgs := if_neg (Bool.eq_false_iff.1 (unapplied.resolve_left failed))
      rw [kept]
      exact ⟨rfl, rfl⟩
    verified := fun verified => absurd verified failed
    failed := fun _ => ⟨p, lost⟩ }

theorem State.endStartUpIf_awaiting {s : State} (awaiting : s.req.startUp = .awaitingRoom) : s.endStartUpIf = s.endStartUp := by
  unfold State.endStartUpIf
  rw [awaiting]

/-- The end of the ROOM write of start-up ends start-up (R145, R176). -/
theorem exec_roomWriteEnds {s : State} {q : QueuedWrite} {rest : List QueuedWrite} {record : RoomRecord} (v : Verify) (h : s.settled)
    (queue : s.store.queue = q :: rest) (write : q.write = .room (some record)) (awaiting : s.req.startUp = .awaitingRoom)
    (empty : s.purchases.entries = []) :
    ∃ u, exec (.storeWriteComplete v) s = .next u.endStartUp ∧ State.RoomWriteEnded v rest record s u := by
  rw [exec_storeWrite v h]
  by_cases verified : v = .verified
  · subst verified
    rw [State.completeWrite_verified queue]
    unfold State.writeDone
    rw [write]
    dsimp only
    cases q.answers with
    | false =>
      refine ⟨_, congrArg _ (State.endStartUpIf_awaiting awaiting), ?_⟩
      exact .of_verified s rest record ⟨id, s.req.service, rfl⟩
    | true =>
      refine ⟨_, congrArg _ (State.endStartUpIf_awaiting ((s.req.writeEnded_startUp true).trans awaiting)), ?_⟩
      exact .of_verified s rest record (s.req.writeEnded_goesOn true)
  · rw [State.completeWrite_failed queue verified]
    generalize (if v = .failedDamaged then s.store.places.damage q.write else s.store.places) = p
    have none (e : PurchaseEntry) (listed : e ∈ s.purchases.entries) : e.state ≠ .committing := by rw [empty] at listed; cases listed
    have fault : (s.leaving p).storeFault = (s.leaving p).faultStore := State.failCommitting_none none
    have commits (t : State) : State.failedCommits s t = t :=
      if_neg (by rw [(PurchaseUnit.anyCommitting_false _).2 none]; exact Bool.false_ne_true)
    rw [commits, fault]
    have starting : (s.leaving p).faultStore.req.startUp = .awaitingRoom := by
      obtain ⟨-, w, req⟩ := s.req.writesLost_goesOn
      show (s.req.writeEnded false).writeJoined.startUp = _
      rw [req]
      exact awaiting
    exact ⟨_, congrArg _ (State.endStartUpIf_awaiting starting), .of_failed s rest record p empty verified⟩

/-! ### No stay under way, a stay under way, and a stay that has drained -/

/-- The acknowledged records of the scan, in sequence order. -/
def Scanned.acked (x : Scanned) : List CommitRecord := (sortBySeq x.commits).filter (·.acked)

/-- The state `t` that start-up ends in from `s` with no stay under way (R75, R129, R167). -/
structure State.EndsOutside (x : Scanned) (s t : State) : Prop where
  state     : t.msgs.room.state = x.roomState
  lock      : t.lock = ⟨7, none, 0, none, []⟩
  purchases : t.purchases = ⟨[], 1, [], []⟩
  cap       : t.msgs.room.cap = 0
  spent     : t.msgs.room.spent = 0
  checkout  : t.msgs.room.checkout = none
  other     : t.events.entries = s.events.entries ∧ t.req.notices.tail = []
  store     : t.store = x.acked.foldl (Store.freeing s.bills.log) s.store

/-- The state `t` that start-up ends in from `s` with the stay of the ROOM record `r` under way, and not drained (R129, R167). -/
structure State.EndsInStay (x : Scanned) (r : RoomRecord) (s t : State) : Prop where
  state     : t.msgs.room.state = r.state
  checkout  : t.msgs.room.checkout = if r.state = .checkout then some ⟨t.msgs.policy.checkoutTimeout, false⟩ else none
  lock      : t.lock = ⟨r.guestCeiling, r.pin, r.failures,
    if r.failures < 3 then none else some (min 3840 (t.msgs.policy.lockoutBase * 2 ^ (r.failures - 3))), []⟩
  spent     : t.msgs.room.spent = x.spentRaised r
  cap       : t.msgs.room.cap = x.capRaised r
  other     : t.events.entries = s.events.entries ∧ t.req.notices.tail = []
  purchases : t.purchases = x.purchasesTaken
  store     : t.store = (x.acked.filter fun c => t.purchases.entries.all fun e => e.seq != some c.seq).foldl
    (Store.freeing s.bills.log) (x.roomOffered (s.bills.counter.getD 0 + 8) s.store)

/-- The state `t` that start-up ends in from `s` when the stay of the ROOM record `r` has drained (R129, R159, R160). -/
structure State.EndsDrained (x : Scanned) (r : RoomRecord) (s t : State) : Prop where
  state     : t.msgs.room.state = .vacant
  checkout  : t.msgs.room.checkout = none
  lock      : t.lock = ⟨7, none, 0, none, []⟩
  purchases : t.purchases = ⟨[], x.purchasesTaken.nextHandle, [], []⟩
  cap       : t.msgs.room.cap = 0
  spent     : t.msgs.room.spent = 0
  events    : t.events.entries = s.events.entries.map fun w => { w with used := 0 }
  notices   : t.req.notices.tail = raiseIn .room (goneNotices .checkout x.purchasesTaken.entries [])
  store     : t.store = ((x.rebuiltRecords.foldl (Store.freeing s.bills.log)
      ((x.acked.filter fun c => x.rebuiltRecords.all fun q => q.seq != c.seq).foldl (Store.freeing s.bills.log)
        (x.roomOffered (s.bills.counter.getD 0 + 8) s.store))).offer .part (.titles (some []))).offer .part
      (.room (some ⟨.vacant, r.suspended, r.stay, 0, 0, 7, none, 0, s.bills.counter.getD 0 + 8⟩))

section
variable {x : Scanned} {s : State} {d : Identity} {b : Binding} {r : RoomRecord}

/-- With no drain, START is the only flag. -/
theorem State.endStartUp_kept_quiet (scanned : s.req.scanned = some x) (unannounced : s.req.notices = [])
    (stays : ¬x.drained s.bills.log) : s.endStartUp.req.notices.tail = [] := by
  rw [State.endStartUp_kept scanned stays, (State.recovered_recovers x unannounced).notices]
  exact unannounced

theorem State.endStartUp_outside (scanned : s.req.scanned = some x) (unannounced : s.req.notices = [])
    (outside : x.roomState.inStay = false) : State.EndsOutside x s s.endStartUp := by
  have stays : ¬x.drained s.bills.log := fun drains => by rw [drains.1] at outside; cases outside
  have quiet := State.endStartUp_kept_quiet scanned unannounced stays
  obtain ⟨taken, cap, spent, -, rebuilt, purchases⟩ := Scanned.taken_outside outside
  obtain ⟨lock, checkout⟩ := Scanned.begun_outside outside
  have freed : x.freed = x.acked := by
    rw [Scanned.freed_eq, rebuilt]
    exact List.filter_eq_self.2 fun _ _ => rfl
  rw [State.endStartUp_kept scanned stays] at quiet ⊢
  exact {
    state := x.roomRecovered_state
    lock := lock
    purchases := purchases
    cap := (congrArg Room.cap taken).trans cap
    spent := (congrArg Room.spent taken).trans spent
    checkout := checkout
    other := ⟨rfl, quiet⟩
    store := by
      show x.storeRecovered s = _
      rw [Scanned.storeRecovered, freed, Scanned.roomOffered, if_pos taken] }

theorem State.endStartUp_inStay (scanned : s.req.scanned = some x) (unannounced : s.req.notices = []) (h : x.InStay d b r)
    (stays : ¬x.drained s.bills.log) : State.EndsInStay x r s s.endStartUp := by
  have quiet := State.endStartUp_kept_quiet scanned unannounced stays
  rw [State.endStartUp_kept scanned stays] at quiet ⊢
  exact {
    state := x.roomRecovered_state.trans h.state
    checkout := by
      show x.checkoutBegun = _
      rw [Scanned.checkoutBegun, h.state]
      rfl
    lock := by
      show x.lockBegun = _
      rw [Scanned.lockBegun, h.lockTaken]
      rfl
    spent := congrArg Room.spent h.roomRecovered
    cap := congrArg Room.cap h.roomRecovered
    other := ⟨rfl, quiet⟩
    purchases := rfl
    store := by
      show x.storeRecovered s = (x.acked.filter fun c => (rebuiltEntries 1 x.rebuiltRecords).all fun e => e.seq != some c.seq).foldl _ _
      simp only [rebuiltEntries_all_seq]
      rw [Scanned.storeRecovered, Scanned.freed_eq]
      rfl }

/-- The writes that free the places of rebuilt entries are those that free the places of their records (R136). -/
theorem State.foldl_freed_rebuilt (s : State) (h : Nat) (l : List CommitRecord) (st : Store) (places : st.places = s.store.places) :
    ((rebuiltEntries h l).filterMap s.freed?).foldl (fun st i => st.offer .part (.commit i none)) st =
      l.foldl (Store.freeing s.bills.log) st := by
  induction l generalizing h st with
  | nil => rfl
  | cons c l ih =>
    have place : st.placeOf c.seq = s.store.placeOf c.seq := by unfold Store.placeOf; rw [places]
    have next := ih (h + 1) (Store.freeing s.bills.log st c) ((st.freeing_places _ c).trans places)
    rw [List.foldl_cons, ← next, rebuiltEntries, List.filterMap_cons, State.freed?_eq]
    dsimp only
    unfold Store.freeing
    rw [place]
    by_cases acked : ∀ l ∈ s.bills.log, l.record.seq ≠ c.seq
    · rw [if_pos acked, if_pos acked]
      cases s.store.placeOf c.seq <;> rfl
    · rw [if_neg acked, if_neg acked]

theorem State.endStartUp_vacated (scanned : s.req.scanned = some x) (unannounced : s.req.notices = []) (h : x.InStay d b r)
    (drains : x.drained s.bills.log) : State.EndsDrained x r s s.endStartUp := by
  have notices := (State.recovered_recovers x unannounced).enterVacant.notices
  have freed := (s.recovered x).foldl_freed_rebuilt 1 x.rebuiltRecords (x.storeRecovered s) rfl
  rw [State.endStartUp_drained scanned drains]
  rw [State.enterVacant_eq] at notices ⊢
  exact {
    state := rfl
    checkout := rfl
    lock := rfl
    purchases := rfl
    cap := rfl
    spent := rfl
    events := rfl
    notices := by
      rw [notices]
      show raiseIn .room (goneNotices .checkout x.purchasesTaken.entries s.req.notices) = _
      rw [unannounced]
    store := by
      refine (congrArg (fun st => (Store.offer st .part (.titles (some []))).offer .part _) freed).trans ?_
      show ((x.rebuiltRecords.foldl (Store.freeing s.bills.log) (x.storeRecovered s)).offer .part (.titles (some []))).offer .part
        (.room (some ⟨.vacant, x.roomRecovered.suspended, x.roomRecovered.stay, 0, 0, 7, none, 0, s.bills.counter.getD 0 + 8⟩)) = _
      rw [Scanned.storeRecovered, Scanned.freed_eq, h.roomRecovered]
      rfl }

/-- The flags raised for the rebuilt entries of `l` (R127, R129). -/
theorem goneNotices_rebuilt (l : List CommitRecord) : goneNotices .checkout (l.mapIdx fun i c =>
      ⟨i + 1, c.event, c.title, .committed, c.charge, 0, some c.seq, c.hotel, .rebuilt, false⟩) [] =
    (l.mapIdx fun i c => Notice.purchase (i + 1) c.event .gone .checkout c.charge (some c.seq)).foldl (fun l n => raiseIn n l) [] := by
  have notices : (l.mapIdx fun i c => Notice.purchase (i + 1) c.event .gone .checkout c.charge (some c.seq)) =
      (l.mapIdx fun i c => (⟨i + 1, c.event, c.title, .committed, c.charge, 0, some c.seq, c.hotel, .rebuilt, false⟩ : PurchaseEntry)).map
        (·.notice .gone .checkout) := by
    refine List.ext_getElem (by simp) fun i _ _ => ?_
    rw [List.getElem_map, List.getElem_mapIdx, List.getElem_mapIdx]
    rfl
  rw [notices, List.foldl_map]
  rfl

end

section
variable {x : Scanned} {d : Identity} {b : Binding} {r : RoomRecord}

/-- An identified, bound part with no stay in its ROOM record comes up VACANT (R167). -/
theorem Scanned.roomState_vacant (identity : x.identity = some d) (binding : x.binding = some b)
    (resting : ∀ r, x.room = some r → r.state = .unbound ∨ r.state = .vacant) : x.roomState = .vacant := by
  rw [Scanned.roomState_bound identity binding]
  cases room : x.room with
  | none => rfl
  | some r => exact if_neg (Bool.eq_false_iff.1 ((RoomState.inStay_false_iff _).2 (resting r room)))

/-- No stay is under way where the part has no identity or no binding, or the ROOM record has none (R167). -/
theorem Scanned.outside_stay (resting : x.identity = none ∨ x.binding = none ∨
    ∀ r, x.room = some r → r.state = .unbound ∨ r.state = .vacant) : x.roomState.inStay = false := by
  rw [RoomState.inStay_false_iff]
  rcases resting with missing | missing | resting
  · exact .inl (x.roomState_unbound_iff.2 (.inl missing))
  · exact .inl (x.roomState_unbound_iff.2 (.inr missing))
  · cases identity : x.identity with
    | none => exact .inl (x.roomState_unbound_iff.2 (.inl identity))
    | some d => cases binding : x.binding with
      | none => exact .inl (x.roomState_unbound_iff.2 (.inr binding))
      | some b => exact .inr (Scanned.roomState_vacant identity binding resting)

theorem Scanned.InStay.drained_iff (h : x.InStay d b r) (log : List LogRecord) :
    x.drained log ↔ r.state = .checkout ∧ ∀ l ∈ log, l.record.stay ≠ r.stay := by
  rw [Scanned.drained, h.state, h.stay_eq]

end

end Sys2Proof.Machine

open Sys2Proof Sys2Proof.Machine

/-- Settles O60: the ROOM write's end leads to the end of start-up, which is followed with no stay, with one, and with one that has
drained. -/
theorem startUpEnds : Obligations.StartUpEnds := by
  intro s q rest record x code v settled queue write awaiting scanned bringUp unannounced empty
  obtain ⟨u, ends, ended⟩ := exec_roomWriteEnds v settled queue write awaiting empty
  have scanned : u.req.scanned = some x := ended.scanned.trans scanned
  have unannounced : u.req.notices = [] := ended.notices.trans unannounced
  have bills := ended.keeps.bills
  obtain ⟨recovers, running, handed, start⟩ := State.endStartUp_recovers scanned (ended.bringUp.trans bringUp) unannounced
  have keeps : s.StartUpKeeps u.endStartUp := ended.keeps.trans recovers.keeps
  have outside (none : x.roomState.inStay = false) := State.endStartUp_outside scanned unannounced none
  have inStay {d b r} (h : x.InStay d b r) (stays : ¬(r.state = .checkout ∧ ∀ l ∈ s.bills.log, l.record.stay ≠ r.stay)) :=
    State.endStartUp_inStay scanned unannounced h fun drains => stays ((h.drained_iff _).1 (bills ▸ drains))
  have vacated {d b r} (h : x.InStay d b r) (drains : r.state = .checkout ∧ ∀ l ∈ s.bills.log, l.record.stay ≠ r.stay) :=
    State.endStartUp_vacated scanned unannounced h (bills ▸ (h.drained_iff _).2 drains)
  have lost (failed : v ≠ .verified) : ∃ p, u.endStartUp.StoreLost p := (ended.failed failed).imp fun _ => .endStartUp
  refine ⟨u.endStartUp, ends, ?_⟩
  generalize u.endStartUp = t at *
  intro highest other
  have quiet (events : t.events.entries = u.events.entries ∧ t.req.notices.tail = []) : other :=
    ⟨events.1.trans ended.events, events.2⟩
  have unbound (missing : x.identity = none ∨ x.binding = none) := x.roomState_unbound_iff.2 missing
  refine ⟨running, handed, recovers.bringUp.trans (ended.bringUp.trans bringUp), recovers.identity, recovers.uptime, recovers.timer,
    recovers.tiers, fun verified => ?_, fun failed => ?_, start, ?_, fun missing => ?_, fun missing => ?_, fun d identity missing => ?_,
    fun missing => ?_, fun d identity missing => ?_, fun d b identity binding => ?_, fun verified => ?_⟩
  · rw [recovers.storeState, ended.verified verified]
  · obtain ⟨p, store, -⟩ := lost failed
    rw [store]
    exact ⟨rfl, rfl, rfl⟩
  · exact ⟨keeps.pending, keeps.owed.trans settled, keeps.mem, keeps.path, keeps.slots, keeps.keys, keeps.slates, keeps.bills,
      keeps.hotelTime, keeps.requestProduce, keeps.requestConsume, keeps.answerProduce, keeps.answerConsume, keeps.billProduce,
      keeps.billConsume, keeps.writtenAnswer, keeps.writtenBill, keeps.startGranted, keeps.idle, keeps.watching, keeps.dropped,
      fun unapplied => ⟨recovers.intake.1.trans (ended.intake unapplied).1, recovers.intake.2.trans (ended.intake unapplied).2⟩⟩
  · have o := outside ((RoomState.inStay_false_iff _).2 (.inl (unbound missing)))
    exact ⟨o.state.trans (unbound missing), recovers.binding.trans (x.roomRecovered_binding.trans (if_pos (unbound missing))),
      recovers.policy.trans (if_pos (unbound missing)), o.lock, o.purchases, o.cap, o.spent, o.checkout, recovers.suspended,
      quiet o.other⟩
  · rw [recovers.stay]
    exact x.stay_spec.1 missing
  · have known : x.identity ≠ none := by rw [identity]; nofun
    rw [recovers.stay]
    exact ⟨fun r => x.stay_spec.2.1 r known, x.stay_spec.2.2 known⟩
  · rw [recovers.serials]
    exact x.serialsTaken_spec.1 missing
  · rw [recovers.serials]
    exact x.serialsTaken_spec.2.1 (by rw [identity]; nofun) (unbound (.inr missing))
  · have known : x.identity ≠ none := by rw [identity]; nofun
    have bound : x.roomState ≠ .unbound := fun unbound => by
      have missing := x.roomState_unbound_iff.1 unbound
      rw [identity, binding] at missing
      exact missing.elim nofun nofun
    have resting (rests : ∀ r, x.room = some r → r.state = .unbound ∨ r.state = .vacant) : State.EndsOutside x u t ∧
        t.msgs.room.state = .vacant := by
      have o := outside (Scanned.outside_stay (.inr (.inr rests)))
      exact ⟨o, o.state.trans (Scanned.roomState_vacant identity binding rests)⟩
    refine ⟨recovers.binding.trans ((Scanned.roomRecovered_bound bound).trans binding), recovers.policy.trans (if_neg bound),
      recovers.serials.trans (x.serialsTaken_spec.2.2 known bound), fun room => ?_, fun r room => ?_⟩
    · obtain ⟨o, vacant⟩ := resting fun r found => by rw [room] at found; cases found
      refine ⟨vacant, o.lock, o.purchases, o.cap, o.spent, o.checkout, ?_, ?_, quiet o.other⟩
      · rw [recovers.suspended, room]
      · rw [recovers.stay]
        exact x.stay_spec.2.2 known room
    · have begins (stay : r.state.inStay = true) : x.InStay d b r := ⟨identity, binding, room, stay⟩
      refine ⟨by rw [recovers.suspended, room], recovers.stay.trans (x.stay_spec.2.1 r known room), fun rests => ?_, ?_⟩
      · obtain ⟨o, vacant⟩ := resting fun r' found => by rw [room] at found; cases found; exact rests
        exact ⟨vacant, o.lock, o.purchases, o.cap, o.spent, o.checkout, quiet o.other⟩
      · intro mine charges rebuilt
        have sorted := sortBySeq_sorted mine
        have perm := sortBySeq_perm mine
        have of_inStay (h : x.InStay d b r) (e : State.EndsInStay x r u t) : rebuilt := ⟨e.lock, e.spent, e.cap, quiet e.other,
          sortBySeq mine, perm, sorted, e.purchases.trans (h.purchasesTaken _ h.records)⟩
        refine ⟨fun occupied => ?_, fun checkout logged => ?_, fun checkout unlogged => ?_⟩
        · have h := begins (by rw [occupied]; rfl)
          have e := inStay h fun drains => by rw [occupied] at drains; cases drains.1
          exact ⟨e.state.trans occupied, e.checkout.trans (if_neg (by rw [occupied]; nofun)), of_inStay h e⟩
        · have h := begins (by rw [checkout]; rfl)
          obtain ⟨l, listed, same⟩ := logged
          have e := inStay h fun drains => drains.2 l listed same
          exact ⟨e.state.trans checkout, e.checkout.trans (if_pos checkout), of_inStay h e⟩
        · have h := begins (by rw [checkout]; rfl)
          have e := vacated h ⟨checkout, unlogged⟩
          have purchases := h.purchasesTaken _ h.records
          refine ⟨e.state, e.checkout, e.lock, congrArg PurchaseUnit.entries e.purchases, congrArg PurchaseUnit.titles e.purchases,
            congrArg PurchaseUnit.heldPairs e.purchases, e.cap, e.spent, ?_, sortBySeq mine, perm, sorted, ?_, ?_⟩
          · rw [e.events, ended.events]
          · rw [e.purchases, purchases]
          · rw [e.notices, purchases, goneNotices_rebuilt]
  · refine ⟨sortBySeq x.commits, sortBySeq_perm _, sortBySeq_sorted _, ?_⟩
    intro reserve st free acked
    have store := ended.verified verified
    refine ⟨fun rests => ?_, fun d b r identity binding room states => ?_⟩
    · have o := outside (Scanned.outside_stay rests)
      rw [o.store, store, bills]
      rfl
    · have h : x.InStay d b r := ⟨identity, binding, room, (RoomState.inStay_iff _).2 states⟩
      intro mine spent cap st1
      have offered : x.roomOffered reserve st = st1 := h.roomOffered reserve st
      by_cases drains : r.state = .checkout ∧ ∀ l ∈ s.bills.log, l.record.stay ≠ r.stay
      · have e := vacated h drains
        refine ⟨fun other => absurd e.state other, fun _ => ⟨sortBySeq mine, sortBySeq_perm _, sortBySeq_sorted _, ?_⟩⟩
        intro rebuilt st2
        have records : x.rebuiltRecords = rebuilt := by rw [Scanned.rebuiltRecords, h.records]; rfl
        rw [e.store, store, bills, records]
        show _ = ((rebuilt.foldl free ((acked.filter _).foldl free st1)).offer _ _).offer _ _
        rw [← offered]
        rfl
      · have e := inStay h drains
        refine ⟨fun _ => ?_, fun vacant => ?_⟩
        · rw [← offered, e.store, store, bills]
          rfl
        · rw [e.state] at vacant
          rw [vacant] at states
          exact states.elim nofun nofun
end

section
/-! PROOFS. The queue of waiting commands (O1): a step takes its front, and no command changes it (log 8). -/

namespace Sys2Proof.Machine

variable (s : State)

/-- A fold of operations that each leave the queue leaves it. -/
theorem State.foldl_pending {α : Type} {f : State → α → State} (hf : ∀ s a, (f s a).pending = s.pending) (l : List α) :
    (l.foldl f s).pending = s.pending := by
  induction l generalizing s with
  | nil => rfl
  | cons a l ih => exact (ih _).trans (hf s a)

/-- One of two operations that each leave the queue leaves it. -/
theorem State.ite_pending {p : Prop} [Decidable p] {t u : State} (h : t.pending = s.pending) (k : u.pending = s.pending) :
    (if p then t else u).pending = s.pending := by
  split
  · exact h
  · exact k

/-! ### Parts of what a purchase, an event, a store fault or the drain can lead to -/

@[simp] theorem State.releaseHeld_pending (r : Reason) (e : PurchaseEntry) : (s.releaseHeld r e).pending = s.pending :=
  (Cascade.releaseHeld s r e).pending

@[simp] theorem State.testDrain_pending (c : Caller) : (s.testDrain c).pending = s.pending := (Cascade.testDrain s c).pending

@[simp] theorem State.beginCommit_pending (c : Caller) (h : Nat) : (s.beginCommit c h).pending = s.pending :=
  (Cascade.beginCommit s c h).pending

@[simp] theorem State.endPurchase_pending (c : Caller) (id : BitVec 32) : (s.endPurchase c id).pending = s.pending :=
  (Cascade.endPurchase s c id).pending

@[simp] theorem State.endEvent_pending (c : Caller) (id : BitVec 32) : (s.endEvent c id).pending = s.pending :=
  (Cascade.endEvent s c id).pending

@[simp] theorem State.settle_pending : s.settle.pending = s.pending := (Cascade.settle s).pending

/-! ### Arrivals (R2, R3) -/

theorem State.phaseReport_pending (ring : Fin 4) (slot : Nat) (ks : Fin 64) (q : Phase) :
    (s.phaseReport ring slot ks q).pending = s.pending := by
  have installed : (s.installStaged ks q).pending = s.pending := by unfold State.installStaged; split <;> rfl
  unfold State.phaseReport
  dsimp only
  split <;> exact installed

theorem State.setSlotTag_pending (ring : Fin 4) (slot : Nat) (w : Word) : (s.setSlotTag ring slot w).pending = s.pending := by
  rcases State.setSlotTag_cases ring slot w s with ⟨-, set⟩ | ⟨-, set | ⟨ks, q, set⟩⟩ <;> rw [set]
  · rfl
  · rfl
  · exact State.phaseReport_pending _ ring slot ks q

theorem State.streamWrite_pending (w : WriteTxn) (ring : Fin 4) (slot : Nat) (q : Portion) :
    (s.streamWrite w ring slot q).pending = s.pending := by
  unfold State.streamWrite
  split
  · rfl
  · refine s.ite_pending (s.ite_pending ?_ rfl) rfl
    split
    · exact s.ite_pending (s.setSlotTag_pending ring slot _) rfl
    · rfl

theorem State.controlWrite_pending (w : WriteTxn) (q : Portion) : (s.controlWrite w q).pending = s.pending := by
  unfold State.controlWrite
  split
  · rfl
  · exact s.ite_pending rfl rfl

theorem State.writePortion_pending (w : WriteTxn) (q : Portion) : (s.writePortion w q).pending = s.pending := by
  unfold State.writePortion
  split
  · exact s.streamWrite_pending w _ _ q
  · exact s.controlWrite_pending w q
  all_goals rfl

theorem State.arriveWrite_pending (w : WriteTxn) : (s.arriveWrite w).pending = s.pending :=
  s.ite_pending (s.foldl_pending (fun s q => s.writePortion_pending w q) _) rfl

theorem readPortions_pending (r : ReadTxn) (l : List Portion) (a : State × List HeldPortion) :
    (l.foldl (readPortion r) a).1.pending = a.1.pending := by
  induction l generalizing a with
  | nil => rfl
  | cons q l ih =>
    refine (ih _).trans ?_
    rcases readPortion_cases r a q with h | ⟨id, h⟩ <;> rw [h]

theorem State.arriveRead_pending (r : ReadTxn) : (s.arriveRead r).pending = s.pending :=
  s.ite_pending (readPortions_pending r _ (s, [])) rfl

/-! ### The memory side (R18, R66) -/

theorem State.arbitrate_pending : s.arbitrate.pending = s.pending := by
  unfold State.arbitrate
  split
  · rfl
  · rfl
  · rfl
  · exact s.ite_pending rfl rfl

theorem State.grant_pending : s.grant.pending = s.pending := by
  unfold State.grant
  split
  · exact s.arbitrate_pending
  · split
    · rfl
    · exact (s.performWrite _).arbitrate_pending

theorem State.returnRead_pending : s.returnRead.pending = s.pending := by
  unfold State.returnRead
  split <;> rfl

/-! ### Requests and records (R139, R169 to R174) -/

theorem State.takeRequest_pending : s.takeRequest.pending = s.pending := s.ite_pending rfl rfl

theorem State.serveUnknown_pending : s.serveUnknown.pending = s.pending := by
  unfold State.serveUnknown
  split
  · rfl
  · exact s.ite_pending rfl rfl

@[simp] theorem State.wrongPin_pending (c : Caller) : (s.wrongPin c).1.pending = s.pending := rfl

@[simp] theorem State.attach_pending (n : Nat) (w : Window) : (s.attach n w).pending = s.pending := rfl

@[simp] theorem State.detach_pending (n : Nat) : (s.detach n).pending = s.pending := rfl

/-- Whatever a request finds, serving it leaves the queue: each branch ends in an answer. -/
theorem requestService_pending {code : Nat} {f : Request → State → State} (h : requestService code = some f) (r : Request) :
    (f r s).pending = s.pending := by
  unfold requestService at h
  split at h <;> cases h
  all_goals simp only [serveAttachRing, serveDetachRing, serveServiceInfo, serveKeyInfo, serveSlateInfo, serveSetPin,
    serveSetGuestCeiling, serveUnlock, serveLockNow, serveLockInfo, serveReadEvent, serveQuote, servePurchase, State.purchaseEvent,
    serveCancel, serveListPurchases, serveBillInfo, serveStatus]
  all_goals repeat' split
  all_goals simp

theorem State.serveAs_pending {code : Nat} {f : Request → State → State} (h : requestService code = some f) :
    (s.serveAs code f).pending = s.pending := by
  rcases s.serveAs_cases code f with e | ⟨r, -, -, e⟩ <;> rw [e]
  exact requestService_pending s.fetchDone h r

theorem State.writeAnswer_pending : s.writeAnswer.pending = s.pending := by
  unfold State.writeAnswer
  split
  · next a h _ =>
    refine s.ite_pending ?_ rfl
    cases h with
    | none => rfl
    | some n => exact (s.issueAnswer a).beginCommit_pending .part n
  all_goals rfl

theorem State.writeNotice_pending : s.writeNotice.pending = s.pending := by
  unfold State.writeNotice
  split
  · rfl
  · exact s.ite_pending rfl rfl

theorem State.writeBill_pending : s.writeBill.pending = s.pending := by
  unfold State.writeBill
  split
  · exact s.ite_pending rfl rfl
  · rfl

/-! ### Messages (R148, R153) -/

theorem applyBind_pending (m : Message) : (applyBind m s).pending = s.pending := by
  unfold applyBind
  split
  · simp
  · rfl

theorem applyUnbind_pending : (applyUnbind s).pending = s.pending := s.ite_pending (by simp) rfl

theorem applyHotelKey_pending (m : Message) : (applyHotelKey m s).pending = s.pending := by
  unfold applyHotelKey
  split
  · rfl
  · rfl
  · simp

theorem applyCheckIn_pending (m : Message) : (applyCheckIn m s).pending = s.pending := by
  unfold applyCheckIn
  split
  · simp
  all_goals rfl

theorem applySetCap_pending (m : Message) : (applySetCap m s).pending = s.pending := s.ite_pending (by simp) rfl

theorem State.setSuspended_pending (v : Bool) : (s.setSuspended v).pending = s.pending := s.ite_pending rfl (by simp)

theorem applyClearPin_pending : (applyClearPin s).pending = s.pending := s.ite_pending rfl (by simp)

theorem applyServiceMap_pending (m : Message) : (applyServiceMap m s).pending = s.pending := s.ite_pending rfl rfl

theorem State.releaseAllHeld_pending : s.releaseAllHeld.pending = s.pending :=
  s.foldl_pending (fun s e => s.releaseHeld_pending .checkout e) _

theorem applyCheckOut_pending : (applyCheckOut s).pending = s.pending := by
  unfold applyCheckOut
  split
  · exact (State.testDrain_pending _ .head).trans ((s.setRoomState .checkout).offerRoom .head).releaseAllHeld_pending
  all_goals rfl

theorem applyPolicy_pending (m : Message) : (applyPolicy m s).pending = s.pending :=
  s.ite_pending rfl (State.foldl_pending _ (fun s h => s.beginCommit_pending .head h) _)

theorem State.ackUpTo_pending (n : Nat) : (s.ackUpTo n).pending = s.pending := by
  have written (u : State) (l : LogRecord) : (u.ackWrite l).pending = u.pending := by
    unfold State.ackWrite
    split
    · rfl
    · exact u.ite_pending rfl rfl
  unfold State.ackUpTo
  dsimp only
  split
  · rfl
  · exact State.foldl_pending _ written _

theorem applyBillAck_pending (m : Message) : (applyBillAck m s).pending = s.pending := by
  refine s.ite_pending rfl ?_
  split
  · exact s.testDrain_pending .head
  · refine s.ite_pending ?_ (s.testDrain_pending .head)
    rw [State.testDrain_pending, State.ackUpTo_pending]

theorem State.announceKey_pending (ks : Fin 64) (p : Phase) (w : Word) : (s.announceKey ks p w).pending = s.pending := by
  unfold State.announceKey
  split
  · rfl
  · exact s.ite_pending rfl rfl

theorem applyKey_pending (m : Message) : (applyKey m s).pending = s.pending := by
  have entry (k1 : Word) (u : State) (j : Nat) : (applyKeyEntry m k1 u j).pending = u.pending := by
    unfold applyKeyEntry
    dsimp only
    split
    · exact u.ite_pending (u.announceKey_pending ..) (u.ite_pending (u.announceKey_pending ..) rfl)
    · rfl
  unfold applyKey
  split
  · rfl
  · exact s.ite_pending (s.foldl_pending (entry _) _) rfl

theorem State.announceKnown_pending (a : EventEntry) : (s.announceKnown a).pending = s.pending := by
  unfold State.announceKnown
  split
  · rfl
  · exact s.ite_pending rfl (s.ite_pending (s.endEvent_pending .head _) rfl)

theorem State.announceNew_pending (a : EventEntry) : (s.announceNew a).pending = s.pending := by
  refine s.ite_pending rfl ?_
  split <;> rfl

theorem State.announce_pending (a : EventEntry) : (s.announce a).pending = s.pending := by
  unfold State.announce
  split
  · exact s.announceKnown_pending a
  · refine s.ite_pending (s.endPurchase_pending .head a.id) ?_
    split
    · exact s.ite_pending rfl (s.ite_pending (s.endPurchase_pending .head _) rfl)
    · exact s.announceNew_pending a

theorem applyEvent_pending (m : Message) : (applyEvent m s).pending = s.pending := by
  refine s.ite_pending (s.foldl_pending (fun u j => ?_) _) rfl
  split
  · rfl
  · exact u.announce_pending _

theorem applySlate_pending (m : Message) : (applySlate m s).pending = s.pending := by
  unfold applySlate
  dsimp only
  split <;> rfl

/-- Whatever kind a message is of, applying it leaves the queue. -/
theorem applyKind_pending (k : MsgKind) (m : Message) : (applyKind k m s).pending = s.pending := by
  cases k <;> dsimp only [applyKind]
  case bind => exact applyBind_pending s m
  case unbind => exact applyUnbind_pending s
  case checkIn => exact applyCheckIn_pending s m
  case checkOut => exact applyCheckOut_pending s
  case setCap => exact applySetCap_pending s m
  case entitle => exact s.ite_pending rfl rfl
  case policy => exact applyPolicy_pending s m
  case billAck => exact applyBillAck_pending s m
  case suspend => exact s.setSuspended_pending true
  case resume => exact s.setSuspended_pending false
  case hotelKey => exact applyHotelKey_pending s m
  case clearPin => exact applyClearPin_pending s
  case key => exact applyKey_pending s m
  case serviceMap => exact applyServiceMap_pending s m
  case event => exact applyEvent_pending s m
  case time => rfl
  case slate => exact applySlate_pending s m

theorem State.applyHead_pending (k : MsgKind) (m : Message) : (s.applyHead k m).pending = s.pending := by
  have consumed : (s.consumeSerial k m.serial).pending = s.pending := by
    unfold State.consumeSerial
    split <;> rfl
  have left (u : State) : u.leaveOrWait.pending = u.pending := u.ite_pending rfl rfl
  exact (left _).trans ((applyKind_pending _ k m).trans consumed)

theorem State.dealHeadAs_pending (k : MsgKind) : (s.dealHeadAs k).pending = s.pending := by
  rcases s.dealHeadAs_cases k with e | ⟨m, -, e⟩ <;> rw [e]
  exact s.applyHead_pending k m

theorem State.dealHead_pending : s.dealHead.pending = s.pending := by
  rcases s.dealHead_cases with e | e | ⟨k, m, -, e⟩ <;> rw [e]
  exact s.applyHead_pending k m

/-! ### Start-up, store writes and the tick (R93, R133, R134, R144, R177) -/

theorem State.takeRecovered_pending (x : Scanned) : (s.takeRecovered x).pending = s.pending := by
  refine (State.foldl_pending _ (fun u (r : CommitRecord) => (Cascade.freeIfAcked u .part (some r.seq)).pending) _).trans ?_
  exact s.ite_pending rfl rfl

theorem State.endStartUp_pending : s.endStartUp.pending = s.pending := by
  have locked (u : State) : u.startUpLockout.pending = u.pending := u.ite_pending rfl rfl
  have drained (u : State) : u.startUpCheckout.pending = u.pending :=
    u.ite_pending (u.startCheckoutTimer.testDrain_pending .part) rfl
  unfold State.endStartUp
  dsimp only
  rw [State.raise_pending, drained, locked, State.takeRecovered_pending, State.startTimer_pending]

theorem State.endStartUpIf_pending : s.endStartUpIf.pending = s.pending := by
  unfold State.endStartUpIf
  split
  · exact s.endStartUp_pending
  all_goals rfl

theorem State.scanComplete_pending (e : ScanEnd) : (s.scanComplete e).pending = s.pending := by
  unfold State.scanComplete
  split
  · cases e with
    | unreadable => exact State.endStartUp_pending _
    | read failed => exact State.foldl_pending _ (fun u w => u.offer_pending .part w) _
  all_goals rfl

theorem State.writeDone_pending (q : QueuedWrite) : (s.writeDone q).pending = s.pending := by
  unfold State.writeDone
  split
  · exact (State.endStartUpIf_pending _).trans (s.ite_pending rfl rfl)
  · exact s.ite_pending rfl (Cascade.completeCommit s _).pending
  · exact s.ite_pending rfl rfl
  all_goals rfl

theorem State.completeWrite_pending (v : Verify) : (s.completeWrite v).pending = s.pending := by
  have failed (u : State) : (State.failedCommits s u.storeFault).endStartUpIf.pending = u.pending :=
    calc (State.failedCommits s u.storeFault).endStartUpIf.pending
      _ = (State.failedCommits s u.storeFault).pending := State.endStartUpIf_pending _
      _ = u.storeFault.pending := State.ite_pending _ (Cascade.commitEnded _ .part).pending rfl
      _ = u.pending := (Cascade.storeFault u).pending
  unfold State.completeWrite
  split
  · rfl
  · cases v with
    | verified => exact State.writeDone_pending _ _
    | failedFormer => exact failed s
    | failedDamaged => exact failed _

theorem State.goOn_pending : s.goOn.pending = s.pending := by
  unfold State.goOn
  dsimp only
  split <;> exact s.ite_pending rfl rfl

theorem State.advanceLine_pending : s.advanceLine.pending = s.pending := State.goOn_pending { s with store := s.store.advance }

theorem State.takeTick_pending : s.takeTick.pending = s.pending :=
  s.ite_pending (Cascade.foldMarks { s with events := s.events.advance } s.events.advance.plan.1).pending rfl

/-! ### Every command -/

theorem Effect.pending {s t : State} (h : Effect s t) : t.pending = s.pending := by
  cases h with
  | scan e => exact s.scanComplete_pending e
  | write w => exact s.arriveWrite_pending w
  | read r => exact s.arriveRead_pending r
  | returnRead => exact s.returnRead_pending
  | grant => exact s.grant_pending
  | takeRequest => exact s.takeRequest_pending
  | serveUnknown => exact s.serveUnknown_pending
  | serve h => exact s.serveAs_pending h
  | writeAnswer => exact s.writeAnswer_pending
  | writeNotice => exact s.writeNotice_pending
  | writeBill => exact s.writeBill_pending
  | dealHead => exact s.dealHead_pending
  | dealHeadAs k => exact s.dealHeadAs_pending k
  | tick => exact s.takeTick_pending
  | completeWrite v => exact s.completeWrite_pending v
  | advanceLine => exact s.advanceLine_pending

/-- No command changes the queue: a reset keeps it, and so do the parts of what is owed and every effect (log 8). -/
theorem exec_pending {c : Instr} {s t : State} (h : exec c s = .next t) : t.pending = s.pending := by
  rcases exec_inv h with ⟨straps, performed, rfl⟩ | ⟨p, rfl⟩ | effect
  · rfl
  · exact (Cascade.takeOwed s p).pending
  · exact effect.pending.trans s.settle_pending

/-- With no command waiting the part idles (log 8). -/
theorem step_idle {s : State} (h : s.pending = []) : step s = .next s := by
  rw [step, h]

end Sys2Proof.Machine

open Sys2Proof Sys2Proof.Machine

/-- Settles O1: the step by its queue, and the queue through what a command can do. -/
theorem stepRunsTheFrontCommand : Obligations.StepRunsTheFrontCommand :=
  ⟨⟨fun _ _ _ => rfl, fun _ => step_idle⟩, fun _ _ _ => exec_pending⟩
end
